-- ==== Sys2Proof/Word.lean ====
section
/-!
DEFINITION. The word types of the Gwesia G7 (R8, R124): bytes, 32-bit and 64-bit words, and the
1,024-bit value of a vector register, whose element e of width w stands in bits w·e + w − 1 down
to w·e (R106, R199: lanes in ascending order, lowest bits first).
-/

namespace Sys2Proof

abbrev Byte := BitVec 8
abbrev W32 := BitVec 32
abbrev W64 := BitVec 64

/-- A vector register of 32 lanes of 32 bits (R124). -/
abbrev VReg := BitVec 1024

end Sys2Proof
end

