-- ==== Sys2Proof/Syntax.lean ====
section
/-!
DEFINITION. The syntax: one constructor of `Instr` for each row of spec/opcode_table.json. The
first 192 are the slots of a bundle (R144 to R157, R242), with every bit of their encoding that is
not fixed held in a field. The other 87 are the machine's events, which have no encoding; their
arguments say which core, domain, interface, die or engine operation they concern.
-/

namespace Sys2Proof

/-- The format codes 0 to 7 of R106. -/
inductive Fmt where
  | f32 | bf16 | f16 | e4m3 | e5m2 | i32 | i16 | i8
deriving DecidableEq, Repr

/-- The rounding codes 000 to 110 of R112; 111 is reserved. -/
inductive Rnd where
  | rne | rz | ru | rd | ef | sat | efsat
deriving DecidableEq, Repr

/-- The two vector slots (R123). -/
inductive VUnit where
  | va | vb
deriving DecidableEq, Repr

/-- The `file` field of LD and ST (R151). -/
inductive LsFile where
  | s | a | va | vb
deriving DecidableEq, Repr

/-- The slot in which an address form stands (R152, R197). -/
inductive AgSlot where
  | ld | st
deriving DecidableEq, Repr

/-- The format pairs of the M slot (R119). -/
inductive Pair where
  | bf16 | f16 | e4m3 | e5m2 | e4m3e5m2 | i8 | e4m3dp8 | bf16dp8
deriving DecidableEq, Repr

/-- The ordering mark in imm24 bits 23:22 (R100). -/
inductive Mark where
  | plain | rel | acq | ar
deriving DecidableEq, Repr

/-- The fields of a VA or VB slot (R153). `h1`, `h2`, `h3` are hold bits 44, 45 and 46. -/
structure VOp where
  unit : VUnit
  fmt  : Fmt
  mask : BitVec 3
  rnd  : Rnd
  h1   : Bool
  h2   : Bool
  h3   : Bool
  d    : BitVec 10
  s1   : BitVec 10
  s2   : BitVec 10
  s3   : BitVec 10
  sub  : BitVec 4
deriving DecidableEq, Repr

/-- The fields of an LD or ST slot (R151). -/
structure LsOp where
  cls  : BitVec 2
  file : LsFile
  reg  : BitVec 10
  base : BitVec 5
  idx  : BitVec 5
  off  : BitVec 18
deriving DecidableEq, Repr

/-- The fields of ld.ring and st.ring (R152). -/
structure RingOp where
  cls  : BitVec 2
  file : LsFile
  reg  : BitVec 10
  ring : BitVec 4
  lr   : Bool
  off  : BitVec 18
deriving DecidableEq, Repr

/-- The fields of m.acc and m.dist (R156). -/
structure BeatOp where
  pair  : Pair
  bank  : BitVec 2
  asrc  : Bool
  aring : BitVec 4
  alr   : Bool
  bsrc  : Bool
  bring : BitVec 4
  blr   : Bool
  row   : BitVec 5
  gang  : Bool
deriving DecidableEq, Repr

/-- A command entry: eight 64-bit words (R14). -/
structure CmdEntry where
  w0 : W64
  w1 : W64
  w2 : W64
  w3 : W64
  w4 : W64
  w5 : W64
  w6 : W64
  w7 : W64
deriving DecidableEq, Repr

/-- The eight slots in header-bit order (R123, R144). -/
inductive SlotKind where
  | s | x | ld | st | va | vb | m | q
deriving DecidableEq, Repr

/-- Where a soft error strikes (R293): a stored bit of one of the arrays that the rule lists. -/
inductive FlipAt where
  /-- working scratchpad, byte address and bit within its 8 bytes -/
  | scratch (core row bit : Nat)
  /-- receive window: row of 64 bits (bit 15 names the copy) and bit -/
  | window (core row bit : Nat)
  /-- s-file or a-file register of a context -/
  | sreg (core ctx reg bit : Nat)
  | areg (core ctx reg bit : Nat)
  /-- vector main file: 64-bit row (16·entry + word) and bit -/
  | vmain (core : Nat) (u : VUnit) (row bit : Nat)
  /-- operand-file register, last-result latch or hold register (operand code 768 to 801, or 1024 + position) -/
  | voper (core ctx : Nat) (u : VUnit) (code bit : Nat)
  /-- stored bit of an accumulator cell, by physical bank (R293) -/
  | acc (core bank i j bit : Nat)
  /-- a cell of an unchecked bank that a beat has left with a wrong bit under a code that fits it (R235, R333;
  log entry 33) -/
  | accum (core bank i j bit : Nat)
  /-- edge latch of a context, of the A or the B side, and bit (R228, R293) -/
  | edge (core ctx : Nat) (b : Bool) (bit : Nat)
  /-- mask register of a context and bit (R293) -/
  | mask (core ctx : Nat) (u : VUnit) (k bit : Nat)
  /-- one copy of a placement entry -/
  | place (die dfn copy bit : Nat)
  /-- instruction scratchpad row of 64 bits -/
  | instr (core row bit : Nat)
  /-- the transit buffer of a trade in flight (R301) -/
  | transit (core ctx seq : Nat)
  /-- a block of level D on its media, by its number: a corrected error of its row (R311, R314), or one that
  its own check bits do not correct (R301) -/
  | media (key : Nat) (hard : Bool)
  /-- the side-band word of a block of level D, beyond its check bits (R314) -/
  | sideband (key : Nat)
  /-- the side-band word of a scratchpad slot, and bit (R301) -/
  | slotSb (core slot bit : Nat)
  /-- a block of a pool, beyond its check bits (R301) -/
  | pool (cluster slot : Nat)
  /-- an entry of the active or the shadow router table, uncorrectable (R320) -/
  | router (idx : Nat) (shadow : Bool)
deriving DecidableEq, Repr

/-- One constructor per row of spec/opcode_table.json. Those that the machine builds and that have fields come
first: the compiler knows only 245 of them. -/
inductive Instr where
  -- S slot (R148)
  | sAdd (d a b : BitVec 6)
  | sSub (d a b : BitVec 6)
  | sMul (d a b : BitVec 6)
  | sMulh (d a b : BitVec 6)
  | sMulhu (d a b : BitVec 6)
  | sDiv (d a b : BitVec 6)
  | sDivu (d a b : BitVec 6)
  | sRem (d a b : BitVec 6)
  | sRemu (d a b : BitVec 6)
  | sAnd (d a b : BitVec 6)
  | sOr (d a b : BitVec 6)
  | sXor (d a b : BitVec 6)
  | sShl (d a b : BitVec 6)
  | sShr (d a b : BitVec 6)
  | sSra (d a b : BitVec 6)
  | sMin (d a b : BitVec 6)
  | sMax (d a b : BitVec 6)
  | sMinu (d a b : BitVec 6)
  | sMaxu (d a b : BitVec 6)
  | sSlt (d a b : BitVec 6)
  | sSltu (d a b : BitVec 6)
  | sSeq (d a b : BitVec 6)
  | sAddi (d a : BitVec 6) (imm : BitVec 13)
  | sAndi (d a : BitVec 6) (imm : BitVec 13)
  | sOri (d a : BitVec 6) (imm : BitVec 13)
  | sXori (d a : BitVec 6) (imm : BitVec 13)
  | sShli (d a : BitVec 6) (n : BitVec 13)
  | sShri (d a : BitVec 6) (n : BitVec 13)
  | sSrai (d a : BitVec 6) (n : BitVec 13)
  | sSlti (d a : BitVec 6) (imm : BitVec 13)
  | sMovi (d : BitVec 6) (imm : BitVec 13)
  | sMovk (d : BitVec 6) (hw : BitVec 2) (imm : BitVec 16)
  | sClz (d a : BitVec 6)
  | sCtz (d a : BitVec 6)
  | sPop (d a : BitVec 6)
  | sBext (d a : BitVec 6) (pos w1 : BitVec 6)
  | sBins (d a : BitVec 6) (pos w1 : BitVec 6)
  | sCrc (d a b : BitVec 6)
  | sToa (d a : BitVec 6)
  | sFroma (d a : BitVec 6)
  | sBc (a : BitVec 6)
  | sBz (t : BitVec 6) (off : BitVec 19)
  | sBnz (t : BitVec 6) (off : BitVec 19)
  | sBlt (t : BitVec 6) (off : BitVec 19)
  | sBge (t : BitVec 6) (off : BitVec 19)
  | sJmp (off : BitVec 19)
  | sJr (a : BitVec 6)
  | sCall (off : BitVec 19)
  | sLoop (a : BitVec 6) (len1 : BitVec 5)
  | sNest (a : BitVec 6)
  | sWait (a : BitVec 6)
  | sLock (a : BitVec 6) (count : BitVec 13)
  | sBswap (off : BitVec 19)
  | sCsrr (d : BitVec 6) (csr : BitVec 13)
  | sCsrw (a : BitVec 6) (csr : BitVec 13)
  | sCsrs (a : BitVec 6) (csr : BitVec 13)
  | sCsrc (a : BitVec 6) (csr : BitVec 13)
  | sTrap (code : BitVec 13)
  -- LD and ST slots (R152)
  | ldB (o : LsOp)
  | ldBu (o : LsOp)
  | ldH (o : LsOp)
  | ldHu (o : LsOp)
  | ldW (o : LsOp)
  | ldWu (o : LsOp)
  | ldD (o : LsOp)
  | ldV (o : LsOp)
  | ldVs (o : LsOp)
  | ldRing (o : RingOp)
  | stB (o : LsOp)
  | stH (o : LsOp)
  | stW (o : LsOp)
  | stD (o : LsOp)
  | stV (o : LsOp)
  | stVs (o : LsOp)
  | stRing (o : RingOp)
  | stI (o : LsOp)
  | agAdd (slot : AgSlot) (d b i : BitVec 5)
  | agAddi (slot : AgSlot) (d b : BitVec 5) (off : BitVec 18)
  | agMov (slot : AgSlot) (d b : BitVec 5)
  | agWrap (slot : AgSlot) (d b i : BitVec 5) (off : BitVec 18)
  -- VA and VB slots (R154)
  | vAdd (o : VOp)
  | vSub (o : VOp)
  | vMul (o : VOp)
  | vFma (o : VOp)
  | vFms (o : VOp)
  | vFnma (o : VOp)
  | vMin (o : VOp)
  | vMax (o : VOp)
  | vAbs (o : VOp)
  | vNeg (o : VOp)
  | vClamp (o : VOp)
  | vRcp (o : VOp)
  | vRsq (o : VOp)
  | vSqrt (o : VOp)
  | vExp2 (o : VOp)
  | vLog2 (o : VOp)
  | vRint (o : VOp)
  | vCmp (o : VOp)
  | vSel (o : VOp)
  | vKop (o : VOp)
  | vKpop (o : VOp)
  | vIadd (o : VOp)
  | vIsub (o : VOp)
  | vImul (o : VOp)
  | vImad (o : VOp)
  | vAnd (o : VOp)
  | vOr (o : VOp)
  | vXor (o : VOp)
  | vShl (o : VOp)
  | vShr (o : VOp)
  | vSra (o : VOp)
  | vPop (o : VOp)
  | vClz (o : VOp)
  | vImin (o : VOp)
  | vImax (o : VOp)
  | vCvt (o : VOp)
  | vPack (o : VOp)
  | vUnpack (o : VOp)
  | vPerm (o : VOp)
  | vRot (o : VOp)
  | vZip (o : VOp)
  | vUnzip (o : VOp)
  | vSplat (o : VOp)
  | vExt (o : VOp)
  | vIns (o : VOp)
  | vIota (o : VOp)
  | vRsum (o : VOp)
  | vRmax (o : VOp)
  | vRmin (o : VOp)
  | vScan (o : VOp)
  | vArgmax (o : VOp)
  | vSort (o : VOp)
  | vMerge (o : VOp)
  | vRng (o : VOp)
  | vMov (o : VOp)
  | vXcp (o : VOp)
  | vMovi (o : VOp)
  | vPark (o : VOp)
  | vUnpark (o : VOp)
  -- M slot (R156)
  | mPush (pair : Pair) (side : Bool) (ring : BitVec 4) (row : BitVec 5) (lr : Bool)
  | mShift (bank : BitVec 2)
  | mZero (bank : BitVec 2)
  | mAcc (o : BeatOp)
  | mDist (o : BeatOp)
  | mDrain (pair : Pair) (bank : BitVec 2) (file : VUnit) (reg : BitVec 10) (cvt : BitVec 4) (rnd : Rnd)
  | mTopk (pair : Pair) (bank : BitVec 2) (file : VUnit) (reg : BitVec 10) (k : BitVec 3) (big : Bool)
  -- Q slot (R157)
  | qLd (base : BitVec 5) (off : BitVec 16)
  | qLdt (base : BitVec 5) (off : BitVec 16) (count : BitVec 7)
  | qSkip (n : BitVec 7)
  -- X slot (R150, R242)
  | xXch (cls : BitVec 2) (mark : Mark) (cc a : BitVec 6) (slot n1 : BitVec 10)
  | xXchp (cls : BitVec 2) (cc a : BitVec 6) (slot n1 : BitVec 10)
  | xXchn (cls : BitVec 2) (mark : Mark) (cc a : BitVec 6)
  | xXchs (cls : BitVec 2) (mark : Mark) (cc a b c : BitVec 6) (c1 : BitVec 5)
  | xWin (a b : BitVec 6)
  | xWadv (cls : BitVec 2) (cc : BitVec 6) (ring : BitVec 4) (m : BitVec 16)
  | xWcls (cls : BitVec 2) (cc : BitVec 6) (ring : BitVec 4)
  | xRing (a : BitVec 6)
  | xRwf (ring : BitVec 4) (n : BitVec 10)
  | xRwe (ring : BitVec 4) (n : BitVec 10)
  | xRap (ring : BitVec 4) (n : BitVec 10)
  | xRac (ring : BitVec 4) (n : BitVec 10)
  | xRst (cls : BitVec 2) (cc a b c : BitVec 6) (g1 : BitVec 5)
  | xPhq (cc a : BitVec 6)
  | xRdv (id : BitVec 8)
  | xGang (mask : BitVec 8)
  | xAmo (cls : BitVec 2) (mark : Mark) (cc a b c d : BitVec 6) (fn : BitVec 4) (res : Bool)
  | xAmov (cls : BitVec 2) (mark : Mark) (cc a b c d : BitVec 6) (fn : BitVec 4) (res : Bool) (c1 : BitVec 5)
  | xRedm (cls : BitVec 2) (mark : Mark) (cc a b : BitVec 6) (op : BitVec 2) (fmt : BitVec 3) (n1 : BitVec 10)
  | xMon (cls : BitVec 2) (mark : Mark) (cc a b : BitVec 6)
  | xColl (cls : BitVec 2) (cc a : BitVec 6)
  | xCwait (cc : BitVec 6) (n : BitVec 24)
  | xCpoll (cc a : BitVec 6) (n : BitVec 24)
  | xCset (cc : BitVec 6) (v : BitVec 24)
  | xProbe (cc a b c : BitVec 6) (w nf : Bool)
  | xDisc (cls : BitVec 2) (cc a b : BitVec 6)
  | xHint (cc a b : BitVec 6) (tier pin : BitVec 2)
  | xHot (cc a b : BitVec 6)
  | xFence (cc : BitVec 6) (kind : BitVec 2) (scope : BitVec 3)
  -- events of a core
  | storeCommit (core : Nat)
  | resultDeliver (core ctx : Nat)
  -- commands, dispatched from stream `st` of interface `vi` (R15)
  | cmdNop (vi st : Nat) (e : CmdEntry)
  | launch (vi st : Nat) (e : CmdEntry)
  | signal (vi st : Nat) (e : CmdEntry)
  | wait (vi st : Nat) (e : CmdEntry)
  | waitSatisfied (vi st : Nat)
  | domainBind (vi st : Nat) (e : CmdEntry)
  | domainUnbind (vi st : Nat) (e : CmdEntry)
  | domainUnbindComplete (vi st : Nat)
  | preempt (vi st : Nat) (e : CmdEntry)
  | keyInstall (vi st : Nat) (e : CmdEntry)
  | keyRevoke (vi st : Nat) (e : CmdEntry)
  | launchComplete (launch : Nat)
  | taskAdmit (core : Nat)
  | taskRelease (core ctx : Nat)
  | contextReady (core ctx : Nat)
  | contextSwitch (core : Nat)
  | forcedSwitch (core : Nat)
  -- phases (R39 to R48, R315)
  | barrierPass (dom : Nat)
  | preemptSave (dom : Nat)
  | stragglerTimeout (dom : Nat)
  | resumeBarrier (dom : Nat)
  -- trades of the command with issue number `seq` of a context (R56)
  | tradePhaseA (core ctx seq : Nat)
  | tradePhaseB (core ctx seq : Nat)
  | tradeCommit (core ctx seq : Nat)
  | farRetryTimeout (core ctx seq : Nat)
  | windowRowPlace (core ctx seq : Nat)
  | ringTailMove (core ring : Nat)
  -- horizontal transfers
  | homeFlitSend (core : Nat)
  | rstLanding (core : Nat)
  -- dispenser
  | ntileDispense (core ctx : Nat)
  | ntileDeliver (core ctx : Nat)
  -- Cleat
  | cleatAtomic (core ctx seq : Nat)
  | cleatReduce (core ctx seq : Nat)
  | monitorArm (core ctx seq : Nat)
  -- scale queue
  | scaleLoadLand (core ctx : Nat)
  | scaleTileStage (core ctx : Nat)
  | scaleGroupMove (core ctx : Nat)
  -- Affineur
  | affPolicyTick (die : Nat)
  | affDecayTick (die : Nat)
  | affBlockTrade (die slot : Nat)
  | affReviveSweep (die dfn : Nat)
  -- TLB and routers
  | tlbInvalidateComplete (vi : Nat)
  -- host aperture
  | claimHolddownExpire (die page : Nat)
  -- Delavo link and Shroud
  | delavoPortDown (port : Nat) (noSignal : Bool)
  | shroudChunkReceive (core ctx seq : Nat) (rank chunk : Nat) (bytes : List Byte)
  | shroudChunkAck (core ctx seq : Nat) (chunk : Nat)
  | shroudProgressTimeout (core ctx seq : Nat)
  | shroudAbortNotice (core ctx seq : Nat)
  | collComplete (core ctx seq : Nat)
  -- reset and errors
  | illegalEncoding (core : Nat)
  | placementCommandComplete (core ctx seq : Nat)
  | keyInstallComplete (vi : Nat)
  | keyRevokeComplete (vi : Nat)
  -- inputs: what the outside world does
  | stragExpWrite (vi dom : Nat) (v : W64)
  | domResume (vi dom : Nat)
  | barrierNetFail (dom : Nat)
  | affAbort (die : Nat) (mask : BitVec 8)
  | mapPortGo (die : Nat)
  | bloomClear (die : Nat)
  | channelRetire (die group channel : Nat)
  | rootPortLost (die : Nat)
  | tlbInvalidate (vi : Nat)
  | rtSwap (mask : BitVec 16)
  | sqTailWrite (vi st : Nat) (v : W64)
  | sqEnable (vi st : Nat) (v : W64)
  | sqDisable (vi st : Nat) (v : W64)
  | queueHeadWrite (vi q : Nat) (v : W64)
  | evGrant (vi : Nat) (v : W64)
  | grantWrite (vi v half : Nat) (w : W64)
  | sgEntWrite (vi g : Nat) (w : W64)
  | mbQuote (vi : Nat)
  | mbLog (vi : Nat)
  | mbCertificate (vi : Nat)
  | mbTransport (vi : Nat)
  | registerWrite (vi off : Nat) (v : W64)
  | hostApertureRead (vi off n : Nat)
  | hostApertureWrite (vi off n : Nat) (v : W64)
  | delavoFlitReceive (port : Nat) (crcOk : Bool)
  | delavoSignalTimeout (port : Nat)
  | delavoPortUp (port : Nat)
  | softError (at_ : FlipAt)
  -- those without fields
  | sNop
  | sRet
  | sSegEntry
  | sSegCommit
  | sIfence
  | sBrk
  | sEret
  | qNop
  | xPhase
  | xGend
  | xMwait
  | xNtile
  | xYield
  | xHalt
  | rtSwapCancel
  | rtSwapTake
  | powerOnReset
  | hostWriteAccepted
deriving DecidableEq, Repr

end Sys2Proof
end

