-- ==== Sys2Proof/WellFormed.lean ====
section
/-!
DEFINITION. Well-formed instructions: the limits that chapter 8 and the reference entries put on the
fields of a slot and that the device checks when it decodes the slot (R146 to R157, R166, R200,
R158). Limits on run-time values (addresses, footprints, grants, ring states) belong to the
meanings. Each refusal has a name.
-/

namespace Sys2Proof

/-- Why a slot is refused by the decoder. Every one of them traps with cause 0x01 (R158). -/
inductive DecodeError where
  /-- an opcode that R148, R150, R152, R154 or R157 calls reserved -/
  | reservedOpcode
  /-- a reserved code of a field (R146), such as rounding code 111 -/
  | reservedField
  /-- a field that must be zero holds another value (R147, R149, R151, R153, R156) -/
  | mustBeZero
  /-- a register number beyond its file (R148, R151) -/
  | registerRange
  /-- an immediate, count, shift or bit field outside its limits -/
  | immediateRange
  /-- a CSR number outside the map (R141) -/
  | csrOutsideMap
  /-- a file that the opcode does not allow (R152) -/
  | fileNotAllowed
  /-- an alias class on a slot or command that accepts only 00 (R149, R152) -/
  | aliasClass
  /-- a ring offset that is misaligned or outside the slot (R194) -/
  | ringOffset
  /-- a format code that the opcode does not accept (R153) -/
  | formatNotAccepted
  /-- a rounding code that the opcode does not accept (R112, R154) -/
  | roundingNotAccepted
  /-- a vector source code from 805 to 1022, or outside the file an entry demands (R127) -/
  | sourceCode
  /-- a vector destination code from 800 to 1023, or outside the file an entry demands (R127) -/
  | destCode
  /-- a mask destination of 0, or bits above a mask or s-register number (R153, R206, R208) -/
  | maskOperand
  /-- a mask field that must be zero (R217, R221, R224) -/
  | maskField
  /-- a hold bit on a position that may not be held (R200) -/
  | holdBit
  /-- a sub value that the opcode does not accept (R154, R200) -/
  | subField
  /-- a conversion that R111, R114, R212 or R213 does not allow -/
  | conversion
  /-- a drain target, k or bank-kind combination outside R233 and R234 -/
  | drainTarget
  /-- a function, operation or pin code that R250 to R252, R260 or R101 reserves -/
  | functionCode
deriving DecidableEq, Repr

/-! ## Formats -/

/-- Whether the format is floating (R107). -/
def Fmt.isFloat : Fmt → Bool
  | .f32 | .bf16 | .f16 | .e4m3 | .e5m2 => true
  | .i32 | .i16 | .i8 => false

/-- The width of an element in bits (R106). -/
def Fmt.width : Fmt → Nat
  | .f32 | .i32 => 32
  | .bf16 | .f16 | .i16 => 16
  | .e4m3 | .e5m2 | .i8 => 8

/-- The conversion targets 0 to 9 of R106. -/
inductive Target where
  | fmt (f : Fmt)
  | dp8
  | uint32
deriving DecidableEq, Repr

def Target.width : Target → Nat
  | .fmt f => f.width
  | .dp8 => 8
  | .uint32 => 32

/-- The format with code `n` (R106). -/
def Fmt.ofCode (n : Nat) : Fmt :=
  match n with
  | 0 => .f32 | 1 => .bf16 | 2 => .f16 | 3 => .e4m3 | 4 => .e5m2 | 5 => .i32 | 6 => .i16 | _ => .i8

/-- The target with code `n`; 10 to 15 are reserved (R106). -/
def Target.ofCode (n : Nat) : Option Target :=
  if n < 8 then some (.fmt (Fmt.ofCode n)) else if n = 8 then some .dp8
  else if n = 9 then some .uint32 else none

/-- The formats F of R154. -/
def fmtsF : List Fmt := [.f32, .bf16, .f16]
/-- The formats I of R154. -/
def fmtsI : List Fmt := [.i32, .i16, .i8]
/-- All eight formats. -/
def fmtsAll : List Fmt := [.f32, .bf16, .f16, .e4m3, .e5m2, .i32, .i16, .i8]

/-- The rounding codes 000 to 011 and 101 of R154. -/
def rndsFloat : List Rnd := [.rne, .rz, .ru, .rd, .sat]

/-- The rounding codes that a conversion from `src` to `tgt` accepts (R111 to R114, R211). The
unsigned forms are R212's. A conversion between floating formats that never rounds accepts the codes of R154 as any
other does (log entry 25). -/
def convRnds (src : Fmt) (tgt : Target) : List Rnd :=
  match tgt with
  | .dp8 => if src.isFloat then [.rne, .ef, .sat, .efsat] else []
  | .uint32 =>
    if src.isFloat then rndsFloat else if src = .i32 then [.rne, .sat] else [.rne]
  | .fmt t =>
    if src.isFloat && t.isFloat then
      if t.width < src.width then rndsFloat ++ [.ef, .efsat] else rndsFloat
    else if src.isFloat || t.isFloat then rndsFloat
    else if t.width < src.width then [.rne, .sat] else [.rne]

/-! ## Vector operands -/

/-- What a vector operand position holds (R153). -/
inductive VPos where
  /-- unused: zero, hold bit zero -/
  | unused
  /-- a source operand code of R127 -/
  | src
  /-- a mask number in bits 2:0 -/
  | mask
  /-- code 0 to 799 of the other slot's files (v.xcp) -/
  | other
  /-- a main-file register -/
  | main
  /-- a register pair that begins at 0 to 766 (R221) -/
  | pair
  /-- part of an immediate, or the source control of R212 -/
  | imm
deriving DecidableEq, Repr

/-- What the destination field holds (R153). -/
inductive VDst where
  | unused
  | vec
  | mask
  | sreg
  | main
  | pair
deriving DecidableEq, Repr

/-- A row of R154. `noMask`: the mask field must be zero. -/
structure VRow where
  op     : Nat
  fmts   : List Fmt
  rnds   : List Rnd
  d      : VDst
  s1     : VPos
  s2     : VPos
  s3     : VPos
  subs   : List Nat
  noMask : Bool
deriving DecidableEq, Repr

/-- A row whose destination is a vector and whose mask field is free. -/
def VRow.plain (op : Nat) (fmts : List Fmt) (rnds : List Rnd) (s1 s2 s3 : VPos)
    (subs : List Nat := [0]) : VRow :=
  { op, fmts, rnds, d := .vec, s1, s2, s3, subs, noMask := false }

/-- The row of R154 and the fields of a vector instruction; `none` for the other slots. -/
def Instr.vrow? : Instr → Option (VRow × VOp)
  | .vAdd o => some (.plain 0x01 fmtsF rndsFloat .src .src .unused, o)
  | .vSub o => some (.plain 0x02 fmtsF rndsFloat .src .src .unused, o)
  | .vMul o => some (.plain 0x03 fmtsF rndsFloat .src .src .unused, o)
  | .vFma o => some (.plain 0x04 fmtsF rndsFloat .src .src .src, o)
  | .vFms o => some (.plain 0x05 fmtsF rndsFloat .src .src .src, o)
  | .vFnma o => some (.plain 0x06 fmtsF rndsFloat .src .src .src, o)
  | .vMin o => some (.plain 0x07 (fmtsF ++ fmtsI) [.rne] .src .src .unused, o)
  | .vMax o => some (.plain 0x08 (fmtsF ++ fmtsI) [.rne] .src .src .unused, o)
  | .vAbs o => some (.plain 0x09 (fmtsF ++ fmtsI) [.rne] .src .unused .unused, o)
  | .vNeg o => some (.plain 0x0A (fmtsF ++ fmtsI) [.rne] .src .unused .unused, o)
  | .vClamp o => some (.plain 0x0B (fmtsF ++ fmtsI) [.rne] .src .src .src, o)
  | .vRcp o => some (.plain 0x10 fmtsF [.rne] .src .unused .unused, o)
  | .vRsq o => some (.plain 0x11 fmtsF [.rne] .src .unused .unused, o)
  | .vSqrt o => some (.plain 0x12 fmtsF rndsFloat .src .unused .unused, o)
  | .vExp2 o => some (.plain 0x13 fmtsF rndsFloat .src .unused .unused, o)
  | .vLog2 o => some (.plain 0x14 fmtsF rndsFloat .src .unused .unused, o)
  | .vRint o => some (.plain 0x15 fmtsF rndsFloat .src .unused .unused, o)
  | .vCmp o => some (.mk 0x18 (fmtsF ++ fmtsI) [.rne] .mask .src
      .src .unused [0, 1, 2, 3, 4, 5, 6] false, o)
  | .vSel o => some (.plain 0x19 fmtsAll [.rne] .src .src .unused [1, 2, 3, 4, 5, 6, 7], o)
  | .vKop o => some (.mk 0x1A [.f32] [.rne] .mask .mask
      (if o.sub.toNat = 4 then .unused else .mask) .unused [0, 1, 2, 3, 4] false, o)
  | .vKpop o => some (.mk 0x1B [.f32] [.rne] .sreg .mask
      .unused .unused [0] false, o)
  | .vIadd o => some (.plain 0x20 fmtsI [.rne, .sat] .src .src .unused, o)
  | .vIsub o => some (.plain 0x21 fmtsI [.rne, .sat] .src .src .unused, o)
  | .vImul o => some (.plain 0x22 fmtsI [.rne, .sat] .src .src .unused, o)
  | .vImad o => some (.plain 0x23 fmtsI [.rne, .sat] .src .src .src, o)
  | .vAnd o => some (.plain 0x24 fmtsI [.rne] .src .src .unused, o)
  | .vOr o => some (.plain 0x25 fmtsI [.rne] .src .src .unused, o)
  | .vXor o => some (.plain 0x26 fmtsI [.rne] .src .src .unused, o)
  | .vShl o => some (.plain 0x27 fmtsI [.rne] .src .src .unused, o)
  | .vShr o => some (.plain 0x28 fmtsI [.rne] .src .src .unused, o)
  | .vSra o => some (.plain 0x29 fmtsI [.rne] .src .src .unused, o)
  | .vPop o => some (.plain 0x2A fmtsI [.rne] .src .unused .unused, o)
  | .vClz o => some (.plain 0x2B fmtsI [.rne] .src .unused .unused, o)
  | .vImin o => some (.plain 0x2C fmtsI [.rne] .src .src .unused, o)
  | .vImax o => some (.plain 0x2D fmtsI [.rne] .src .src .unused, o)
  | .vCvt o => some (.plain 0x30 fmtsAll [.rne, .rz, .ru, .rd, .ef, .sat, .efsat] .src .imm .unused
      [0, 1, 2, 3, 4, 5, 6, 7, 8, 9], o)
  | .vPack o => some (.plain 0x31 [.f32, .bf16, .f16, .i32, .i16]
      [.rne, .rz, .ru, .rd, .ef, .sat, .efsat] .src .src .unused [1, 2, 3, 4, 6, 7, 8], o)
  | .vUnpack o => some (.plain 0x32 [.bf16, .f16, .e4m3, .e5m2, .i16, .i8] [.rne] .src .unused .unused
      (if o.fmt.width = 16 then [0, 1] else [0, 1, 2, 3]), o)
  | .vPerm o => some (.plain 0x38 fmtsAll [.rne] .src .src .unused, o)
  | .vRot o => some (.plain 0x39 fmtsAll [.rne] .src .src .unused, o)
  | .vZip o => some (.plain 0x3A fmtsAll [.rne] .src .src .unused [0, 1], o)
  | .vUnzip o => some (.plain 0x3B fmtsAll [.rne] .src .src .unused [0, 1], o)
  | .vSplat o => some (.plain 0x3C fmtsAll [.rne] .src .src .unused, o)
  | .vExt o => some (.mk 0x3D fmtsAll [.rne] .sreg .src
      .src .unused [0] true, o)
  | .vIns o => some (.plain 0x3E fmtsAll [.rne] .src .src .src, o)
  | .vIota o => some (.plain 0x3F fmtsI [.rne] .src .unused .unused, o)
  | .vRsum o => some (.plain 0x40 (fmtsF ++ fmtsI)
      (if o.fmt.isFloat then rndsFloat else [.rne, .sat]) .src .unused .unused, o)
  | .vRmax o => some (.plain 0x41 (fmtsF ++ fmtsI) [.rne] .src .unused .unused, o)
  | .vRmin o => some (.plain 0x42 (fmtsF ++ fmtsI) [.rne] .src .unused .unused, o)
  | .vScan o => some (.plain 0x43 (fmtsF ++ fmtsI)
      (if o.fmt.isFloat then rndsFloat else [.rne, .sat]) .src .unused .unused [0, 1], o)
  | .vArgmax o => some (.plain 0x44 (fmtsF ++ fmtsI) [.rne] .src .unused .unused, o)
  | .vSort o => some (.mk 0x45 [.f32, .i32] [.rne] .pair .pair
      .pair .unused [0, 1] true, o)
  | .vMerge o => some (.mk 0x46 [.f32, .i32] [.rne] .pair .pair
      .pair .unused [0, 1, 2, 3] true, o)
  | .vRng o => some (.plain 0x48 [.i32] [.rne] .src .unused .unused, o)
  | .vMov o => some (.plain 0x50 fmtsAll [.rne] .src .unused .unused, o)
  | .vXcp o => some (.plain 0x51 fmtsAll [.rne] .other .unused .unused, o)
  | .vMovi o => some (.plain 0x52 fmtsAll [.rne] .imm .imm .unused, o)
  | .vPark o => some (.mk 0x58 [.f32] [.rne] .unused .main
      .unused .unused [0] true, o)
  | .vUnpark o => some (.mk 0x59 [.f32] [.rne] .main .unused
      .unused .unused [0] true, o)
  | _ => none

/-- The check of one source field with its hold bit (R127, R153, R200). -/
def VPos.err (p : VPos) (c : Nat) (h : Bool) : Option DecodeError :=
  match p with
  | .unused => if c ≠ 0 then some .mustBeZero else if h then some .holdBit else none
  | .src => if c ≤ 804 ∨ c = 1023 then none else some .sourceCode
  | .mask => if 8 ≤ c then some .maskOperand else if h then some .holdBit else none
  | .other => if c ≤ 799 then none else some .sourceCode
  | .main => if c ≤ 767 then none else some .sourceCode
  | .pair => if 767 ≤ c then some .sourceCode else if h then some .holdBit else none
  | .imm => if h then some .holdBit else none

/-- The check of the destination field (R127, R153, R206, R208). -/
def VDst.err (p : VDst) (c : Nat) : Option DecodeError :=
  match p with
  | .unused => if c ≠ 0 then some .mustBeZero else none
  | .vec => if c ≤ 799 then none else some .destCode
  | .mask => if c = 0 ∨ 8 ≤ c then some .maskOperand else none
  | .sreg => if c < 64 then none else some .maskOperand
  | .main => if c ≤ 767 then none else some .destCode
  | .pair => if c ≤ 766 then none else some .destCode

/-- The source control of v.cvt (R212): u in bit 9, frac in bit 8, sh in bits 4:0 of the s2 field. -/
def cvtErr (o : VOp) : Option DecodeError :=
  let u := o.s2.getLsbD 9
  let frac := o.s2.getLsbD 8
  let sh := (o.s2.extractLsb' 0 5).toNat
  match Target.ofCode o.sub.toNat with
  | none => some .subField
  | some t =>
    if o.fmt ≠ .i32 ∧ o.s2 ≠ 0 then some .mustBeZero
    else if o.s2.extractLsb' 5 3 ≠ 0 then some .mustBeZero
    else if frac ∧ ¬ u then some .conversion
    else if ¬ frac ∧ sh ≠ 0 then some .mustBeZero
    else if u then
      if ¬ o.sub.toNat ≤ 4 then some .conversion
      else if o.rnd ∈ rndsFloat then none else some .roundingNotAccepted
    else if convRnds o.fmt t = [] then some .conversion
    else if o.rnd ∈ convRnds o.fmt t then none else some .roundingNotAccepted

/-- The pairs of R213. -/
def packErr (o : VOp) : Option DecodeError :=
  match Target.ofCode o.sub.toNat with
  | none => some .subField
  | some t =>
    let ok := match o.fmt, t with
      | .f32, .fmt .bf16 => true
      | .f32, .fmt .f16 => true
      | .bf16, .fmt .e4m3 => true
      | .bf16, .fmt .e5m2 => true
      | .bf16, .dp8 => true
      | .f16, .fmt .e4m3 => true
      | .f16, .fmt .e5m2 => true
      | .f16, .dp8 => true
      | .i32, .fmt .i16 => true
      | .i32, .fmt .bf16 => true
      | .i32, .fmt .f16 => true
      | .i16, .fmt .i8 => true
      | .i16, .fmt .e4m3 => true
      | .i16, .fmt .e5m2 => true
      | _, _ => false
    if !ok then some .conversion
    else if o.rnd ∈ convRnds o.fmt t then none else some .roundingNotAccepted

/-- The immediate of v.movi (R155): the bits above the element's width must be zero. -/
def moviErr (o : VOp) : Option DecodeError :=
  if o.fmt.width = 32 then none
  else if o.fmt.width = 16 then
    if o.s1.extractLsb' 6 4 = 0 then none else some .mustBeZero
  else if o.s1 = 0 ∧ o.s2.extractLsb' 8 2 = 0 then none else some .mustBeZero

/-- The first failed check of a list. -/
def firstError : List (Option DecodeError) → Option DecodeError
  | [] => none
  | some e :: _ => some e
  | none :: es => firstError es

/-- The checks of R153 to R155 and R200 against the row. -/
def vErr (r : VRow) (o : VOp) : Option DecodeError :=
  firstError
    [ if o.fmt ∈ r.fmts then none else some .formatNotAccepted
    , if o.rnd ∈ r.rnds then none else some .roundingNotAccepted
    , if r.noMask ∧ o.mask ≠ 0 then some .maskField else none
    , r.d.err o.d.toNat
    , r.s1.err o.s1.toNat o.h1
    , r.s2.err o.s2.toNat o.h2
    , r.s3.err o.s3.toNat o.h3
    , if o.sub.toNat ∈ r.subs then none else some .subField
    , if r.op = 0x30 then cvtErr o else none
    , if r.op = 0x31 then packErr o else none
    , if r.op = 0x52 then moviErr o else none ]

/-! ## CSR numbers -/

/-- The CSR map of R142. -/
def csrMap : List Nat :=
  [0x000, 0x001, 0x002, 0x003, 0x004, 0x010, 0x011, 0x012, 0x020, 0x021, 0x022, 0x023, 0x024, 0x025,
   0x026, 0x027, 0x030, 0x031, 0x040, 0x041, 0x042, 0x050, 0x051, 0x060, 0x061, 0x070, 0x071, 0x072,
   0x080]

def csrErr (n : BitVec 13) : Option DecodeError :=
  if n.toNat ∈ csrMap then none else some .csrOutsideMap

/-! ## Load and store slots -/

/-- A register number beyond its file (R151). -/
def lsRegErr (f : LsFile) (r : Nat) : Option DecodeError :=
  match f with
  | .s => if r < 64 then none else some .registerRange
  | .a => if r < 32 then none else some .registerRange
  | .va | .vb => if r < 800 then none else some .registerRange

/-- The checks of an LD or ST slot whose opcode allows the listed files (R152). -/
def lsErr (files : List LsFile) (o : LsOp) : Option DecodeError :=
  firstError
    [ if o.file ∈ files then none else some .fileNotAllowed
    , lsRegErr o.file o.reg.toNat ]

/-- The checks of ld.ring and st.ring (R152, R194, R195). -/
def ringErr (o : RingOp) : Option DecodeError :=
  let off := o.off.toNat
  firstError
    [ if o.file = .a then some .fileNotAllowed else none
    , lsRegErr o.file o.reg.toNat
    , if 2048 ≤ off then some .ringOffset else none
    , if o.file = .s then if off % 8 = 0 then none else some .ringOffset
      else if off % 128 = 0 then none else some .ringOffset ]

/-! ## The M slot -/

/-- The fields of a side that a latch feeds must be zero (R156). -/
def beatErr (o : BeatOp) : Option DecodeError :=
  if o.asrc ∧ (o.aring ≠ 0 ∨ o.alr) then some .mustBeZero
  else if o.bsrc ∧ (o.bring ≠ 0 ∨ o.blr) then some .mustBeZero
  else none

/-- The table of R233, and the destination limit of R156. -/
def drainErr (pair : Pair) (reg : BitVec 10) (cvt : BitVec 4) (rnd : Rnd) : Option DecodeError :=
  let c := cvt.toNat
  if 768 ≤ reg.toNat then some .drainTarget
  else if pair = .i8 then
    if c = 5 then if rnd = .rne then none else some .roundingNotAccepted
    else if c = 6 ∨ c = 7 then
      if rnd = .rne ∨ rnd = .sat then none else some .roundingNotAccepted
    else some .drainTarget
  else if c = 0 then if rnd = .rne then none else some .roundingNotAccepted
  else if 1 ≤ c ∧ c ≤ 4 then if rnd ∈ rndsFloat then none else some .roundingNotAccepted
  else some .drainTarget

/-! ## Every instruction -/

/-- The first check that the instruction fails, by name. -/
def Instr.wfError : Instr → Option DecodeError
  | .sShli _ _ n => if n.toNat < 64 then none else some .immediateRange
  | .sShri _ _ n => if n.toNat < 64 then none else some .immediateRange
  | .sSrai _ _ n => if n.toNat < 64 then none else some .immediateRange
  | .sBext _ _ pos w1 => if pos.toNat + w1.toNat + 1 ≤ 64 then none else some .immediateRange
  | .sBins _ _ pos w1 => if pos.toNat + w1.toNat + 1 ≤ 64 then none else some .immediateRange
  | .sToa d _ => if d.toNat < 32 then none else some .registerRange
  | .sFroma _ a => if a.toNat < 32 then none else some .registerRange
  | .sLock _ count => if 1 ≤ count.toNat ∧ count.toNat ≤ 16 then none else some .immediateRange
  | .sCsrr _ csr => csrErr csr
  | .sCsrw _ csr => csrErr csr
  | .sCsrs _ csr => csrErr csr
  | .sCsrc _ csr => csrErr csr
  | .ldB o => lsErr [.s, .a] o
  | .ldBu o => lsErr [.s, .a] o
  | .ldH o => lsErr [.s, .a] o
  | .ldHu o => lsErr [.s, .a] o
  | .ldW o => lsErr [.s, .a] o
  | .ldWu o => lsErr [.s, .a] o
  | .ldD o => lsErr [.s, .a] o
  | .ldV o => lsErr [.va, .vb] o
  | .ldVs o => lsErr [.va, .vb] o
  | .ldRing o => ringErr o
  | .stB o => lsErr [.s, .a] o
  | .stH o => lsErr [.s, .a] o
  | .stW o => lsErr [.s, .a] o
  | .stD o => lsErr [.s, .a] o
  | .stV o => lsErr [.va, .vb] o
  | .stVs o => lsErr [.va, .vb] o
  | .stRing o => if o.lr then some .mustBeZero else ringErr o
  | .stI o => if o.cls ≠ 0 then some .aliasClass else lsErr [.s, .a, .va, .vb] o
  | .mAcc o => beatErr o
  | .mDist o => beatErr o
  | .mDrain pair _ _ reg cvt rnd => drainErr pair reg cvt rnd
  | .mTopk _ _ _ reg k _ =>
    if 768 ≤ reg.toNat then some .drainTarget
    else if k = 0 then some .drainTarget else none
  | .qSkip n => if 1 ≤ n.toNat ∧ n.toNat ≤ 64 then none else some .immediateRange
  | .xWadv _ _ _ m => if m = 0 then some .immediateRange else none
  | .xAmo _ _ _ _ b c d fn res =>
    if 12 ≤ fn.toNat then some .functionCode
    else if fn = 10 ∧ b ≠ 0 then some .mustBeZero
    else if fn ≠ 9 ∧ c ≠ 0 then some .mustBeZero
    else if ¬ res ∧ d ≠ 0 then some .mustBeZero else none
  | .xAmov _ _ _ _ _ c d fn res _ =>
    if 12 ≤ fn.toNat ∨ fn = 9 then some .functionCode
    else if fn = 10 ∧ c ≠ 0 then some .mustBeZero
    else if ¬ res ∧ d ≠ 0 then some .mustBeZero else none
  | .xRedm _ _ _ _ _ op fmt n1 =>
    if op = 3 ∨ ¬ (fmt = 0 ∨ fmt = 1 ∨ fmt = 5) then some .functionCode
    else if 2048 < (n1.toNat + 1) * (if fmt = 1 then 2 else 4) then some .immediateRange else none
  | .xProbe _ _ _ c _ nf => if ¬ nf ∧ c ≠ 0 then some .mustBeZero else none
  | .xHint _ _ _ _ pin => if pin = 3 then some .functionCode else none
  | .xFence _ kind scope =>
    if kind = 3 ∨ 6 ≤ scope.toNat then some .functionCode else none
  | i => match i.vrow? with
    | some (r, o) => vErr r o
    | none => none

/-- The instruction passes every check of decoding. -/
def WellFormed (i : Instr) : Bool := i.wfError.isNone

end Sys2Proof
end

