-- ==== Sys2Proof/Decode.lean ====
section
/-!
DEFINITION. The encodings of chapter 8 (R144 to R158): `encode` writes the word of a slot from the
field tables; the decoders take the fields out of a word, and accept it when the fields give back
the whole word (so every bit that must be zero is checked) and the result is well-formed. A bundle
is a header byte and its slots (R144, R145). Everything is total and refuses by name.
-/

namespace Sys2Proof

/-! ## Codes of fields -/

/-- The code of a format (R106). -/
def Fmt.code : Fmt → BitVec 3
  | .f32 => 0 | .bf16 => 1 | .f16 => 2 | .e4m3 => 3 | .e5m2 => 4 | .i32 => 5 | .i16 => 6 | .i8 => 7

/-- The format of a code (R106). -/
def Fmt.ofBits (c : BitVec 3) : Fmt := Fmt.ofCode c.toNat

/-- The rounding code (R112). -/
def Rnd.code : Rnd → BitVec 3
  | .rne => 0 | .rz => 1 | .ru => 2 | .rd => 3 | .ef => 4 | .sat => 5 | .efsat => 6

/-- The rounding mode of a code; 111 is reserved (R112). -/
def Rnd.ofCode (c : BitVec 3) : Option Rnd :=
  match c.toNat with
  | 0 => some .rne | 1 => some .rz | 2 => some .ru | 3 => some .rd | 4 => some .ef | 5 => some .sat
  | 6 => some .efsat | _ => none

/-- The code of an ordering mark (R242). -/
def Mark.code : Mark → BitVec 2
  | .plain => 0 | .rel => 1 | .acq => 2 | .ar => 3

def Mark.ofCode (c : BitVec 2) : Mark :=
  match c.toNat with
  | 0 => .plain | 1 => .rel | 2 => .acq | _ => .ar

/-- The code of a load or store file (R151). -/
def LsFile.code : LsFile → BitVec 2
  | .s => 0 | .a => 1 | .va => 2 | .vb => 3

def LsFile.ofCode (c : BitVec 2) : LsFile :=
  match c.toNat with
  | 0 => .s | 1 => .a | 2 => .va | _ => .vb

/-- The pair code (R119). -/
def Pair.code : Pair → BitVec 3
  | .bf16 => 0 | .f16 => 1 | .e4m3 => 2 | .e5m2 => 3 | .e4m3e5m2 => 4 | .i8 => 5 | .e4m3dp8 => 6
  | .bf16dp8 => 7

def Pair.ofCode (c : BitVec 3) : Pair :=
  match c.toNat with
  | 0 => .bf16 | 1 => .f16 | 2 => .e4m3 | 3 => .e5m2 | 4 => .e4m3e5m2 | 5 => .i8 | 6 => .e4m3dp8
  | _ => .bf16dp8

/-- Which file of a drain (R156, bit 23). -/
def VUnit.bit : VUnit → BitVec 1
  | .va => 0 | .vb => 1

def VUnit.ofBool (b : Bool) : VUnit := if b then .vb else .va

/-! ## Encoding -/

/-- The word of a slot, or `event` for a row of the opcode table that has no encoding. -/
inductive Enc where
  | s (w : BitVec 32)
  | x (w : BitVec 64)
  | ld (w : BitVec 48)
  | st (w : BitVec 48)
  | v (u : VUnit) (w : BitVec 64)
  | m (w : BitVec 32)
  | q (w : BitVec 32)
  | event
deriving DecidableEq, Repr

/-- The 7-bit opcode of the S slot (R147). -/
abbrev opw (n : Nat) : BitVec 7 := BitVec.ofNat 7 n

/-- The layout of R151. -/
def encLs (op : BitVec 6) (o : LsOp) : BitVec 48 :=
  op ++ o.cls ++ o.file.code ++ o.reg ++ o.base ++ o.idx ++ o.off

/-- The layout of ld.ring and st.ring (R152). -/
def encRing (op : BitVec 6) (o : RingOp) : BitVec 48 :=
  op ++ o.cls ++ o.file.code ++ o.reg ++ o.ring ++ BitVec.ofBool o.lr ++ 0#5 ++ o.off

/-- The layout of an address form in either slot (R197): class 00, file 01. -/
def encAg (op : BitVec 6) (d b i : BitVec 5) (off : BitVec 18) : BitVec 48 :=
  op ++ 0#2 ++ 1#2 ++ 0#5 ++ d ++ b ++ i ++ off

def AgSlot.enc (s : AgSlot) (w : BitVec 48) : Enc :=
  match s with
  | .ld => .ld w
  | .st => .st w

/-- The layout of R153. -/
def encV (op : BitVec 8) (o : VOp) : BitVec 64 :=
  op ++ o.fmt.code ++ o.mask ++ o.rnd.code ++ BitVec.ofBool o.h3 ++ BitVec.ofBool o.h2 ++
    BitVec.ofBool o.h1 ++ o.d ++ o.s1 ++ o.s2 ++ o.s3 ++ o.sub

/-- The beat layout of R156. -/
def encBeat (fn : BitVec 1) (o : BeatOp) : BitVec 32 :=
  2#2 ++ o.pair.code ++ o.bank ++ fn ++ BitVec.ofBool o.asrc ++ o.aring ++ BitVec.ofBool o.alr ++
    BitVec.ofBool o.bsrc ++ o.bring ++ BitVec.ofBool o.blr ++ o.row ++ BitVec.ofBool o.gang ++ 0#6

/-- The encoding of an instruction (R147 to R157, R242). -/
def encode : Instr → Enc
  | .sNop => .s (opw 0x00 ++ 0#25)
  | .sAdd d a b => .s (opw 0x01 ++ d ++ a ++ b ++ 0#7)
  | .sSub d a b => .s (opw 0x02 ++ d ++ a ++ b ++ 0#7)
  | .sMul d a b => .s (opw 0x03 ++ d ++ a ++ b ++ 0#7)
  | .sMulh d a b => .s (opw 0x04 ++ d ++ a ++ b ++ 0#7)
  | .sMulhu d a b => .s (opw 0x05 ++ d ++ a ++ b ++ 0#7)
  | .sDiv d a b => .s (opw 0x06 ++ d ++ a ++ b ++ 0#7)
  | .sDivu d a b => .s (opw 0x07 ++ d ++ a ++ b ++ 0#7)
  | .sRem d a b => .s (opw 0x08 ++ d ++ a ++ b ++ 0#7)
  | .sRemu d a b => .s (opw 0x09 ++ d ++ a ++ b ++ 0#7)
  | .sAnd d a b => .s (opw 0x0A ++ d ++ a ++ b ++ 0#7)
  | .sOr d a b => .s (opw 0x0B ++ d ++ a ++ b ++ 0#7)
  | .sXor d a b => .s (opw 0x0C ++ d ++ a ++ b ++ 0#7)
  | .sShl d a b => .s (opw 0x0D ++ d ++ a ++ b ++ 0#7)
  | .sShr d a b => .s (opw 0x0E ++ d ++ a ++ b ++ 0#7)
  | .sSra d a b => .s (opw 0x0F ++ d ++ a ++ b ++ 0#7)
  | .sMin d a b => .s (opw 0x10 ++ d ++ a ++ b ++ 0#7)
  | .sMax d a b => .s (opw 0x11 ++ d ++ a ++ b ++ 0#7)
  | .sMinu d a b => .s (opw 0x12 ++ d ++ a ++ b ++ 0#7)
  | .sMaxu d a b => .s (opw 0x13 ++ d ++ a ++ b ++ 0#7)
  | .sSlt d a b => .s (opw 0x14 ++ d ++ a ++ b ++ 0#7)
  | .sSltu d a b => .s (opw 0x15 ++ d ++ a ++ b ++ 0#7)
  | .sSeq d a b => .s (opw 0x16 ++ d ++ a ++ b ++ 0#7)
  | .sAddi d a imm => .s (opw 0x18 ++ d ++ a ++ imm)
  | .sAndi d a imm => .s (opw 0x19 ++ d ++ a ++ imm)
  | .sOri d a imm => .s (opw 0x1A ++ d ++ a ++ imm)
  | .sXori d a imm => .s (opw 0x1B ++ d ++ a ++ imm)
  | .sShli d a imm => .s (opw 0x1C ++ d ++ a ++ imm)
  | .sShri d a imm => .s (opw 0x1D ++ d ++ a ++ imm)
  | .sSrai d a imm => .s (opw 0x1E ++ d ++ a ++ imm)
  | .sSlti d a imm => .s (opw 0x1F ++ d ++ a ++ imm)
  | .sMovi d imm => .s (opw 0x20 ++ d ++ 0#6 ++ imm)
  | .sMovk d hw imm => .s (opw 0x21 ++ d ++ 0#1 ++ hw ++ imm)
  | .sClz d a => .s (opw 0x22 ++ d ++ a ++ 0#13)
  | .sCtz d a => .s (opw 0x23 ++ d ++ a ++ 0#13)
  | .sPop d a => .s (opw 0x24 ++ d ++ a ++ 0#13)
  | .sBext d a pos w1 => .s (opw 0x25 ++ d ++ a ++ 0#1 ++ pos ++ w1)
  | .sBins d a pos w1 => .s (opw 0x26 ++ d ++ a ++ 0#1 ++ pos ++ w1)
  | .sCrc d a b => .s (opw 0x27 ++ d ++ a ++ b ++ 0#7)
  | .sToa d a => .s (opw 0x28 ++ d ++ a ++ 0#13)
  | .sFroma d a => .s (opw 0x29 ++ d ++ a ++ 0#13)
  | .sBc a => .s (opw 0x2A ++ 0#6 ++ a ++ 0#13)
  | .sBz t off => .s (opw 0x30 ++ t ++ off)
  | .sBnz t off => .s (opw 0x31 ++ t ++ off)
  | .sBlt t off => .s (opw 0x32 ++ t ++ off)
  | .sBge t off => .s (opw 0x33 ++ t ++ off)
  | .sJmp off => .s (opw 0x34 ++ 0#6 ++ off)
  | .sJr a => .s (opw 0x35 ++ 0#6 ++ a ++ 0#13)
  | .sCall off => .s (opw 0x36 ++ 0#6 ++ off)
  | .sRet => .s (opw 0x37 ++ 0#25)
  | .sLoop a len1 => .s (opw 0x38 ++ 0#6 ++ a ++ 0#8 ++ len1)
  | .sNest a => .s (opw 0x39 ++ 0#6 ++ a ++ 0#13)
  | .sWait a => .s (opw 0x3A ++ 0#6 ++ a ++ 0#13)
  | .sLock a imm => .s (opw 0x3B ++ 0#6 ++ a ++ imm)
  | .sSegEntry => .s (opw 0x3C ++ 0#25)
  | .sSegCommit => .s (opw 0x3C ++ 1#25)
  | .sIfence => .s (opw 0x3D ++ 0#25)
  | .sBswap off => .s (opw 0x3E ++ 0#6 ++ off)
  | .sCsrr d imm => .s (opw 0x40 ++ d ++ 0#6 ++ imm)
  | .sCsrw a imm => .s (opw 0x41 ++ 0#6 ++ a ++ imm)
  | .sCsrs a imm => .s (opw 0x42 ++ 0#6 ++ a ++ imm)
  | .sCsrc a imm => .s (opw 0x43 ++ 0#6 ++ a ++ imm)
  | .sTrap imm => .s (opw 0x44 ++ 0#12 ++ imm)
  | .sBrk => .s (opw 0x45 ++ 0#25)
  | .sEret => .s (opw 0x46 ++ 0#25)
  | .ldB o => .ld (encLs 0x01#6 o)
  | .ldBu o => .ld (encLs 0x02#6 o)
  | .ldH o => .ld (encLs 0x03#6 o)
  | .ldHu o => .ld (encLs 0x04#6 o)
  | .ldW o => .ld (encLs 0x05#6 o)
  | .ldWu o => .ld (encLs 0x06#6 o)
  | .ldD o => .ld (encLs 0x07#6 o)
  | .ldV o => .ld (encLs 0x08#6 o)
  | .ldVs o => .ld (encLs 0x09#6 o)
  | .ldRing o => .ld (encRing 0x0A#6 o)
  | .stB o => .st (encLs 0x01#6 o)
  | .stH o => .st (encLs 0x03#6 o)
  | .stW o => .st (encLs 0x05#6 o)
  | .stD o => .st (encLs 0x07#6 o)
  | .stV o => .st (encLs 0x08#6 o)
  | .stVs o => .st (encLs 0x09#6 o)
  | .stI o => .st (encLs 0x0B#6 o)
  | .stRing o => .st (encRing 0x0A#6 o)
  | .agAdd s d b i => s.enc (encAg 0x10#6 d b i 0)
  | .agAddi s d b off => s.enc (encAg 0x11#6 d b 0 off)
  | .agMov s d b => s.enc (encAg 0x12#6 d b 0 0)
  | .agWrap s d b i off => s.enc (encAg 0x13#6 d b i off)
  | .vAdd o => .v o.unit (encV 0x01#8 o)
  | .vSub o => .v o.unit (encV 0x02#8 o)
  | .vMul o => .v o.unit (encV 0x03#8 o)
  | .vFma o => .v o.unit (encV 0x04#8 o)
  | .vFms o => .v o.unit (encV 0x05#8 o)
  | .vFnma o => .v o.unit (encV 0x06#8 o)
  | .vMin o => .v o.unit (encV 0x07#8 o)
  | .vMax o => .v o.unit (encV 0x08#8 o)
  | .vAbs o => .v o.unit (encV 0x09#8 o)
  | .vNeg o => .v o.unit (encV 0x0A#8 o)
  | .vClamp o => .v o.unit (encV 0x0B#8 o)
  | .vRcp o => .v o.unit (encV 0x10#8 o)
  | .vRsq o => .v o.unit (encV 0x11#8 o)
  | .vSqrt o => .v o.unit (encV 0x12#8 o)
  | .vExp2 o => .v o.unit (encV 0x13#8 o)
  | .vLog2 o => .v o.unit (encV 0x14#8 o)
  | .vRint o => .v o.unit (encV 0x15#8 o)
  | .vCmp o => .v o.unit (encV 0x18#8 o)
  | .vSel o => .v o.unit (encV 0x19#8 o)
  | .vKop o => .v o.unit (encV 0x1A#8 o)
  | .vKpop o => .v o.unit (encV 0x1B#8 o)
  | .vIadd o => .v o.unit (encV 0x20#8 o)
  | .vIsub o => .v o.unit (encV 0x21#8 o)
  | .vImul o => .v o.unit (encV 0x22#8 o)
  | .vImad o => .v o.unit (encV 0x23#8 o)
  | .vAnd o => .v o.unit (encV 0x24#8 o)
  | .vOr o => .v o.unit (encV 0x25#8 o)
  | .vXor o => .v o.unit (encV 0x26#8 o)
  | .vShl o => .v o.unit (encV 0x27#8 o)
  | .vShr o => .v o.unit (encV 0x28#8 o)
  | .vSra o => .v o.unit (encV 0x29#8 o)
  | .vPop o => .v o.unit (encV 0x2A#8 o)
  | .vClz o => .v o.unit (encV 0x2B#8 o)
  | .vImin o => .v o.unit (encV 0x2C#8 o)
  | .vImax o => .v o.unit (encV 0x2D#8 o)
  | .vCvt o => .v o.unit (encV 0x30#8 o)
  | .vPack o => .v o.unit (encV 0x31#8 o)
  | .vUnpack o => .v o.unit (encV 0x32#8 o)
  | .vPerm o => .v o.unit (encV 0x38#8 o)
  | .vRot o => .v o.unit (encV 0x39#8 o)
  | .vZip o => .v o.unit (encV 0x3A#8 o)
  | .vUnzip o => .v o.unit (encV 0x3B#8 o)
  | .vSplat o => .v o.unit (encV 0x3C#8 o)
  | .vExt o => .v o.unit (encV 0x3D#8 o)
  | .vIns o => .v o.unit (encV 0x3E#8 o)
  | .vIota o => .v o.unit (encV 0x3F#8 o)
  | .vRsum o => .v o.unit (encV 0x40#8 o)
  | .vRmax o => .v o.unit (encV 0x41#8 o)
  | .vRmin o => .v o.unit (encV 0x42#8 o)
  | .vScan o => .v o.unit (encV 0x43#8 o)
  | .vArgmax o => .v o.unit (encV 0x44#8 o)
  | .vSort o => .v o.unit (encV 0x45#8 o)
  | .vMerge o => .v o.unit (encV 0x46#8 o)
  | .vRng o => .v o.unit (encV 0x48#8 o)
  | .vMov o => .v o.unit (encV 0x50#8 o)
  | .vXcp o => .v o.unit (encV 0x51#8 o)
  | .vMovi o => .v o.unit (encV 0x52#8 o)
  | .vPark o => .v o.unit (encV 0x58#8 o)
  | .vUnpark o => .v o.unit (encV 0x59#8 o)
  | .mPush pair side ring row lr =>
    .m (0#2 ++ pair.code ++ 0#2 ++ BitVec.ofBool side ++ ring ++ row ++ BitVec.ofBool lr ++ 0#14)
  | .mShift bank => .m (1#2 ++ 0#3 ++ bank ++ 0#25)
  | .mZero bank => .m (1#2 ++ 0#3 ++ bank ++ 1#1 ++ 0#24)
  | .mAcc o => .m (encBeat 0 o)
  | .mDist o => .m (encBeat 1 o)
  | .mDrain pair bank file reg cvt rnd =>
    .m (3#2 ++ pair.code ++ bank ++ 0#1 ++ file.bit ++ reg ++ cvt ++ rnd.code ++ 0#6)
  | .mTopk pair bank file reg k big =>
    .m (3#2 ++ pair.code ++ bank ++ 1#1 ++ file.bit ++ reg ++ 0#4 ++ 0#3 ++ k ++ BitVec.ofBool big ++
      0#2)
  | .qNop => .q 0
  | .qLd base off => .q (1#4 ++ base ++ off ++ 1#7)
  | .qLdt base off count => .q (2#4 ++ base ++ off ++ count)
  | .qSkip n => .q (3#4 ++ 0#21 ++ n)
  | .xXch cls mark cc a slot n1 => .x (0x01#8 ++ cls ++ cc ++ a ++ 0#18 ++ mark.code ++ 0#2 ++ n1 ++ slot)
  | .xXchp cls cc a slot n1 => .x (0x02#8 ++ cls ++ cc ++ a ++ 0#22 ++ n1 ++ slot)
  | .xXchn cls mark cc a => .x (0x03#8 ++ cls ++ cc ++ a ++ 0#18 ++ mark.code ++ 0#22)
  | .xXchs cls mark cc a b c c1 => .x (0x04#8 ++ cls ++ cc ++ a ++ b ++ c ++ 0#6 ++ mark.code ++ 0#17 ++ c1)
  | .xWin a b => .x (0x08#8 ++ 0#8 ++ a ++ b ++ 0#36)
  | .xWadv cls cc ring m => .x (0x09#8 ++ cls ++ cc ++ 0#28 ++ m ++ ring)
  | .xWcls cls cc ring => .x (0x0A#8 ++ cls ++ cc ++ 0#44 ++ ring)
  | .xRing a => .x (0x0C#8 ++ 0#8 ++ a ++ 0#42)
  | .xRwf ring n => .x (0x0D#8 ++ 0#42 ++ n ++ ring)
  | .xRwe ring n => .x (0x0E#8 ++ 0#42 ++ n ++ ring)
  | .xRap ring n => .x (0x0F#8 ++ 0#42 ++ n ++ ring)
  | .xRac ring n => .x (0x10#8 ++ 0#42 ++ n ++ ring)
  | .xRst cls cc a b c g1 => .x (0x14#8 ++ cls ++ cc ++ a ++ b ++ c ++ 0#25 ++ g1)
  | .xPhase => .x (0x18#8 ++ 0#56)
  | .xPhq cc a => .x (0x19#8 ++ 0#2 ++ cc ++ a ++ 0#42)
  | .xRdv id => .x (0x1A#8 ++ 0#48 ++ id)
  | .xGang mask => .x (0x1B#8 ++ 0#48 ++ mask)
  | .xGend => .x (0x1C#8 ++ 0#56)
  | .xAmo cls mark cc a b c d fn res => .x (0x20#8 ++ cls ++ cc ++ a ++ b ++ c ++ d ++ mark.code ++ 0#17 ++ BitVec.ofBool res ++ fn)
  | .xAmov cls mark cc a b c d fn res c1 => .x (0x21#8 ++ cls ++ cc ++ a ++ b ++ c ++ d ++ mark.code ++ 0#12 ++ c1 ++ BitVec.ofBool res ++ fn)
  | .xRedm cls mark cc a b op fmt n1 => .x (0x22#8 ++ cls ++ cc ++ a ++ b ++ 0#12 ++ mark.code ++ 0#6 ++ n1 ++ 0#1 ++ fmt ++ op)
  | .xMon cls mark cc a b => .x (0x23#8 ++ cls ++ cc ++ a ++ b ++ 0#12 ++ mark.code ++ 0#22)
  | .xMwait => .x (0x24#8 ++ 0#56)
  | .xColl cls cc a => .x (0x28#8 ++ cls ++ cc ++ a ++ 0#42)
  | .xCwait cc n24 => .x (0x2C#8 ++ 0#2 ++ cc ++ 0#24 ++ n24)
  | .xCpoll cc a n24 => .x (0x2D#8 ++ 0#2 ++ cc ++ a ++ 0#18 ++ n24)
  | .xCset cc v24 => .x (0x2E#8 ++ 0#2 ++ cc ++ 0#24 ++ v24)
  | .xNtile => .x (0x30#8 ++ 0#56)
  | .xProbe cc a b c w nf => .x (0x34#8 ++ 0#2 ++ cc ++ a ++ b ++ c ++ 0#28 ++ BitVec.ofBool nf ++ BitVec.ofBool w)
  | .xDisc cls cc a b => .x (0x35#8 ++ cls ++ cc ++ a ++ b ++ 0#36)
  | .xHint cc a b tier pin => .x (0x36#8 ++ 0#2 ++ cc ++ a ++ b ++ 0#32 ++ pin ++ tier)
  | .xHot cc a b => .x (0x37#8 ++ 0#2 ++ cc ++ a ++ b ++ 0#36)
  | .xFence cc kind scope => .x (0x38#8 ++ 0#2 ++ cc ++ 0#43 ++ kind ++ scope)
  | .xYield => .x (0x3C#8 ++ 0#56)
  | .xHalt => .x (0x3D#8 ++ 0#56)
  | .storeCommit _ => .event
  | .resultDeliver _ _ => .event
  | .cmdNop _ _ _ => .event
  | .launch _ _ _ => .event
  | .signal _ _ _ => .event
  | .wait _ _ _ => .event
  | .waitSatisfied _ _ => .event
  | .domainBind _ _ _ => .event
  | .domainUnbind _ _ _ => .event
  | .domainUnbindComplete _ _ => .event
  | .preempt _ _ _ => .event
  | .keyInstall _ _ _ => .event
  | .keyRevoke _ _ _ => .event
  | .launchComplete _ => .event
  | .taskAdmit _ => .event
  | .taskRelease _ _ => .event
  | .contextReady _ _ => .event
  | .contextSwitch _ => .event
  | .forcedSwitch _ => .event
  | .barrierPass _ => .event
  | .preemptSave _ => .event
  | .stragglerTimeout _ => .event
  | .stragExpWrite _ _ _ => .event
  | .domResume _ _ => .event
  | .resumeBarrier _ => .event
  | .barrierNetFail _ => .event
  | .tradePhaseA _ _ _ => .event
  | .tradePhaseB _ _ _ => .event
  | .tradeCommit _ _ _ => .event
  | .farRetryTimeout _ _ _ => .event
  | .windowRowPlace _ _ _ => .event
  | .ringTailMove _ _ => .event
  | .homeFlitSend _ => .event
  | .rstLanding _ => .event
  | .ntileDispense _ _ => .event
  | .ntileDeliver _ _ => .event
  | .cleatAtomic _ _ _ => .event
  | .cleatReduce _ _ _ => .event
  | .monitorArm _ _ _ => .event
  | .scaleLoadLand _ _ => .event
  | .scaleTileStage _ _ => .event
  | .scaleGroupMove _ _ => .event
  | .affPolicyTick _ => .event
  | .affDecayTick _ => .event
  | .affBlockTrade _ _ => .event
  | .affAbort _ _ => .event
  | .affReviveSweep _ _ => .event
  | .mapPortGo _ => .event
  | .bloomClear _ => .event
  | .channelRetire _ _ _ => .event
  | .rootPortLost _ => .event
  | .tlbInvalidate _ => .event
  | .tlbInvalidateComplete _ => .event
  | .rtSwap _ => .event
  | .rtSwapCancel => .event
  | .rtSwapTake => .event
  | .sqTailWrite _ _ _ => .event
  | .sqEnable _ _ _ => .event
  | .sqDisable _ _ _ => .event
  | .queueHeadWrite _ _ _ => .event
  | .evGrant _ _ => .event
  | .grantWrite _ _ _ _ => .event
  | .sgEntWrite _ _ _ => .event
  | .mbQuote _ => .event
  | .mbLog _ => .event
  | .mbCertificate _ => .event
  | .mbTransport _ => .event
  | .registerWrite _ _ _ => .event
  | .hostApertureRead _ _ _ => .event
  | .hostApertureWrite _ _ _ _ => .event
  | .claimHolddownExpire _ _ => .event
  | .delavoFlitReceive _ _ => .event
  | .delavoPortDown _ _ => .event
  | .delavoSignalTimeout _ => .event
  | .delavoPortUp _ => .event
  | .shroudChunkReceive _ _ _ _ _ _ => .event
  | .shroudChunkAck _ _ _ _ => .event
  | .shroudAbortNotice _ _ _ => .event
  | .shroudProgressTimeout _ _ _ => .event
  | .collComplete _ _ _ => .event
  | .powerOnReset => .event
  | .illegalEncoding _ => .event
  | .softError _ => .event
  | .hostWriteAccepted => .event
  | .placementCommandComplete _ _ _ => .event
  | .keyInstallComplete _ => .event
  | .keyRevokeComplete _ => .event

/-! ## Decoding a slot -/

/-- What a decoder answers. -/
abbrev Decoded := Except DecodeError Instr

/-- Accepts a candidate when its encoding is the word itself, so that every fixed bit agrees, and
when it is well-formed (R146). -/
def accept (e : Enc) (c : Option Instr) : Decoded :=
  match c with
  | none => .error .reservedOpcode
  | some i =>
    if encode i ≠ e then .error .mustBeZero
    else match i.wfError with
      | some err => .error err
      | none => .ok i

/-- The instruction whose fields the S word holds (R148). -/
def fieldsS (w : BitVec 32) : Option Instr :=
  match (w.extractLsb' 25 7).toNat with
  | 0x00 => some .sNop
  | 0x01 => some (.sAdd (w.extractLsb' 19 6) (w.extractLsb' 13 6) (w.extractLsb' 7 6))
  | 0x02 => some (.sSub (w.extractLsb' 19 6) (w.extractLsb' 13 6) (w.extractLsb' 7 6))
  | 0x03 => some (.sMul (w.extractLsb' 19 6) (w.extractLsb' 13 6) (w.extractLsb' 7 6))
  | 0x04 => some (.sMulh (w.extractLsb' 19 6) (w.extractLsb' 13 6) (w.extractLsb' 7 6))
  | 0x05 => some (.sMulhu (w.extractLsb' 19 6) (w.extractLsb' 13 6) (w.extractLsb' 7 6))
  | 0x06 => some (.sDiv (w.extractLsb' 19 6) (w.extractLsb' 13 6) (w.extractLsb' 7 6))
  | 0x07 => some (.sDivu (w.extractLsb' 19 6) (w.extractLsb' 13 6) (w.extractLsb' 7 6))
  | 0x08 => some (.sRem (w.extractLsb' 19 6) (w.extractLsb' 13 6) (w.extractLsb' 7 6))
  | 0x09 => some (.sRemu (w.extractLsb' 19 6) (w.extractLsb' 13 6) (w.extractLsb' 7 6))
  | 0x0A => some (.sAnd (w.extractLsb' 19 6) (w.extractLsb' 13 6) (w.extractLsb' 7 6))
  | 0x0B => some (.sOr (w.extractLsb' 19 6) (w.extractLsb' 13 6) (w.extractLsb' 7 6))
  | 0x0C => some (.sXor (w.extractLsb' 19 6) (w.extractLsb' 13 6) (w.extractLsb' 7 6))
  | 0x0D => some (.sShl (w.extractLsb' 19 6) (w.extractLsb' 13 6) (w.extractLsb' 7 6))
  | 0x0E => some (.sShr (w.extractLsb' 19 6) (w.extractLsb' 13 6) (w.extractLsb' 7 6))
  | 0x0F => some (.sSra (w.extractLsb' 19 6) (w.extractLsb' 13 6) (w.extractLsb' 7 6))
  | 0x10 => some (.sMin (w.extractLsb' 19 6) (w.extractLsb' 13 6) (w.extractLsb' 7 6))
  | 0x11 => some (.sMax (w.extractLsb' 19 6) (w.extractLsb' 13 6) (w.extractLsb' 7 6))
  | 0x12 => some (.sMinu (w.extractLsb' 19 6) (w.extractLsb' 13 6) (w.extractLsb' 7 6))
  | 0x13 => some (.sMaxu (w.extractLsb' 19 6) (w.extractLsb' 13 6) (w.extractLsb' 7 6))
  | 0x14 => some (.sSlt (w.extractLsb' 19 6) (w.extractLsb' 13 6) (w.extractLsb' 7 6))
  | 0x15 => some (.sSltu (w.extractLsb' 19 6) (w.extractLsb' 13 6) (w.extractLsb' 7 6))
  | 0x16 => some (.sSeq (w.extractLsb' 19 6) (w.extractLsb' 13 6) (w.extractLsb' 7 6))
  | 0x18 => some (.sAddi (w.extractLsb' 19 6) (w.extractLsb' 13 6) (w.extractLsb' 0 13))
  | 0x19 => some (.sAndi (w.extractLsb' 19 6) (w.extractLsb' 13 6) (w.extractLsb' 0 13))
  | 0x1A => some (.sOri (w.extractLsb' 19 6) (w.extractLsb' 13 6) (w.extractLsb' 0 13))
  | 0x1B => some (.sXori (w.extractLsb' 19 6) (w.extractLsb' 13 6) (w.extractLsb' 0 13))
  | 0x1C => some (.sShli (w.extractLsb' 19 6) (w.extractLsb' 13 6) (w.extractLsb' 0 13))
  | 0x1D => some (.sShri (w.extractLsb' 19 6) (w.extractLsb' 13 6) (w.extractLsb' 0 13))
  | 0x1E => some (.sSrai (w.extractLsb' 19 6) (w.extractLsb' 13 6) (w.extractLsb' 0 13))
  | 0x1F => some (.sSlti (w.extractLsb' 19 6) (w.extractLsb' 13 6) (w.extractLsb' 0 13))
  | 0x20 => some (.sMovi (w.extractLsb' 19 6) (w.extractLsb' 0 13))
  | 0x21 => some (.sMovk (w.extractLsb' 19 6) (w.extractLsb' 16 2) (w.extractLsb' 0 16))
  | 0x22 => some (.sClz (w.extractLsb' 19 6) (w.extractLsb' 13 6))
  | 0x23 => some (.sCtz (w.extractLsb' 19 6) (w.extractLsb' 13 6))
  | 0x24 => some (.sPop (w.extractLsb' 19 6) (w.extractLsb' 13 6))
  | 0x25 => some (.sBext (w.extractLsb' 19 6) (w.extractLsb' 13 6) (w.extractLsb' 6 6) (w.extractLsb' 0 6))
  | 0x26 => some (.sBins (w.extractLsb' 19 6) (w.extractLsb' 13 6) (w.extractLsb' 6 6) (w.extractLsb' 0 6))
  | 0x27 => some (.sCrc (w.extractLsb' 19 6) (w.extractLsb' 13 6) (w.extractLsb' 7 6))
  | 0x28 => some (.sToa (w.extractLsb' 19 6) (w.extractLsb' 13 6))
  | 0x29 => some (.sFroma (w.extractLsb' 19 6) (w.extractLsb' 13 6))
  | 0x2A => some (.sBc (w.extractLsb' 13 6))
  | 0x30 => some (.sBz (w.extractLsb' 19 6) (w.extractLsb' 0 19))
  | 0x31 => some (.sBnz (w.extractLsb' 19 6) (w.extractLsb' 0 19))
  | 0x32 => some (.sBlt (w.extractLsb' 19 6) (w.extractLsb' 0 19))
  | 0x33 => some (.sBge (w.extractLsb' 19 6) (w.extractLsb' 0 19))
  | 0x34 => some (.sJmp (w.extractLsb' 0 19))
  | 0x35 => some (.sJr (w.extractLsb' 13 6))
  | 0x36 => some (.sCall (w.extractLsb' 0 19))
  | 0x37 => some .sRet
  | 0x38 => some (.sLoop (w.extractLsb' 13 6) (w.extractLsb' 0 5))
  | 0x39 => some (.sNest (w.extractLsb' 13 6))
  | 0x3A => some (.sWait (w.extractLsb' 13 6))
  | 0x3B => some (.sLock (w.extractLsb' 13 6) (w.extractLsb' 0 13))
  | 0x3C => some (if w.getLsbD 0 then .sSegCommit else .sSegEntry)
  | 0x3D => some .sIfence
  | 0x3E => some (.sBswap (w.extractLsb' 0 19))
  | 0x40 => some (.sCsrr (w.extractLsb' 19 6) (w.extractLsb' 0 13))
  | 0x41 => some (.sCsrw (w.extractLsb' 13 6) (w.extractLsb' 0 13))
  | 0x42 => some (.sCsrs (w.extractLsb' 13 6) (w.extractLsb' 0 13))
  | 0x43 => some (.sCsrc (w.extractLsb' 13 6) (w.extractLsb' 0 13))
  | 0x44 => some (.sTrap (w.extractLsb' 0 13))
  | 0x45 => some .sBrk
  | 0x46 => some .sEret
  | _ => none

def decodeS (w : BitVec 32) : Decoded := accept (.s w) (fieldsS w)

/-- The fields of R149 and R242. -/
def fieldsX (w : BitVec 64) : Option Instr :=
  match (w.extractLsb' 56 8).toNat with
  | 0x01 => some (.xXch (w.extractLsb' 54 2) (Mark.ofCode (w.extractLsb' 22 2)) (w.extractLsb' 48 6) (w.extractLsb' 42 6) (w.extractLsb' 0 10) (w.extractLsb' 10 10))
  | 0x02 => some (.xXchp (w.extractLsb' 54 2) (w.extractLsb' 48 6) (w.extractLsb' 42 6) (w.extractLsb' 0 10) (w.extractLsb' 10 10))
  | 0x03 => some (.xXchn (w.extractLsb' 54 2) (Mark.ofCode (w.extractLsb' 22 2)) (w.extractLsb' 48 6) (w.extractLsb' 42 6))
  | 0x04 => some (.xXchs (w.extractLsb' 54 2) (Mark.ofCode (w.extractLsb' 22 2)) (w.extractLsb' 48 6) (w.extractLsb' 42 6) (w.extractLsb' 36 6) (w.extractLsb' 30 6) (w.extractLsb' 0 5))
  | 0x08 => some (.xWin (w.extractLsb' 42 6) (w.extractLsb' 36 6))
  | 0x09 => some (.xWadv (w.extractLsb' 54 2) (w.extractLsb' 48 6) (w.extractLsb' 0 4) (w.extractLsb' 4 16))
  | 0x0A => some (.xWcls (w.extractLsb' 54 2) (w.extractLsb' 48 6) (w.extractLsb' 0 4))
  | 0x0C => some (.xRing (w.extractLsb' 42 6))
  | 0x0D => some (.xRwf (w.extractLsb' 0 4) (w.extractLsb' 4 10))
  | 0x0E => some (.xRwe (w.extractLsb' 0 4) (w.extractLsb' 4 10))
  | 0x0F => some (.xRap (w.extractLsb' 0 4) (w.extractLsb' 4 10))
  | 0x10 => some (.xRac (w.extractLsb' 0 4) (w.extractLsb' 4 10))
  | 0x14 => some (.xRst (w.extractLsb' 54 2) (w.extractLsb' 48 6) (w.extractLsb' 42 6) (w.extractLsb' 36 6) (w.extractLsb' 30 6) (w.extractLsb' 0 5))
  | 0x18 => some .xPhase
  | 0x19 => some (.xPhq (w.extractLsb' 48 6) (w.extractLsb' 42 6))
  | 0x1A => some (.xRdv (w.extractLsb' 0 8))
  | 0x1B => some (.xGang (w.extractLsb' 0 8))
  | 0x1C => some .xGend
  | 0x20 => some (.xAmo (w.extractLsb' 54 2) (Mark.ofCode (w.extractLsb' 22 2)) (w.extractLsb' 48 6) (w.extractLsb' 42 6) (w.extractLsb' 36 6) (w.extractLsb' 30 6) (w.extractLsb' 24 6) (w.extractLsb' 0 4) (w.getLsbD 4))
  | 0x21 => some (.xAmov (w.extractLsb' 54 2) (Mark.ofCode (w.extractLsb' 22 2)) (w.extractLsb' 48 6) (w.extractLsb' 42 6) (w.extractLsb' 36 6) (w.extractLsb' 30 6) (w.extractLsb' 24 6) (w.extractLsb' 0 4) (w.getLsbD 4) (w.extractLsb' 5 5))
  | 0x22 => some (.xRedm (w.extractLsb' 54 2) (Mark.ofCode (w.extractLsb' 22 2)) (w.extractLsb' 48 6) (w.extractLsb' 42 6) (w.extractLsb' 36 6) (w.extractLsb' 0 2) (w.extractLsb' 2 3) (w.extractLsb' 6 10))
  | 0x23 => some (.xMon (w.extractLsb' 54 2) (Mark.ofCode (w.extractLsb' 22 2)) (w.extractLsb' 48 6) (w.extractLsb' 42 6) (w.extractLsb' 36 6))
  | 0x24 => some .xMwait
  | 0x28 => some (.xColl (w.extractLsb' 54 2) (w.extractLsb' 48 6) (w.extractLsb' 42 6))
  | 0x2C => some (.xCwait (w.extractLsb' 48 6) (w.extractLsb' 0 24))
  | 0x2D => some (.xCpoll (w.extractLsb' 48 6) (w.extractLsb' 42 6) (w.extractLsb' 0 24))
  | 0x2E => some (.xCset (w.extractLsb' 48 6) (w.extractLsb' 0 24))
  | 0x30 => some .xNtile
  | 0x34 => some (.xProbe (w.extractLsb' 48 6) (w.extractLsb' 42 6) (w.extractLsb' 36 6) (w.extractLsb' 30 6) (w.getLsbD 0) (w.getLsbD 1))
  | 0x35 => some (.xDisc (w.extractLsb' 54 2) (w.extractLsb' 48 6) (w.extractLsb' 42 6) (w.extractLsb' 36 6))
  | 0x36 => some (.xHint (w.extractLsb' 48 6) (w.extractLsb' 42 6) (w.extractLsb' 36 6) (w.extractLsb' 0 2) (w.extractLsb' 2 2))
  | 0x37 => some (.xHot (w.extractLsb' 48 6) (w.extractLsb' 42 6) (w.extractLsb' 36 6))
  | 0x38 => some (.xFence (w.extractLsb' 48 6) (w.extractLsb' 3 2) (w.extractLsb' 0 3))
  | 0x3C => some .xYield
  | 0x3D => some .xHalt
  | _ => none

def decodeX (w : BitVec 64) : Decoded := accept (.x w) (fieldsX w)

/-- The fields of R151. -/
def fieldsLs (w : BitVec 48) : LsOp where
  cls := w.extractLsb' 40 2
  file := LsFile.ofCode (w.extractLsb' 38 2)
  reg := w.extractLsb' 28 10
  base := w.extractLsb' 23 5
  idx := w.extractLsb' 18 5
  off := w.extractLsb' 0 18

/-- The fields of a ring access (R152). -/
def fieldsRing (w : BitVec 48) : RingOp where
  cls := w.extractLsb' 40 2
  file := LsFile.ofCode (w.extractLsb' 38 2)
  reg := w.extractLsb' 28 10
  ring := w.extractLsb' 24 4
  lr := w.getLsbD 23
  off := w.extractLsb' 0 18

/-- The address forms, with one opcode in both spaces (R197). -/
def fieldsAg (s : AgSlot) (op : Nat) (w : BitVec 48) : Option Instr :=
  let d := w.extractLsb' 28 5
  let b := w.extractLsb' 23 5
  let i := w.extractLsb' 18 5
  let off := w.extractLsb' 0 18
  match op with
  | 0x10 => some (.agAdd s d b i)
  | 0x11 => some (.agAddi s d b off)
  | 0x12 => some (.agMov s d b)
  | 0x13 => some (.agWrap s d b i off)
  | _ => none

/-- The LD opcodes of R152. -/
def fieldsLd (w : BitVec 48) : Option Instr :=
  let op := (w.extractLsb' 42 6).toNat
  match op with
  | 0x01 => some (.ldB (fieldsLs w))
  | 0x02 => some (.ldBu (fieldsLs w))
  | 0x03 => some (.ldH (fieldsLs w))
  | 0x04 => some (.ldHu (fieldsLs w))
  | 0x05 => some (.ldW (fieldsLs w))
  | 0x06 => some (.ldWu (fieldsLs w))
  | 0x07 => some (.ldD (fieldsLs w))
  | 0x08 => some (.ldV (fieldsLs w))
  | 0x09 => some (.ldVs (fieldsLs w))
  | 0x0A => some (.ldRing (fieldsRing w))
  | _ => fieldsAg .ld op w

def decodeLd (w : BitVec 48) : Decoded := accept (.ld w) (fieldsLd w)

/-- The ST opcodes of R152. -/
def fieldsSt (w : BitVec 48) : Option Instr :=
  let op := (w.extractLsb' 42 6).toNat
  match op with
  | 0x01 => some (.stB (fieldsLs w))
  | 0x03 => some (.stH (fieldsLs w))
  | 0x05 => some (.stW (fieldsLs w))
  | 0x07 => some (.stD (fieldsLs w))
  | 0x08 => some (.stV (fieldsLs w))
  | 0x09 => some (.stVs (fieldsLs w))
  | 0x0B => some (.stI (fieldsLs w))
  | 0x0A => some (.stRing (fieldsRing w))
  | _ => fieldsAg .st op w

def decodeSt (w : BitVec 48) : Decoded := accept (.st w) (fieldsSt w)

/-- The fields of R153 under a rounding mode. -/
def fieldsVOp (u : VUnit) (r : Rnd) (w : BitVec 64) : VOp where
  unit := u
  fmt := Fmt.ofBits (w.extractLsb' 53 3)
  mask := w.extractLsb' 50 3
  rnd := r
  h1 := w.getLsbD 44
  h2 := w.getLsbD 45
  h3 := w.getLsbD 46
  d := w.extractLsb' 34 10
  s1 := w.extractLsb' 24 10
  s2 := w.extractLsb' 14 10
  s3 := w.extractLsb' 4 10
  sub := w.extractLsb' 0 4

/-- The V opcodes of R154. -/
def fieldsV (o : VOp) (op : Nat) : Option Instr :=
  match op with
  | 0x01 => some (.vAdd o)
  | 0x02 => some (.vSub o)
  | 0x03 => some (.vMul o)
  | 0x04 => some (.vFma o)
  | 0x05 => some (.vFms o)
  | 0x06 => some (.vFnma o)
  | 0x07 => some (.vMin o)
  | 0x08 => some (.vMax o)
  | 0x09 => some (.vAbs o)
  | 0x0A => some (.vNeg o)
  | 0x0B => some (.vClamp o)
  | 0x10 => some (.vRcp o)
  | 0x11 => some (.vRsq o)
  | 0x12 => some (.vSqrt o)
  | 0x13 => some (.vExp2 o)
  | 0x14 => some (.vLog2 o)
  | 0x15 => some (.vRint o)
  | 0x18 => some (.vCmp o)
  | 0x19 => some (.vSel o)
  | 0x1A => some (.vKop o)
  | 0x1B => some (.vKpop o)
  | 0x20 => some (.vIadd o)
  | 0x21 => some (.vIsub o)
  | 0x22 => some (.vImul o)
  | 0x23 => some (.vImad o)
  | 0x24 => some (.vAnd o)
  | 0x25 => some (.vOr o)
  | 0x26 => some (.vXor o)
  | 0x27 => some (.vShl o)
  | 0x28 => some (.vShr o)
  | 0x29 => some (.vSra o)
  | 0x2A => some (.vPop o)
  | 0x2B => some (.vClz o)
  | 0x2C => some (.vImin o)
  | 0x2D => some (.vImax o)
  | 0x30 => some (.vCvt o)
  | 0x31 => some (.vPack o)
  | 0x32 => some (.vUnpack o)
  | 0x38 => some (.vPerm o)
  | 0x39 => some (.vRot o)
  | 0x3A => some (.vZip o)
  | 0x3B => some (.vUnzip o)
  | 0x3C => some (.vSplat o)
  | 0x3D => some (.vExt o)
  | 0x3E => some (.vIns o)
  | 0x3F => some (.vIota o)
  | 0x40 => some (.vRsum o)
  | 0x41 => some (.vRmax o)
  | 0x42 => some (.vRmin o)
  | 0x43 => some (.vScan o)
  | 0x44 => some (.vArgmax o)
  | 0x45 => some (.vSort o)
  | 0x46 => some (.vMerge o)
  | 0x48 => some (.vRng o)
  | 0x50 => some (.vMov o)
  | 0x51 => some (.vXcp o)
  | 0x52 => some (.vMovi o)
  | 0x58 => some (.vPark o)
  | 0x59 => some (.vUnpark o)
  | _ => none

def decodeV (u : VUnit) (w : BitVec 64) : Decoded :=
  match Rnd.ofCode (w.extractLsb' 47 3) with
  | none => .error .reservedField
  | some r => accept (.v u w) (fieldsV (fieldsVOp u r w) (w.extractLsb' 56 8).toNat)

/-- The fields of a beat (R156). -/
def fieldsBeat (w : BitVec 32) : BeatOp where
  pair := Pair.ofCode (w.extractLsb' 27 3)
  bank := w.extractLsb' 25 2
  asrc := w.getLsbD 23
  aring := w.extractLsb' 19 4
  alr := w.getLsbD 18
  bsrc := w.getLsbD 17
  bring := w.extractLsb' 13 4
  blr := w.getLsbD 12
  row := w.extractLsb' 7 5
  gang := w.getLsbD 6

/-- The M verbs of R156; bit 24 tells the two forms of a verb apart. -/
def fieldsM (w : BitVec 32) : Option Instr :=
  let pair := Pair.ofCode (w.extractLsb' 27 3)
  let bank := w.extractLsb' 25 2
  let two := w.getLsbD 24
  let file := VUnit.ofBool (w.getLsbD 23)
  let reg := w.extractLsb' 13 10
  match (w.extractLsb' 30 2).toNat with
  | 0 => some (.mPush pair two (w.extractLsb' 20 4) (w.extractLsb' 15 5) (w.getLsbD 14))
  | 1 => some (if two then .mZero bank else .mShift bank)
  | 2 => some (if two then .mDist (fieldsBeat w) else .mAcc (fieldsBeat w))
  | _ =>
    if two then some (.mTopk pair bank file reg (w.extractLsb' 3 3) (w.getLsbD 2))
    else (Rnd.ofCode (w.extractLsb' 6 3)).map (.mDrain pair bank file reg (w.extractLsb' 9 4))

def decodeM (w : BitVec 32) : Decoded := accept (.m w) (fieldsM w)

/-- The Q opcodes of R157. -/
def fieldsQ (w : BitVec 32) : Option Instr :=
  let base := w.extractLsb' 23 5
  let off := w.extractLsb' 7 16
  let count := w.extractLsb' 0 7
  match (w.extractLsb' 28 4).toNat with
  | 0 => some .qNop
  | 1 => some (.qLd base off)
  | 2 => some (.qLdt base off count)
  | 3 => some (.qSkip count)
  | _ => none

def decodeQ (w : BitVec 32) : Decoded := accept (.q w) (fieldsQ w)

/-- The decoder of an encoding: the slot chooses the opcode space (R159). -/
def decode : Enc → Decoded
  | .s w => decodeS w
  | .x w => decodeX w
  | .ld w => decodeLd w
  | .st w => decodeSt w
  | .v u w => decodeV u w
  | .m w => decodeM w
  | .q w => decodeQ w
  | .event => .error .reservedOpcode

/-! ## Bundles -/

/-- The eight slots in header-bit order (R144). -/
def SlotKind.all : List SlotKind := [.s, .x, .ld, .st, .va, .vb, .m, .q]

/-- The header bit of a slot (R144). -/
def SlotKind.bit : SlotKind → Nat
  | .s => 0 | .x => 1 | .ld => 2 | .st => 3 | .va => 4 | .vb => 5 | .m => 6 | .q => 7

/-- The width of a slot in bytes (R144). -/
def SlotKind.width : SlotKind → Nat
  | .s => 4 | .x => 8 | .ld => 6 | .st => 6 | .va => 8 | .vb => 8 | .m => 4 | .q => 4

/-- The little-endian value of bytes (R8). -/
def leNat : List Byte → Nat
  | [] => 0
  | b :: bs => b.toNat + 256 * leNat bs

/-- The `n` little-endian bytes of a value (R8). -/
def leBytes : Nat → Nat → List Byte
  | 0, _ => []
  | n + 1, v => BitVec.ofNat 8 v :: leBytes n (v / 256)

/-- The encoding that a slot's bytes hold. -/
def SlotKind.enc (k : SlotKind) (v : Nat) : Enc :=
  match k with
  | .s => .s (BitVec.ofNat 32 v)
  | .x => .x (BitVec.ofNat 64 v)
  | .ld => .ld (BitVec.ofNat 48 v)
  | .st => .st (BitVec.ofNat 48 v)
  | .va => .v .va (BitVec.ofNat 64 v)
  | .vb => .v .vb (BitVec.ofNat 64 v)
  | .m => .m (BitVec.ofNat 32 v)
  | .q => .q (BitVec.ofNat 32 v)

/-- The slot of an encoding and its value. -/
def Enc.slot : Enc → Option (SlotKind × Nat)
  | .s w => some (.s, w.toNat)
  | .x w => some (.x, w.toNat)
  | .ld w => some (.ld, w.toNat)
  | .st w => some (.st, w.toNat)
  | .v .va w => some (.va, w.toNat)
  | .v .vb w => some (.vb, w.toNat)
  | .m w => some (.m, w.toNat)
  | .q w => some (.q, w.toNat)
  | .event => none

/-- The slot in which an instruction stands. -/
def Instr.slot (i : Instr) : Option SlotKind := (encode i).slot.map (·.1)

/-- Whether a header byte names the slot (R144). -/
def headerHas (h : Byte) (k : SlotKind) : Bool := h.getLsbD k.bit

/-- The length of a bundle in bytes (R144). -/
def bundleLen (h : Byte) : Nat :=
  (SlotKind.all.map fun k => if headerHas h k then k.width else 0).foldl (· + ·) 1

/-- One slot of a bundle: its kind, the value of its bytes, and what it decodes to. -/
structure SlotWord where
  kind : SlotKind
  raw  : Nat
  ins  : Decoded

/-- A bundle (R144). -/
structure Bundle where
  header : Byte
  slots  : List SlotWord
  len    : Nat

/-- Cuts the bytes after a header into the slots that the header names (R144). -/
def cutSlots (h : Byte) : List SlotKind → List Byte → List SlotWord
  | [], _ => []
  | k :: ks, bs =>
    if headerHas h k then
      let v := leNat (bs.take k.width)
      { kind := k, raw := v, ins := decode (k.enc v) } :: cutSlots h ks (bs.drop k.width)
    else cutSlots h ks bs

/-- Decodes the bundle at the head of the bytes of one 64-byte line; `none` when the header is
padding, when there is no header, or when the bundle runs past the line (R145). -/
def decodeBundle : List Byte → Option Bundle
  | [] => none
  | h :: bs =>
    if h = 0 then none
    else if bs.length + 1 < bundleLen h then none
    else some { header := h, slots := cutSlots h SlotKind.all bs, len := bundleLen h }

/-- The bytes of a bundle of one slot, header first (R144). -/
def encodeBundle (i : Instr) : List Byte :=
  match (encode i).slot with
  | none => []
  | some (k, v) => BitVec.ofNat 8 (2 ^ k.bit) :: leBytes k.width v

/-- The first decoder of a list that accepts. -/
def firstOk : List Decoded → Option Instr
  | [] => none
  | .ok i :: _ => some i
  | .error _ :: ds => firstOk ds

/-- The instruction of a word of the opcode table. The table's words carry no header, so a 32-bit
word does not say whether it stands in the S, the M or the Q slot; the spaces are tried in that
order, and those of 48 and 64 bits likewise (log entry 4). -/
def decodeTableWord (nbits w : Nat) : Option Instr :=
  match nbits with
  | 32 => firstOk [decodeS (BitVec.ofNat 32 w), decodeM (BitVec.ofNat 32 w),
      decodeQ (BitVec.ofNat 32 w)]
  | 48 => firstOk [decodeLd (BitVec.ofNat 48 w), decodeSt (BitVec.ofNat 48 w)]
  | 64 => firstOk [decodeX (BitVec.ofNat 64 w), decodeV .va (BitVec.ofNat 64 w)]
  | _ => none

end Sys2Proof
end

