-- ==== Sys2Proof/Config.lean ====
section
/-!
DEFINITION. What an implementation fixes and what the manual leaves open. The opaque constants are
free values: nothing in Lean can evaluate them, so a theorem about the model holds whatever they
are. Each is applied to the plain counter `State.free`, which every step advances (log entry 1).
-/

namespace Sys2Proof.Config

/-- Which of the steps that the manual leaves unordered comes next (log entry 2). -/
opaque pick : Nat → Nat

/-- How early, before its last allowed cycle, result number `i` of a bundle is delivered (R131; log
entry 3). -/
opaque early : Nat → Nat → Nat

/-- An outcome that the manual leaves open between two allowed ones (log entry 1). -/
opaque freeBit : Nat → Nat → Bool

/-- A natural number that the manual leaves open (log entry 1). -/
opaque freeNat : Nat → Nat → Nat

/-- A byte whose value the manual leaves open (log entry 1). -/
opaque freeByte : Nat → Nat → Byte

/-- AES-256-XTS over a data unit, by key and tweak (R78; log entry 95). -/
opaque xts : Nat → Nat → List Byte → List Byte

/-- The Bloom period in hours, from the image of stage 1, of which 1 to 168 are in range and 24 is the default (R311, R334). -/
opaque bloomHours : Nat

/-- Whether the boot images verify (R274, R334): outside the spec's own text (log entry 12). -/
opaque bootVerifies : Bool

/-- Word `i` of the extent table that firmware stage 2 writes (R334, R341; log entry 12). -/
opaque extentWord : Nat → W64

/-- Whether a far tier is persistent: its devices report global persistent flush (R263). -/
opaque tierFPersistent : Nat → Bool

/-- The frames of tier F on the root port of a die, as firmware sizes it (R77, R263). -/
opaque tierFFrames : Nat → Nat

/-- Whether the AES key wrap of R271 passes its integrity check under the transport key number `k`,
for the 72 bytes given (log entry 13). -/
opaque unwrapOk : Nat → List Byte → Bool

/-- Byte `i` of the output buffer that a mailbox operation leaves (R275: signatures, certificates
and keys that the spec does not list), for the interface, the operation, the input bytes and the
use number (log entry 13). -/
opaque mailboxByte : Nat → Nat → List Byte → Nat → Nat → Byte

/-- Whether the 133 bytes are a point of the P-521 curve (R275; log entry 13). -/
opaque onCurve : List Byte → Bool

/-- SHA-512 of some bytes, outside the spec's own text (R274; log entry 13). -/
opaque sha512 : List Byte → List Byte

/-- The digests in the measurement log (R274) and the certificate chain (R275). -/
opaque measurementLog : List Byte
opaque certificateChain : List Byte

end Sys2Proof.Config
end

