-- ==== Sys2Proof/Machine/Num.lean ====
section
/-!
DEFINITION. Number formats and arithmetic (chapter 6): the exact value of an element, rounding and
saturation, DP8, conversions with error feedback, sums rounded once, the functions of the vector
unit, orderings, and KCH32. Every operation is exact on integers and dyadic numbers; rounding is one
function.
-/

namespace Sys2Proof

/-- The exact value of a number: NaN, an infinity, a signed zero, or m · 2^e with m ≠ 0 (R107, R108). -/
inductive Val where
  | nan
  | inf (neg : Bool)
  | zero (neg : Bool)
  | fin (m : Int) (e : Int)
deriving DecidableEq, Repr

/-- m · 2^e, with +0 for m = 0. -/
def Val.dy (m e : Int) : Val := if m = 0 then .zero false else .fin m e

/-! ## Layouts (R107) -/

/-- Fraction bits of a floating format. -/
def Fmt.frac : Fmt → Nat
  | .f32 => 23 | .bf16 => 7 | .f16 => 10 | .e4m3 => 3 | .e5m2 => 2 | _ => 0

/-- Exponent bias of a floating format. -/
def Fmt.bias : Fmt → Nat
  | .f32 => 127 | .bf16 => 127 | .f16 => 15 | .e4m3 => 7 | .e5m2 => 15 | _ => 0

/-- The magnitude code of the largest finite number M (R107). -/
def Fmt.maxCode : Fmt → Nat
  | .f32 => 0x7F7FFFFF | .bf16 => 0x7F7F | .f16 => 0x7BFF | .e4m3 => 0x7E | .e5m2 => 0x7B | _ => 0

/-- The canonical NaN (R108). -/
def Fmt.nanCode : Fmt → Nat
  | .f32 => 0x7FC00000 | .bf16 => 0x7FC0 | .f16 => 0x7E00 | .e4m3 => 0x7F | .e5m2 => 0x7E | _ => 0

/-- The magnitude code of infinity; E4M3 has none (R107). -/
def Fmt.infCode (f : Fmt) : Nat := f.maxCode + 1

/-- The exponent of the smallest subnormal (R107). -/
def Fmt.minExp (f : Fmt) : Int := 1 - (f.bias : Int) - (f.frac : Int)

/-- The sign bit of a code. -/
def Fmt.signOf (f : Fmt) (x : Nat) : Bool := x / 2 ^ (f.width - 1) % 2 = 1

/-- The code without its sign. -/
def Fmt.magOf (f : Fmt) (x : Nat) : Nat := x % 2 ^ (f.width - 1)

/-- A code from sign and magnitude. -/
def Fmt.join (f : Fmt) (neg : Bool) (mag : Nat) : Nat := if neg then 2 ^ (f.width - 1) + mag else mag

/-- Whether the code is a NaN (R107). -/
def Fmt.isNan (f : Fmt) (x : Nat) : Bool :=
  if f = .e4m3 then f.magOf x = 0x7F else decide (f.infCode < f.magOf x)

/-- The signed value of an integer code of `w` bits (R109). -/
def sval (w x : Nat) : Int :=
  if x % 2 ^ w < 2 ^ (w - 1) then (x % 2 ^ w : Nat) else (x % 2 ^ w : Nat) - (2 ^ w : Nat)

/-- The low `w` bits of an integer (R109). -/
def wrap (w : Nat) (v : Int) : Nat := (v % (2 ^ w : Nat)).toNat

/-- The nearest number of the signed range of `w` bits (R109, R114). -/
def clampS (w : Nat) (v : Int) : Nat :=
  let hi : Int := (2 ^ (w - 1) : Nat) - 1
  let lo : Int := -(2 ^ (w - 1) : Nat)
  wrap w (if hi < v then hi else if v < lo then lo else v)

/-- The nearest number of the unsigned range of 32 bits (R114). -/
def clampU (v : Int) : Nat := if v < 0 then 0 else if 0xFFFFFFFF < v then 0xFFFFFFFF else v.toNat

/-- The exact value of a code (R107, R109). -/
def Fmt.val (f : Fmt) (x : Nat) : Val :=
  if f.isFloat then
    let neg := f.signOf x
    let mag := f.magOf x
    if f.isNan x then .nan
    else if f ≠ .e4m3 ∧ mag = f.infCode then .inf neg
    else if mag = 0 then .zero neg
    else
      let ex := mag / 2 ^ f.frac
      let fr := mag % 2 ^ f.frac
      let n : Nat := if ex = 0 then fr else 2 ^ f.frac + fr
      let e : Int := if ex = 0 then f.minExp else f.minExp + ex - 1
      .fin (if neg then -(n : Int) else n) e
  else .dy (sval f.width x) 0

/-! ## Rounding (R112, R113) -/

/-- n / 2^s rounded to an integer in the mode; the sign decides ru and rd (R112). -/
def roundShift (r : Rnd) (neg : Bool) (n s : Nat) : Nat :=
  if s = 0 then n
  else
    let q := n / 2 ^ s
    let rem := n % 2 ^ s
    let half := 2 ^ (s - 1)
    match r with
    | .rz => q
    | .ru => if rem ≠ 0 ∧ neg = false then q + 1 else q
    | .rd => if rem ≠ 0 ∧ neg = true then q + 1 else q
    | _ => if half < rem ∨ (rem = half ∧ q % 2 = 1) then q + 1 else q

/-- The overflow result of R113. -/
def Fmt.overflow (f : Fmt) (r : Rnd) (neg : Bool) : Nat :=
  let m := f.join neg f.maxCode
  let i := f.join neg f.infCode
  if f = .e4m3 then m
  else match r with
    | .rne => i
    | .ef => i
    | .rz => m
    | .ru => if neg then m else i
    | .rd => if neg then i else m
    | .sat => m
    | .efsat => m

/-- The magnitude code of n · 2^e rounded, with the exponent range taken as unbounded above. -/
def Fmt.roundMag (f : Fmt) (r : Rnd) (neg : Bool) (n : Nat) (e : Int) : Nat :=
  let len : Int := (Nat.log2 n : Int) + 1
  let u := max f.minExp (e + len - (f.frac + 1))
  let q := if u ≤ e then n * 2 ^ (e - u).toNat else roundShift r neg n (u - e).toNat
  q + (u - f.minExp).toNat * 2 ^ f.frac

/-- The exact value rounded once into a floating format (R108, R112, R113). -/
def Fmt.round (f : Fmt) (r : Rnd) : Val → Nat
  | .nan => f.nanCode
  | .inf neg =>
    if f = .e4m3 ∨ r = .sat ∨ r = .efsat then f.join neg f.maxCode else f.join neg f.infCode
  | .zero neg => f.join neg 0
  | .fin m e =>
    let neg := decide (m < 0)
    let mag := f.roundMag r neg m.natAbs e
    if f.maxCode < mag then f.overflow r neg else f.join neg mag

/-- A finite value rounded to an integer in the mode (R114, R121); code 101 acts as 000. -/
def roundInt (r : Rnd) (m e : Int) : Int :=
  let neg := decide (m < 0)
  let q := if 0 ≤ e then m.natAbs * 2 ^ e.toNat else roundShift r neg m.natAbs (-e).toNat
  if neg then -(q : Int) else q

/-! ## Exact arithmetic (R108) -/

/-- The sum of two dyadic numbers. -/
def dyAdd (a b : Int × Int) : Int × Int :=
  let e := min a.2 b.2
  (a.1 * 2 ^ (a.2 - e).toNat + b.1 * 2 ^ (b.2 - e).toNat, e)

/-- The sign inverted. -/
def Val.neg : Val → Val
  | .nan => .nan
  | .inf s => .inf (!s)
  | .zero s => .zero (!s)
  | .fin m e => .fin (-m) e

/-- The sign of a value that is not NaN. -/
def Val.isNeg : Val → Bool
  | .nan => false
  | .inf s => s
  | .zero s => s
  | .fin m _ => decide (m < 0)

/-- The exact product (R108). -/
def Val.mul : Val → Val → Val
  | .nan, _ => .nan
  | _, .nan => .nan
  | .inf _, .zero _ => .nan
  | .zero _, .inf _ => .nan
  | .fin m e, .fin n f => .fin (m * n) (e + f)
  | .inf s, v => .inf (s != v.isNeg)
  | v, .inf s => .inf (s != v.isNeg)
  | .zero s, v => .zero (s != v.isNeg)
  | v, .zero s => .zero (s != v.isNeg)

/-- The dyadic part of a value; 0 for the others. -/
def Val.dyadic : Val → Int × Int
  | .fin m e => (m, e)
  | _ => (0, 0)

def Val.isInf (neg : Bool) : Val → Bool
  | .inf s => s == neg
  | _ => false

def Val.isZero (neg : Bool) : Val → Bool
  | .zero s => s == neg
  | _ => false

/-- The exact sum of a list, with the sign of a zero sum by R108: all addends zeros of one sign keep
it; any other zero sum, and the empty one, is +0, or −0 under rd (R218, R219). -/
def sumVals (r : Rnd) (vs : List Val) : Val :=
  if vs.any (· == .nan) then .nan
  else
    let pi := vs.any (Val.isInf false)
    let ni := vs.any (Val.isInf true)
    if pi && ni then .nan
    else if pi then .inf false
    else if ni then .inf true
    else
      let (m, e) := vs.foldl (fun acc v => dyAdd acc v.dyadic) (0, 0)
      if m ≠ 0 then .fin m e
      else if vs ≠ [] ∧ vs.all (Val.isZero true) then .zero true
      else if vs ≠ [] ∧ vs.all (Val.isZero false) then .zero false
      else .zero (r == .rd)

/-! ## DP8 (R110, R111) -/

/-- A term in units of 2^−6. -/
def dp8Term (s : Bool) (e : Nat) : Int :=
  if e = 7 then 0 else if s then -(2 ^ (6 - e) : Int) else 2 ^ (6 - e)

/-- The value of a DP8 byte in units of 2^−6 (R110). -/
def dp8Units (b : Nat) : Int :=
  dp8Term (b / 128 % 2 = 1) (b / 16 % 8) + dp8Term (b / 8 % 2 = 1) (b % 8)

/-- The exact value of a DP8 byte; a zero is +0 (log entry 6). -/
def dp8Val (b : Nat) : Val := .dy (dp8Units b) (-6)

/-- The pairs a < b ≤ 6 in ascending order. -/
def dp8Pairs : List (Nat × Nat) :=
  (List.range 7).flatMap fun a => (List.range 7).filterMap fun b => if a < b then some (a, b) else none

/-- The canonical encoding of a magnitude, in units of 2^−6 (R111). -/
def dp8Encode (neg : Bool) (n : Nat) : Nat :=
  let s := if neg then 1 else 0
  if n = 0 then 0x77
  else if n = 128 then if neg then 0x88 else 0x00
  else match (List.range 7).find? fun a => n == 2 ^ (6 - a) with
    | some a => s * 128 + a * 16 + 7
    | none => match dp8Pairs.find? fun p => n == 2 ^ (6 - p.1) + 2 ^ (6 - p.2) with
      | some p => s * 128 + p.1 * 16 + s * 8 + p.2
      | none => match dp8Pairs.find? fun p => n + 2 ^ (6 - p.2) == 2 ^ (6 - p.1) with
        | some p => s * 128 + p.1 * 16 + (1 - s) * 8 + p.2
        | none => 0x77

/-- The magnitudes that DP8 has, ascending, in units of 2^−6 (R110). -/
def dp8Mags : List Nat :=
  (List.range 129).filter fun n => (List.range 256).any fun b => (dp8Units b).natAbs == n

/-- The magnitude nearest to n · 2^e, ties to the smaller, in units of 2^−6 (R111). -/
def dp8Near (n : Nat) (e : Int) : Nat :=
  let s := (max 0 (-(e + 6))).toNat
  let v := if 0 ≤ e + 6 then n * 2 ^ (e + 6).toNat else n
  let dist := fun k : Nat => ((k * 2 ^ s : Nat) - (v : Int)).natAbs
  dp8Mags.foldl (fun best k => if dist k < dist best then k else best) 0

/-- Whether |m · 2^e| > 2. -/
def aboveTwo (m e : Int) : Bool :=
  if 0 ≤ e then decide (2 < m.natAbs * 2 ^ e.toNat) else decide (2 * 2 ^ (-e).toNat < m.natAbs)

/-- The conversion to DP8 (R111). -/
def toDp8 : Val → Nat
  | .nan => 0x77
  | .inf neg => if neg then 0x88 else 0x00
  | .zero _ => 0x77
  | .fin m e =>
    let neg := decide (m < 0)
    if aboveTwo m e then if neg then 0x88 else 0x00 else dp8Encode neg (dp8Near m.natAbs e)

/-! ## Conversions (R111 to R115, R211) -/

/-- A value converted to an integer range of `w` bits (R114). -/
def toSigned (w : Nat) (r : Rnd) : Val → Nat
  | .nan => 0
  | .inf neg => if neg then 2 ^ (w - 1) else 2 ^ (w - 1) - 1
  | .zero _ => 0
  | .fin m e => clampS w (roundInt r m e)

def toUnsigned (r : Rnd) : Val → Nat
  | .nan => 0
  | .inf neg => if neg then 0 else 0xFFFFFFFF
  | .zero _ => 0
  | .fin m e => clampU (roundInt r m e)

/-- One element converted without error feedback. -/
def convert (src : Fmt) (tgt : Target) (r : Rnd) (x : Nat) : Nat :=
  match tgt with
  | .dp8 => toDp8 (src.val x)
  | .uint32 =>
    if src.isFloat then toUnsigned r (src.val x)
    else if src = .i32 then if r = .sat then clampU (sval 32 x) else x % 2 ^ 32
    else clampU (sval src.width x)
  | .fmt t =>
    if t = src then
      if src.isFloat && src.isNan x then src.nanCode else x
    else if t.isFloat then t.round r (src.val x)
    else if src.isFloat then toSigned t.width r (src.val x)
    else if t.width < src.width ∧ r = .sat then clampS t.width (sval src.width x)
    else wrap t.width (sval src.width x)

/-- The value of a target code, for the residual of R115. -/
def Target.val (t : Target) (y : Nat) : Val :=
  match t with
  | .fmt f => f.val y
  | .dp8 => dp8Val y
  | .uint32 => .dy y 0

/-- One element under error feedback: the output and the new residual (R115). -/
def convertEf (src : Fmt) (tgt : Target) (r : Rnd) (res : Int × Int) (x : Nat) : Nat × (Int × Int) :=
  match src.val x with
  | .nan => (convert src tgt r x, (0, 0))
  | .inf _ => (convert src tgt r x, (0, 0))
  | v =>
    let xs := dyAdd v.dyadic res
    -- a zero sum of two addends is +0: the residual 0 has no sign of its own (R108)
    let xv : Val := if xs.1 = 0 then .zero false else .fin xs.1 xs.2
    match tgt with
    | .dp8 =>
      if aboveTwo xs.1 xs.2 then (toDp8 xv, (0, 0))
      else
        let y := toDp8 xv
        (y, dyAdd xs (-(dp8Units y), -6))
    | .fmt f =>
      let mag := f.roundMag .rne (decide (xs.1 < 0)) xs.1.natAbs xs.2
      if xs.1 ≠ 0 ∧ f.maxCode < mag then (f.overflow r (decide (xs.1 < 0)), (0, 0))
      else
        let y := f.round .rne xv
        let yd := (f.val y).dyadic
        (y, dyAdd xs (-yd.1, yd.2))
    | .uint32 => (convert src tgt r x, (0, 0))

/-- The elements of one instruction converted in order; `act` tells the active ones, and the others
leave the residual alone (R115). -/
def convertAll (src : Fmt) (tgt : Target) (r : Rnd) (xs : List (Nat × Bool)) : List Nat :=
  if r = .ef ∨ r = .efsat then
    (xs.foldl (fun (acc : List Nat × (Int × Int)) x =>
      if x.2 then
        let (y, res) := convertEf src tgt r acc.2 x.1
        (y :: acc.1, res)
      else (0 :: acc.1, acc.2)) ([], (0, 0))).1.reverse
  else xs.map fun x => convert src tgt r x.1

/-! ## Functions (R121, R205) -/

/-- ⌊√n⌋, found bit by bit from bit `k` downwards, starting from `r`. -/
def isqrtFrom (n : Nat) : Nat → Nat → Nat
  | 0, r => r
  | k + 1, r =>
    let t := r + 2 ^ k
    isqrtFrom n k (if t * t ≤ n then t else r)

/-- ⌊√n⌋. -/
def isqrt (n : Nat) : Nat := isqrtFrom n (Nat.log2 n / 2 + 1) 0

/-- n · 2^e with a bit below that says the exact value lies strictly above it. -/
def withSticky (n : Nat) (e : Int) (sticky : Bool) : Val :=
  .dy (2 * n + (if sticky then 1 else 0)) (e - 1)

/-- √ of a positive dyadic number, to 300 bits and a sticky bit. -/
def sqrtDy (m : Nat) (e : Int) : Val :=
  let m' := if e % 2 = 0 then m else 2 * m
  let e' := if e % 2 = 0 then e else e - 1
  let big := m' * 2 ^ 300
  let q := isqrt big
  withSticky q (e' / 2 - 150) (decide (q * q ≠ big))

def sqrtVal : Val → Val
  | .nan => .nan
  | .inf s => if s then .nan else .inf false
  | .zero s => .zero s
  | .fin m e => if m < 0 then .nan else sqrtDy m.natAbs e

/-- Whether a positive dyadic n · 2^e is at least 2^k. -/
def geTwoPow (n : Nat) (e k : Int) : Bool := decide (k ≤ e + (Nat.log2 n : Int))

/-- v.rcp (R205): rz of the exact reciprocal, ±∞ from 2^(emax+1). -/
def rcpCode (f : Fmt) : Val → Nat
  | .nan => f.nanCode
  | .inf s => f.join s 0
  | .zero s => f.join s f.infCode
  | .fin m e =>
    let n := m.natAbs
    let neg := decide (m < 0)
    let t := Nat.log2 n + 60
    let q := 2 ^ t / n
    let ex : Int := -(t : Int) - e
    if geTwoPow q ex (f.bias + 1) then f.join neg f.infCode
    else
      match withSticky q ex (decide (2 ^ t % n ≠ 0)) with
      | .fin k e' => f.round .rz (.fin (if neg then -k else k) e')
      | _ => f.join neg 0

/-- v.rsq (R205). -/
def rsqCode (f : Fmt) : Val → Nat
  | .nan => f.nanCode
  | .inf s => if s then f.nanCode else 0
  | .zero s => f.join s f.infCode
  | .fin m e =>
    if m < 0 then f.nanCode
    else
      let m' := if e % 2 = 0 then m.natAbs else 2 * m.natAbs
      let e' := if e % 2 = 0 then e else e - 1
      let t := Nat.log2 m' + 100
      let q := isqrt (2 ^ (2 * t) / m')
      f.round .rz (withSticky q (-(t : Int) - e' / 2) (decide (q * q * m' ≠ 2 ^ (2 * t))))

/-- ln 2 to 320 bits after the point: the sum of 1 / (k · 2^k). -/
def ln2Fix : Nat :=
  ((List.range 330).foldl (fun acc k => acc + 2 ^ 340 / ((k + 1) * 2 ^ (k + 1))) 0) / 2 ^ 20

/-- e^y for 0 ≤ y < 1, all with 320 bits after the point, by its series. -/
def expFix (y : Nat) : Nat :=
  ((List.range 80).foldl (fun (acc : Nat × Nat) k =>
    (acc.1 + acc.2, acc.2 * y / 2 ^ 320 / (k + 1))) (0, 2 ^ 320)).1

/-- 2^x, to 300 bits and a sticky bit; exact for an integer x (R121). Beyond the range of every format
the value is replaced by one that rounds alike. -/
def exp2Val : Val → Val
  | .nan => .nan
  | .inf s => if s then .zero false else .inf false
  | .zero _ => .fin 1 0
  | .fin m e =>
    if geTwoPow m.natAbs e 11 then if m < 0 then .fin 1 (-5000) else .fin 1 5000
    else
      let k : Int := if 0 ≤ e then m * 2 ^ e.toNat else m / 2 ^ (-e).toNat
      let fr : Nat := if 0 ≤ e then 0 else (m % 2 ^ (-e).toNat).toNat
      if fr = 0 then .fin 1 k
      else
        let f320 := if 320 ≤ -e then fr / 2 ^ (-e - 320).toNat else fr * 2 ^ (320 + e).toNat
        withSticky (expFix (f320 * ln2Fix / 2 ^ 320) / 2 ^ 20) (k - 300) true

/-- The first `k` bits after the point of log2 g, for g in [1, 2) with 600 bits after the point. -/
def log2Bits : Nat → Nat → Nat → Nat
  | 0, _, acc => acc
  | k + 1, g, acc =>
    let g2 := g * g / 2 ^ 600
    if 2 ^ 601 ≤ g2 then log2Bits k (g2 / 2) (2 * acc + 1) else log2Bits k g2 (2 * acc)

/-- log2 x, to 240 bits after the point and a sticky bit; exact for a power of two (R121). -/
def log2Val : Val → Val
  | .nan => .nan
  | .inf s => if s then .nan else .inf false
  | .zero _ => .inf true
  | .fin m e =>
    if m < 0 then .nan
    else
      let n := m.natAbs
      let k : Int := e + (Nat.log2 n : Int)
      if n = 2 ^ Nat.log2 n then .dy k 0
      else
        let g := n * 2 ^ 600 / 2 ^ Nat.log2 n
        .dy (2 * (k * 2 ^ 240 + (log2Bits 240 g 0 : Nat)) + 1) (-241)

/-- v.rint: an integral value of the same format (R121). -/
def rintVal (r : Rnd) : Val → Val
  | .fin m e =>
    let i := roundInt r m e
    if i = 0 then .zero (decide (m < 0)) else .fin i 0
  | v => v

/-! ## Orders (R203, R206, R220, R221) -/

/-- A key by which codes of a floating format are ordered: −∞ < … < −0 < +0 < … < +∞ < NaN, all NaN
alike. Integers are ordered signed. -/
def orderKey (f : Fmt) (x : Nat) : Int :=
  if f.isFloat then
    if f.isNan x then 2 ^ 40
    else if f.signOf x then -(f.magOf x : Int) - 1 else f.magOf x
  else sval f.width x

/-- The key of a comparison: as `orderKey`, with −0 equal to +0 (R206). -/
def cmpKey (f : Fmt) (x : Nat) : Int :=
  if f.isFloat then if f.signOf x then -(f.magOf x : Int) else f.magOf x else sval f.width x

/-- Whether an element is NaN; never for integers. -/
def elemNan (f : Fmt) (x : Nat) : Bool := f.isFloat && f.isNan x

/-! ## Elements of a vector register (R106, R199) -/

/-- The number of elements E(f). -/
def Fmt.count (f : Fmt) : Nat := 1024 / f.width

/-- Element `e` of width `w`. -/
def elemOf (w : Nat) (v : VReg) (e : Nat) : Nat := (v.extractLsb' (w * e) w).toNat

/-- The register whose element `e` is `f e`, for `e` below `n`. -/
def ofElems (w n : Nat) (f : Nat → Nat) : VReg :=
  BitVec.ofNat 1024 ((List.range n).foldl (fun acc e => acc + f e % 2 ^ w * 2 ^ (w * e)) 0)

/-- The register with the listed elements, lowest first, and zeros above. -/
def ofList (w : Nat) (xs : List Nat) : VReg :=
  BitVec.ofNat 1024 (xs.foldr (fun x acc => x % 2 ^ w + 2 ^ w * acc) 0)

/-- The elements in element order. -/
def elemsOf (w : Nat) (v : VReg) : List Nat := (List.range (1024 / w)).map (elemOf w v)

/-- The bits of a register that a set of lanes covers. -/
def laneBits (lanes : BitVec 32) : VReg :=
  ofElems 32 32 fun i => if lanes.getLsbD i then 0xFFFFFFFF else 0

/-- `new` in the lanes of the set, `old` in the others (R199). -/
def blend (lanes : BitVec 32) (new old : VReg) : VReg :=
  let b := laneBits lanes
  (new &&& b) ||| (old &&& ~~~b)

/-- The bytes of a register, lowest first (R192). -/
def vregBytes (v : VReg) : List Byte := (List.range 128).map fun i => v.extractLsb' (8 * i) 8

/-- The register that the bytes make, lowest first. -/
def vregOf (bs : List Byte) : VReg := ofList 8 (bs.map (·.toNat))

/-! ## Hashes (R122, R173) -/

/-- KCH32 (R122). -/
def kch32 (c k : W32) : W32 :=
  let x := c ^^^ k
  let x := x * 0x9E3779B1
  let x := x ^^^ (x >>> 15)
  let x := x * 0x85EBCA77
  let x := x ^^^ (x >>> 13)
  let x := (x + k) * 0xC2B2AE3D
  x ^^^ (x >>> 16)

/-- `n` bit steps of the reflected CRC-32C (R173). -/
def crcBits : Nat → W32 → W32
  | 0, c => c
  | n + 1, c => crcBits n (if c.getLsbD 0 then (c >>> 1) ^^^ 0x82F63B78 else c >>> 1)

/-- The CRC-32C step over bytes (R173). -/
def crcBytes (c : W32) (bs : List Byte) : W32 :=
  bs.foldl (fun c b => crcBits 8 (c ^^^ b.zeroExtend 32)) c

end Sys2Proof
end

