-- ==== Sys2Proof/Machine/Mem.lean ====
section
/-!
DEFINITION. The two containers of the machine state. `Mem` is a byte memory: (address, byte) pairs
with strictly rising addresses and no entry equal to 0, which is what an unlisted address reads as
(R53: empty blocks read zeros; log entry 5 for arrays whose contents at power-on no rule states).
`AMap` is a table by number, sorted, with a default for keys it does not list.
-/

namespace Sys2Proof.Machine

/-- A byte memory in canonical form. -/
abbrev Mem := List Host.Cell

/-- What an unlisted address reads as (log entry 5). -/
def Mem.unlisted : Byte := 0

/-- The byte at an address. -/
def Mem.read : Mem → Nat → Byte
  | [], _ => Mem.unlisted
  | (a, b) :: m, k => if k = a then b else Mem.read m k

/-- Puts a cell at its place; a byte equal to the unlisted value removes the entry. -/
def Mem.write : Mem → Nat → Byte → Mem
  | [], k, v => if v = Mem.unlisted then [] else [(k, v)]
  | (a, b) :: m, k, v =>
    if k < a then if v = Mem.unlisted then (a, b) :: m else (k, v) :: (a, b) :: m
    else if k = a then if v = Mem.unlisted then m else (k, v) :: m
    else (a, b) :: Mem.write m k v

/-- Every listed address is above `lo` and the addresses rise (`lo` is one more than the last). -/
def Mem.wfFrom : Nat → Mem → Bool
  | _, [] => true
  | lo, (a, b) :: m => decide (lo ≤ a) && decide (b ≠ Mem.unlisted) && Mem.wfFrom (a + 1) m

/-- The canonical form: addresses strictly rising, no entry equal to the unlisted value. -/
def Mem.wf (m : Mem) : Bool := Mem.wfFrom 0 m

/-- `n` bytes from an address upwards. -/
def Mem.bytes (m : Mem) (k : Nat) : Nat → List Byte
  | 0 => []
  | n + 1 => m.read k :: Mem.bytes m (k + 1) n

/-- Writes bytes from an address upwards. -/
def Mem.writeBytes (m : Mem) (k : Nat) : List Byte → Mem
  | [] => m
  | b :: bs => Mem.writeBytes (m.write k b) (k + 1) bs

/-- Clears the addresses from `lo` to `lo + n − 1` to the unlisted value. -/
def Mem.clear (m : Mem) (lo n : Nat) : Mem :=
  m.filter fun c => !(decide (lo ≤ c.1) && decide (c.1 < lo + n))

/-- The cells from `lo` to `lo + n − 1`, moved to start at 0. -/
def Mem.slice (m : Mem) (lo n : Nat) : Mem :=
  (m.filter fun c => decide (lo ≤ c.1) && decide (c.1 < lo + n)).map fun c => (c.1 - lo, c.2)

/-- Writes the cells of a slice back at `lo`, over a cleared range. -/
def Mem.paste (m : Mem) (lo n : Nat) (b : Mem) : Mem :=
  (b.filter fun c => decide (c.1 < n)).foldl (fun acc c => acc.write (lo + c.1) c.2) (m.clear lo n)

/-- A table by number, sorted by key, with at most one entry for a key. -/
abbrev AMap (α : Type) := List (Nat × α)

/-- The entry of a key, if it is listed. -/
def AMap.find? {α : Type} : AMap α → Nat → Option α
  | [], _ => none
  | (a, v) :: m, k => if k = a then some v else AMap.find? m k

/-- The entry of a key, or the default. -/
def AMap.get {α : Type} (m : AMap α) (k : Nat) (d : α) : α := (AMap.find? m k).getD d

/-- Puts an entry at its place. -/
def AMap.set {α : Type} : AMap α → Nat → α → AMap α
  | [], k, v => [(k, v)]
  | (a, w) :: m, k, v =>
    if k < a then (k, v) :: (a, w) :: m
    else if k = a then (k, v) :: m
    else (a, w) :: AMap.set m k v

/-- Removes an entry. -/
def AMap.erase {α : Type} (m : AMap α) (k : Nat) : AMap α := m.filter fun e => decide (e.1 ≠ k)

/-- Changes one entry, starting from the default where it is not listed. -/
def AMap.upd {α : Type} (m : AMap α) (k : Nat) (d : α) (f : α → α) : AMap α :=
  AMap.set m k (f (AMap.get m k d))

/-- The keys in rising order. -/
def AMap.keys {α : Type} (m : AMap α) : List Nat := m.map (·.1)

end Sys2Proof.Machine
end

