-- ==== Sys2Proof/Machine/State.lean ====
section
/-!
DEFINITION. The state of the machine, as plain data: every register, queue, table and array that the
spec names. A field's docstring gives its width, its rule and its value at reset; a field marked
MODEL is bookkeeping of the model and no state of the spec (log entries 1 to 3).
-/

namespace Sys2Proof.Machine

/-- Reasons for which the machine stops. -/
inductive Fault where
  /-- No step raises it: the spec gives every trap an entry or a report route. Kept because the
  interface asks for a type; safe. -/
  | unreachable
deriving DecidableEq, Repr

/-- Reasons for which a step is refused. -/
inductive Refusal where
  /-- Raised by an arm of `exec` for an instruction that has no meaning yet; safe. -/
  | notModelled (mnemonic : String)
  /-- Raised by the meaning of a slot when no context can issue, and by the meaning of an event whose
  condition does not hold, so that it does not happen; the step function never chooses such an event.
  Safe: nothing is claimed of a step that does not occur. -/
  | notEnabled (event : String)
deriving DecidableEq, Repr

/-- The block states of R52. -/
inductive BlkState where
  | present | empty | absent | poisoned
deriving DecidableEq, Repr

/-- The side-band word of a block (R52). `stale`, `touched` and `gen` are MODEL: the bytes are a free
value (R53, R47, R272), the block was written while a trade had it in flight (R54, R57), and the key under which
the stored form was written: 64 · generation + index (R78, R272). -/
structure SideBand where
  state   : BlkState := .empty
  size    : BitVec 2 := 0
  clean   : Bool := true
  okind   : BitVec 2 := 0
  origin  : BitVec 41 := 0
  stale   : Option Nat := none
  touched : Bool := false
  gen     : Nat := 0
deriving DecidableEq, Repr

/-- A whole block: side-band and bytes (R3, R52). -/
structure Block where
  sb    : SideBand := {}
  bytes : Mem := []
deriving DecidableEq, Repr

/-- Where a result is delivered (R131). -/
inductive Dest where
  | sreg (n : Nat)
  | areg (n : Nat)
  /-- operand code 0 to 799 of a vector slot -/
  | vreg (u : VUnit) (code : Nat)
  | vmask (u : VUnit) (k : Nat)
deriving DecidableEq, Repr

/-- What a load in flight has read (R95, R97): its class, whether it extends the sign, the first byte and width of
each element, the bytes, and the cycle of its bundle. `past` are the classes of independent accesses to its bytes
before which it has been performed: what those are ordered before comes after it too (R344). -/
structure Load where
  cls   : Nat
  sign  : Bool
  addrs : List Nat
  w     : Nat
  bytes : List Byte
  t     : Nat
  past  : List Nat := []
deriving DecidableEq, Repr

/-- A result in flight (R131). `lanes` are the lanes it writes; `due` is t + L; `at_` is the cycle of
delivery, no later than `due`; `ord` orders results by issue and, within a bundle, by header bit. A result
delivered before `due` stays listed as `done` until then, since a later one with an earlier t + L does not
replace it. `load` is what a load has read, while an independent access may still come before it (R97). -/
structure Pend where
  dest  : Dest
  val   : VReg
  lanes : BitVec 32
  due   : Nat
  at_   : Nat
  ord   : Nat
  done  : Bool := false
  load  : Option Load := none
deriving DecidableEq, Repr

/-- A last-result latch (R128): its entry, the earlier content, and the cycle from which the entry is
readable. -/
structure Latch where
  val : VReg := 0
  old : VReg := 0
  due : Nat := 0
deriving DecidableEq, Repr

/-- A level of a running loop (R133, R177). -/
structure Level where
  trip : Nat
  areg : Nat
  inc  : Int
  i    : Nat
deriving DecidableEq, Repr

/-- Loop state (R132, R177): the body, the levels, and how many bundles of this pass have issued. -/
structure Loop where
  start  : Nat
  len    : Nat
  levels : List Level
  cnt    : Nat
deriving DecidableEq, Repr

/-- A segment snapshot (R134): registers as they stood at s.seg.entry and the results that were in flight then
(`late`, which belong to it), ring pointers (tail, head), entry bundle, and the number of the s.seg.entry bundle
among the bundles of its context. -/
structure Snap where
  s      : AMap W64
  a      : AMap W64
  late   : List Pend
  rings  : List (Nat × Nat)
  entry  : Nat
  bundle : Nat
deriving DecidableEq, Repr

/-- A q.ld in flight (R239): its landing cycle, its last allowed cycle, its entries. -/
structure ScaleLoad where
  at_  : Nat
  due  : Nat
  vals : List (BitVec 16)
deriving DecidableEq, Repr

/-- The scale queue and its tile stage (R238). `drop` entries are removed as they land; `moved` is the
last cycle in which a group moved. -/
structure ScaleQ where
  landed : List (BitVec 16) := []
  loads  : List ScaleLoad := []
  staged : List (BitVec 16) := []
  tile   : Option ScaleLoad := none
  drop   : Nat := 0
  moved  : Option Nat := none
deriving DecidableEq, Repr

/-- An x.ntile whose coordinate is not yet readable (R29): its register, the bundle count b, and the
coordinate once the dispenser's answer has reached the core. `soon` marks one that a rewind waits for, and
`drop` one of an abandoned pass, whose register the snapshot restores (R135). -/
structure Ntile where
  reg    : Nat
  bundle : Nat
  asked  : Nat
  val    : Option W64
  here   : Bool
  soon   : Bool := false
  drop   : Bool := false
deriving DecidableEq, Repr

/-- The monitor of a context (R253). -/
inductive Mon where
  | none
  /-- x.mon issued, step not performed -/
  | waiting
  /-- armed on a word: die · 2^41 + device-page-space address -/
  | armed (addr : Nat)
  /-- fired or failed its comparison -/
  | fired
deriving DecidableEq, Repr

/-- What a blocked context waits for (R25). -/
inductive Wait where
  | rwe (ring n : Nat)
  | rwf (ring n : Nat)
  | mwait
  | cwait (cc n : Nat)
  | cycle (c : Nat)
  | phase
  | rdv (id k : Nat)
  | gang (mask : BitVec 8)
  | ntile
  /-- the contexts (core, context) that rewind with this one, until none waits for a coordinate (R135, R295) -/
  | mates (ms : List (Nat × Nat))
deriving DecidableEq, Repr

/-- Where a context goes on after a bundle (R132, R175, R177): a transfer, to an address of the running
half as a body that is skipped or to any, or the bundle at an address, as a step of the loop or not; or an
address with its half while the loop stands (R186). -/
inductive Advance where
  | jump (target : Nat) (skip : Bool)
  | next (addr : Nat) (plain : Bool)
  | onto (addr : Nat)
deriving DecidableEq, Repr

/-- The status of a context (R13, R20, R25, R36, R47, R261). -/
inductive CtxStatus where
  | free
  /-- admitted while the phase counter was odd: issues from the next compute superstep (R36) -/
  | held
  | ready
  /-- blocked at the bundle with address `pc` until the waits are over, and then going on -/
  | blocked (ws : List Wait) (on : Advance)
  | halted
deriving DecidableEq, Repr

/-- The record of a stopped or faulting command, and of a guard touch (R302, R286, R289). -/
structure Record where
  cause : Nat
  fatal : Bool
  info0 : W64
  info1 : W64
  info2 : W64
  info3 : W64
  /-- the counter of the command, or none for a guard touch -/
  cc    : Option Nat
  seq   : Nat
deriving DecidableEq, Repr

/-- The locations of a trade (R55). -/
inductive Loc where
  /-- scratchpad slot of a core -/
  | s (core slot : Nat)
  /-- pool slot of a cluster -/
  | p (cluster slot : Nat)
  /-- block of level D: virtual address -/
  | d (addr : Nat)
deriving DecidableEq, Repr

/-- The phase of a trade (R56). -/
inductive TradePhase where
  | a | b
deriving DecidableEq, Repr

/-- An exchange entry (R56). `die`, `dfn` and `blk` name the translated far block; `upto` is the
cycle in which a far retry ends (R301); `bad` marks an uncorrectable transit buffer (R301); `tier`, `loc`,
`kind` and `key` are the place, the ordering kind and the memory key found at translation. -/
structure Trade where
  near  : Loc
  far   : Loc
  phase : TradePhase
  die   : Nat
  dfn   : Nat
  blk   : Nat
  off   : Nat
  tier  : Nat
  loc   : Nat
  kind  : Nat
  key   : Nat
  bad   : Bool
  link  : Bool
  upto  : Option Nat
deriving DecidableEq, Repr

/-- How a counted command stands (R56, R300). -/
inductive CmdStatus where
  | queued
  | flight (t : Trade)
  | stopped (r : Record)
  /-- all its accesses are performed and its completion is due -/
  | finishing
deriving DecidableEq, Repr

/-- A counted command that has not completed (R241): the command, its issue number, bundle address,
operand values, the bytes it read at issue and where, the element it stands at, and its faults so far. -/
structure Cmd where
  ins    : Instr
  seq    : Nat
  t      : Nat
  pc     : Nat
  args   : List W64
  data   : List Byte
  reads  : List (Nat × Nat)
  i      : Nat
  n      : Nat
  sub    : Nat
  status : CmdStatus
  /-- recorded address of an earlier stop at this element, when no probe has passed over it since (R303) -/
  bad    : Option Nat
  /-- a hold-down of R307 under way: the retry cycle -/
  hold   : Option Nat
  /-- first element that received poison (R302) -/
  poison : Option (Nat × Nat)
  /-- flits that have been sent: of an x.rst, or of the block that an x.xchp trades (R43) -/
  sent   : Nat
  /-- cause found in the bytes read at issue: 0 none, 0x0E or 0x09 (R53, R293) -/
  src    : Nat
  /-- flits that are past in the compiled token schedule, which a retry does not move (R43, R319) -/
  placed : Nat := 0
  /-- number of the next command when this one last resumed: fences and release marks issued before do not cover its
  elements (R100, R101); 0 where it never stopped -/
  resumed : Nat := 0
  /-- what is performed of an element that is split at page boundaries (R99): the 64 KiB units of an x.disc, the blocks
  of the source of an x.coll, and then those of its destination -/
  parts  : List Nat := []
deriving DecidableEq, Repr

/-- A context (R13, R21, R124). The reset value of every register is that of a free context. -/
structure Ctx where
  /-- [–; 01 R13, R25; reset free] status -/
  status  : CtxStatus := .free
  /-- [cycles; 01 R26; reset 0] cycle since which the context is ready -/
  since   : Nat := 0
  /-- [16; 07 R138; reset 0 (R336 for the boot context)] program counter -/
  pc      : Nat := 0
  /-- [1 and 16; 07 R138, 17 R289; reset I0, 0] running half, and the last header fetched -/
  half    : Nat := 0
  lastHdr : Nat := 0
  /-- [1; 07 R143; reset 1 (R334, R336); U at admission (R21)] privilege: true is P -/
  priv    : Bool := true
  /-- [1; 17 R287; reset 0] in P by trap entry, and how many entries below it are still open -/
  inTrap  : Bool := false
  nest    : Nat := 0
  /-- [64 × 64; 07 R124; reset zero (R21, R336)] s-file -/
  s       : AMap W64 := []
  /-- [32 × 64; 07 R124; reset zero] a-file; a0 reads zero -/
  a       : AMap W64 := []
  /-- [2 × 32 × 1,024; 07 R124; reset zero] operand files oa, ob -/
  oa      : AMap VReg := []
  ob      : AMap VReg := []
  /-- [2 × 7 × 32; 07 R124; reset zero] masks ka1 to ka7, kb1 to kb7 -/
  ka      : AMap W32 := []
  kb      : AMap W32 := []
  /-- [4 × 1,024; 07 R128; reset zero] last-result latches L0, L1 of VA and VB -/
  la0     : Latch := {}
  la1     : Latch := {}
  lb0     : Latch := {}
  lb1     : Latch := {}
  /-- [2 × 3 × 1,024; 07 R129; reset zero] hold registers of positions 1, 2, 3 -/
  ha      : AMap VReg := []
  hb      : AMap VReg := []
  /-- [64; 07 R126; reset zero] broadcast port -/
  port    : W64 := 0
  /-- [2 × 1,024; 12 R228; reset zero] edge latches ela, elb -/
  ela     : VReg := 0
  elb     : VReg := 0
  /-- [64 × 32; 07 R124; reset zero] completion counters -/
  cc      : AMap W32 := []
  /-- [64 BF16 and stage 512; 12 R238; reset empty] scale queue -/
  sq      : ScaleQ := {}
  /-- [bank lists; 07 R140; reset none] physical banks of va, vb, acc -/
  vaMap   : List Nat := []
  vbMap   : List Nat := []
  accMap  : List Nat := []
  /-- [1; 01 R24; reset 0] persistent task -/
  persist : Bool := false
  /-- [2; 01 R24, R29; reset 0] rotation pointer -/
  rot     : Nat := 0
  /-- [4; 01 R29; reset none] x.ntile not yet readable -/
  ntiles  : List Ntile := []
  /-- [count; 01 R29] bundles of the context, for R29 -/
  bundles : Nat := 0
  /-- [64; 07 R143; reset 0] retired -/
  retired : W64 := 0
  /-- [64; 02 R37; reset 0] phase.ctr, the counter of the context's superstep -/
  phase   : W64 := 0
  /-- [64 each; 17 R288; reset 0] trap.cause, trap.pc, trap.info0 to trap.info3 -/
  trCause : W64 := 0
  trPc    : W64 := 0
  trI0    : W64 := 0
  trI1    : W64 := 0
  trI2    : W64 := 0
  trI3    : W64 := 0
  /-- [64 each; 12 R237; reset 0] mx.status, mx.uemode, mx.uecoord -/
  mxStat  : W64 := 0
  mxMode  : W64 := 0
  mxCoord : W64 := 0
  /-- [cycle; 12 R225; reset 0] cycle in which the last beat is final -/
  mxDue   : Nat := 0
  /-- [16, 32, 2, 1; 07 R136; reset 0] seg.entry, seg.count fields -/
  segPc   : Nat := 0
  commits : W32 := 0
  rewinds : Nat := 0
  snap    : Option Snap := none
  /-- [–; 07 R132, R177; reset none] loop state, and the loop a trap suspended -/
  loop    : Option Loop := none
  susp    : Option Loop := none
  /-- [–; 07 R131; reset none] results in flight; the snapshot buffer of R46 once frozen -/
  pend    : List Pend := []
  /-- [–; 02 R46; reset none] freeze cycle -/
  frozen  : Option Nat := none
  /-- [64 entries; 13 R241; reset none] counted commands, oldest first -/
  cmds    : List Cmd := []
  cmdSeq  : Nat := 0
  /-- [–; 17 R286; reset none] deferred faults, in issue order -/
  faults  : List Record := []
  /-- [–; 03 R70, 17 R292; reset none] pending guard touch -/
  guard   : Option Record := none
  /-- [–; 13 R253; reset none] monitor, and the number of the last x.mon issued -/
  mon     : Mon := .none
  monSeq  : Nat := 0
  /-- [count; 01 R26; reset 0] bundles counted towards the forced switch -/
  counted : Nat := 0
  /-- [count; 13 R248; reset 0] x.rdv issued -/
  rdvs    : Nat := 0
  /-- [–; 12 R230, 17 R298; reset none] a 0x16 to take at the next bundle, or at the next ganged beat,
  x.rdv or x.gend: gang mask and info1 -/
  gtrap   : Option (Nat × Nat) := none
  ltrap   : Option (Nat × Nat) := none
  /-- [32; 17 R297; reset 0] CRC-32C of the stores since the last X issue -/
  stCrc   : W32 := 0
  /-- [–; 01 R13, 02 R34; reset none] domain and launch of the task -/
  dom     : Option Nat := none
  launch  : Nat := 0
  tag     : W32 := 0
  vi      : Nat := 0
  /-- [cycle; 17 R287, 07 R135] the context issues no earlier than this cycle -/
  notB    : Nat := 0
  /-- [–; 02 R47; reset 0] part of a saved domain -/
  saved   : Bool := false
  /-- [MODEL; 01 R25] its waits were over at the end of the last cycle: it becomes ready in this one -/
  wake    : Bool := false
  /-- [MODEL; 17 R290] a bundle that has had its effects and takes a trap at the wait it stands in: its
  address, and where the context goes on from it when its X slot has issued again -/
  again   : Option (Nat × Advance) := none
deriving DecidableEq, Repr

/-- A store that has not committed (R95). -/
structure Store where
  ctx  : Nat
  addr : Nat
  data : List Byte
  cls  : Nat
  t    : Nat
deriving DecidableEq, Repr

/-- A store into the instruction scratchpad behind which, in issue order, a store stands that no fence has
ordered (R139, R196); `fenced` says whether a fence of its context has ordered it itself, and `was` lists the
rows that it writes whole and that were uncorrectable before it (R293). -/
structure IStore where
  ctx    : Nat
  addr   : Nat
  data   : List Byte
  t      : Nat
  fenced : Bool := false
  was    : List Nat := []
deriving DecidableEq, Repr

/-- An open window (R67). -/
structure Window where
  tbase  : Nat
  nrows  : Nat
  stride : Nat
  cursor : Nat
deriving DecidableEq, Repr

/-- A ring (R64 to R66). `held` are the held pops (context, position); `raps` the tail moves that are
due (cycle, context, count); `freed` the cycle of the last commit that freed slots of the ring and what free
was before it (R181). -/
structure Ring where
  cfg   : Bool := false
  base  : Nat := 0
  len   : Nat := 0
  guard : Bool := false
  tail  : Nat := 0
  head  : Nat := 0
  free  : Nat := 0
  win   : Option Window := none
  held  : List (Nat × Nat) := []
  raps  : List (Nat × Nat × Nat) := []
  freed : Option (Nat × Nat) := none
deriving DecidableEq, Repr

/-- An accumulator bank (R124, R231): 32 × 32 cells at 32·i + j, checksum row and column. `marks` are cells that a
soft error has changed (R332; log entry 33). -/
structure AccBank where
  cells   : AMap W32 := []
  ckr     : AMap W32 := []
  ckc     : AMap W32 := []
  checked : Bool := true
  marks   : List Nat := []
deriving DecidableEq, Repr

/-- A parked column of the spill map (R137): context, file, register, value and bank; and what the
column holds until the park's latency has passed. -/
structure Parked where
  ctx  : Nat
  u    : VUnit
  reg  : Nat
  val  : VReg
  old  : VReg
  due  : Nat
  bank : Nat
deriving DecidableEq, Repr

/-- A task that waits for admission (R20). -/
structure Task where
  launch  : Nat
  core    : Nat
  ctx     : Nat
  va      : Nat
  vb      : Nat
  acc     : Nat
  persist : Bool
  pair    : Bool
  entry   : Nat
  coord   : W64
  partner : Nat
deriving DecidableEq, Repr

/-- A bank lock (R69): context, mask, bundles left. -/
structure Lock where
  ctx  : Nat
  mask : W32
  left : Nat
deriving DecidableEq, Repr

/-- A stored bit that has flipped (R293): array, row of 64 bits, bit. Arrays 0 to 3 and 5 as in
repair.idx (R338); 6 s-files, 7 a-files, 8 and 9 the operand files, latches and holds of VA and VB, 10 the
accumulator cells by physical bank, 11 the edge latches, 12 the masks, 13 the side-band words of the slots (R301). -/
structure Flip where
  array : Nat
  row   : Nat
  bit   : Nat
deriving DecidableEq, Repr

/-- A core (R2, R123, R143). -/
structure Core where
  /-- [2; 07 R143; reset 01] mode.smode -/
  smode   : BitVec 2 := 1
  /-- [1 and 10; 07 R143; reset 0] mode.pair, mode.partner -/
  pair    : Bool := false
  partner : Nat := 0
  /-- [16; 07 R143; reset 0] trap.vec -/
  vec     : Nat := 0
  /-- [2 and 64; 07 R143; reset 0] sticky.flag, sticky.addr -/
  hit     : Bool := false
  wr      : Bool := false
  sAddr   : W64 := 0
  /-- [64; 22 R338; reset 0] repair.idx -/
  ridx    : W64 := 0
  /-- [16 × 24; 22 R339; reset 0] repair table, and the entries in effect -/
  repair  : AMap W64 := []
  active  : AMap W64 := []
  /-- [64; 22 R340; reset 0] test.inject -/
  inject  : W64 := 0
  /-- [–; 17 R293; reset none] flipped stored bits, and corrections made -/
  flips   : List Flip := []
  fixed   : Nat := 0
  /-- [1.25 MiB and the second copy; 03 R49, 02 R41; reset zero] scratchpad bytes: working slots and
  window copy 0 at the scratchpad address, window copy 1 from 0x14_0000 up -/
  sp      : Mem := []
  /-- [640 × 64; 03 R52; reset empty] side-band words of the slots -/
  sb      : AMap SideBand := []
  /-- [4,096 each; 02 R41; reset zero] granules whose select bit, written bit is set -/
  sel     : List Nat := []
  written : List Nat := []
  /-- [64 KiB; 03 R51; reset: log entry 5] instruction scratchpad -/
  imem    : Mem := []
  iq      : List IStore := []
  /-- [–; 05 R95; reset empty] stores that have not committed -/
  stq     : List Store := []
  /-- [16; 03 R64; reset unconfigured] rings -/
  rings   : AMap Ring := []
  /-- [1,024 × 1,024 each; 07 R140, 22 R338; reset: log entry 5] physical VA and VB entries -/
  va      : AMap VReg := []
  vb      : AMap VReg := []
  /-- [4 banks; 07 R124; reset zero] physical accumulator banks -/
  accs    : AMap AccBank := []
  /-- [128; 07 R137; reset empty] spill map -/
  spill   : List Parked := []
  /-- [4; 01 R13; reset free] contexts -/
  ctxs    : AMap Ctx := []
  /-- [–; 01 R25; reset none] running context, and the one that a switch has chosen -/
  run     : Option Nat := none
  /-- [cycle; 01 R26] the core issues no earlier than this cycle -/
  issueAt : Nat := 0
  /-- [–; 01 R26; reset 0] a switch is due: the running context has left or must leave -/
  leave   : Bool := false
  /-- [cycle, count; 02 R43, 19 R319; reset none] the last token visit that the core used, and the failed
  sends of its flit in turn -/
  sentAt  : Option Nat := none
  fails   : Nat := 0
  /-- [MODEL; 01 R26] the selector acts in this cycle -/
  swap    : Bool := false
  /-- [–; 01 R20; reset empty] tasks that wait for admission -/
  queue   : List Task := []
  /-- [–; 01 R20; reset none] interface and image address of the resident tasks -/
  image   : Option (Nat × Nat) := none
  /-- [–; 03 R69; reset none] bank lock -/
  lock    : Option Lock := none
  /-- [MODEL] issue order of results, and the last cycle in which the core issued -/
  ord     : Nat := 0
  last    : Nat := 0
  /-- [1; 22 R334; reset 1] held by the boot controller -/
  heldB   : Bool := true
deriving DecidableEq, Repr

/-- A ganged beat that a member issues: its core and the fields that must agree (R230). -/
structure PeerBeat where
  core : Nat
  pair : Pair
  dist : Bool
  row  : Nat
deriving DecidableEq, Repr

/-- A gang (R30): members (core, context) in ascending order, mask, the cores that have issued x.gend
(with cycle and address), and the ganged beat of the cycle: the leader's B beat row and its scales (R230). `peers` are the
ganged beats that the other members issue in the cycle `seen`; a gang that breaks in that cycle has no members,
and `told` are the cores that are still to issue in it (MODEL, log entry 2). -/
structure Gang where
  die     : Nat
  cluster : Nat
  mask    : BitVec 8
  members : List (Nat × Nat)
  ended   : List (Nat × Nat × Nat)
  beatAt  : Option Nat
  beatRow : List Byte
  scales  : List (BitVec 16)
  seen    : Option Nat
  peers   : List PeerBeat
  told    : List Nat := []
deriving DecidableEq, Repr

/-- A phase domain (R34, R35, R44). -/
structure Domain where
  /-- [128; 02 R34; reset all for domain 0, else none] clusters -/
  clusters : BitVec 128 := 0
  /-- [64; 02 R35; reset 0] phase counter -/
  ctr      : W64 := 0
  /-- [6; 02 R44; reset 0] dom.ctl owner -/
  owner    : Nat := 0
  /-- [6; 02 R44; reset 0] dom.ctl strag.exp -/
  strag    : Nat := 0
  /-- [1 each; 02 R44; reset 0] dom.ctl pend, saved -/
  pend     : Bool := false
  saved    : Bool := false
  /-- [64; 02 R44; reset 0] dom.save -/
  save     : W64 := 0
  /-- [cycle; 02 R45; reset none] cycle in which the straggler count started -/
  count    : Option Nat := none
  /-- [1; 19 R315; reset 0] the pending barrier is failed -/
  failed   : Bool := false
  /-- [cycle; 02 R39] latest arrival, landing, commit or release that the barrier counts from -/
  latest   : Nat := 0
  /-- [–; 19 R316] the saved state came from a forced save; its cluster bitmap -/
  forced   : Bool := false
  savedCl  : BitVec 128 := 0
  /-- [cycle; 02 R48; reset none] replay origin W of a resume under way -/
  origin   : Option Nat := none
  /-- [cycle; 14 R273; reset none] held for a router swap since this cycle -/
  heldRt   : Option Nat := none
  /-- [–; 02 R46] a save is under way -/
  saving   : Bool := false
  /-- [–; 01 R15] PREEMPT commands that complete with the save: (interface, stream, tag, notify) -/
  waiters  : List (Nat × Nat × W32 × Bool) := []
  /-- [–; 02 R34; reset none] unbinds that have not completed: (interface, stream, tag, notify, clusters) -/
  unbinds  : List (Nat × Nat × W32 × Bool × BitVec 128) := []
  /-- [–; 02 R43, 19 R319; reset none] flits not landed, in the order of the compiled token schedule: core, context,
  command and first granule -/
  flits    : List (Nat × Nat × Nat × Nat) := []
  /-- [MODEL; 03 R57] a resume that waits for trades in flight with blocks of the save area -/
  resuming : Bool := false
  /-- [MODEL; 02 R47, R48] number of the free bytes that the save wrote into its records (log entry 19) -/
  recTag   : Nat := 0
deriving DecidableEq, Repr

/-- A launch (R15, R17, R28). -/
structure Launch where
  vi     : Nat
  stream : Nat
  tag    : W32
  notify : Bool
  image  : Nat
  arg    : W64
  dom    : Nat
  gx     : Nat
  gy     : Nat
  gz     : Nat
  /-- next linear index of the tile dispenser -/
  next   : Nat
  /-- tasks not yet released -/
  left   : Nat
  /-- cores on which the image could not be loaded (R347) -/
  barred : List Nat
deriving DecidableEq, Repr

/-- A command stream (R265). -/
structure Stream where
  base   : W64 := 0
  lg     : Nat := 2
  prio   : Nat := 0
  en     : Bool := false
  tail   : Nat := 0
  head   : Nat := 0
  /-- a WAIT that holds the stream: address, threshold, tag, notify -/
  wait   : Option (Nat × Nat × W32 × Bool) := none
  /-- commands dispatched and not complete -/
  open_  : Nat := 0
  /-- cycle since which the head is eligible -/
  since  : Option Nat := none
deriving DecidableEq, Repr

/-- A report queue (R266). `waiting` are records that wait for space. -/
structure Queue where
  base    : W64 := 0
  lg      : Nat := 2
  en      : Bool := false
  irq     : Bool := false
  lost    : Nat := 0
  tail    : Nat := 0
  head    : Nat := 0
  waiting : List (List W64) := []
  /-- MSI-X messages raised -/
  raised  : Nat := 0
deriving DecidableEq, Repr

/-- The states of a memory key (R264, R271). -/
inductive KeyState where
  | empty | installing | live | revoking
deriving DecidableEq, Repr

/-- A virtual interface (R264). -/
structure Vi where
  streams : AMap Stream := []
  /-- queues 0 completion, 1 error, 2 event -/
  queues  : AMap Queue := []
  /-- [4 × 64; 14 R264; reset 0] pt.root -/
  root    : AMap W64 := []
  /-- [64 each, 1; 14 R268; reset 0] inv.addr, inv.len, busy, and the range of the go under way -/
  invA    : W64 := 0
  invL    : W64 := 0
  busy    : Bool := false
  goA     : W64 := 0
  goL     : W64 := 0
  /-- [2; 14 R264; reset live for interface 0, else empty (log entry 96)] key.state, the key generation, and the
  commands that wait, the install of a key that is revoked while it is installed among them (log entry 72) -/
  key     : KeyState := .empty
  gen     : Nat := 0
  keyCmd  : List (Nat × Nat × W32 × Bool) := []
  /-- [64; 14 R269; reset 0] ap.base -/
  ap      : W64 := 0
  /-- [2, 8 × 1,792; 14 R275; reset 0] mailbox -/
  mbBusy  : Bool := false
  mbErr   : Bool := false
  mbUses  : Nat := 0
  buf     : Mem := []
  /-- [256; 14 R275; reset none] number of the transport exchange that set the transport key -/
  tkey    : Option Nat := none
  /-- [128; 14 R270; reset all for interface 0, else none] grant -/
  grant   : BitVec 128 := 0
  /-- [64 each; 01 R22; reset 0] hd.base, hd.vec -/
  hdBase  : W64 := 0
  hdVec   : W64 := 0
  /-- [32 each; 14 R264, 04 R87; reset none] grants of the host driver, by event sequence number -/
  granted : List Nat := []
  /-- [32; 14 R266, 04 R87; reset 0] sequence number of the next event record -/
  evSeq   : Nat := 0
deriving DecidableEq, Repr

/-- A placement entry (R75): both copies hold it; `bad0`, `bad1` are flipped bits of the copies. `again` (MODEL)
says that a write to the discarded frame has made it stable (R308; log entry 80). -/
structure PEntry where
  tier   : Nat := 0
  loc    : Nat := 0
  state  : Nat := 0
  pinned : Bool := false
  hint   : Nat := 0
  slot   : Nat := 0
  revive : Bool := false
  again  : Bool := false
  bad0   : List Nat := []
  bad1   : List Nat := []
deriving DecidableEq, Repr

/-- A swap slot in use (R82, R85): the hot frame with its old place, the cold frame (none when the
location is spare) and location, the progress pointer, and the roll-back with its reason and the pointer
at which it began. -/
structure Swap where
  hot   : Nat
  tierH : Nat
  locH  : Nat
  cold  : Option Nat
  tierC : Nat
  locC  : Nat
  p     : Nat
  back  : Bool
  why   : Nat
  pAt   : Nat
deriving DecidableEq, Repr

/-- A TLB entry (R73): interface, first 64 KiB unit, units covered, leaf word. -/
structure TlbEnt where
  vi   : Nat
  unit : Nat
  n    : Nat
  leaf : W64
deriving DecidableEq, Repr

/-- A claim on a tier H page (R307): interface, first 64 KiB unit, device page and units of the page, side, cycle
in which it was taken, and the command that took it. -/
structure Claim where
  vi   : Nat
  unit : Nat
  dpn  : Nat
  n    : Nat
  host : Bool
  at_  : Nat
  by_  : Option (Nat × Nat × Nat)
deriving DecidableEq, Repr

/-- A die (R71 to R91, R305 to R313). -/
structure Die where
  /-- [2^20 × 64 × 2; 04 R75; reset unmapped] placement map -/
  map     : AMap PEntry := []
  /-- [2^20 × 8; 04 R79; reset 0] hotness counters -/
  hot     : AMap Nat := []
  /-- [64; 04 R80; reset en 1, upin 0, margin 16, decay 24, tick 16] aff.ctl -/
  en      : Bool := true
  upin    : Bool := false
  margin  : Nat := 16
  decay   : Nat := 24
  tick    : Nat := 16
  /-- [8; 04 R82; reset none] swap slots -/
  swaps   : AMap Swap := []
  /-- [–; 18 R305; reset none] frames not chosen until the next decay tick -/
  barred  : List Nat := []
  /-- [–; 18 R306; reset none] locations lost until reset -/
  lost    : List (Nat × Nat) := []
  /-- [cycle; 04 R79, R81] the last policy and decay ticks -/
  ticked  : Nat := 0
  decayed : Nat := 0
  /-- [64 each, 1; 14 R264; reset 0] mp.dfn, mp.entry, refused; and the goes that wait for a trade in flight, in
  order: their mp.dfn and mp.entry (log entry 80) -/
  mpDfn   : W64 := 0
  mpEntry : W64 := 0
  mpRef   : Bool := false
  mpWait  : List (W64 × W64) := []
  /-- [262,144; 04 R73; reset empty] TLB -/
  tlb     : List TlbEnt := []
  /-- [–; 18 R307; reset none] claims -/
  claims  : List Claim := []
  /-- [–; 18 R307; reset none] hold-downs of host requests: first device page, pages, and the cycle of its end -/
  downs   : List (Nat × Nat × Nat) := []
  /-- [65,536 bits; 18 R311; reset 0] Bloom filter, the cycle in which it was last cleared, corrected count, row
  keys of repeats -/
  bloom   : List Nat := []
  bloomAt : Nat := 0
  corr    : Nat := 0
  repeats : List Nat := []
  /-- [–; 18 R312, R313; reset none] retired channels (group, channel), channels that failed in a group
  that had one, draining, re-interleaved, and the channels that the re-interleaved hash leaves out -/
  retired : List (Nat × Nat) := []
  dead    : List (Nat × Nat) := []
  drain   : Bool := false
  rehash  : Bool := false
  out     : List (Nat × Nat) := []
  /-- [counts; 03 R59; reset 0] data reads, side-band writes, data writes -/
  reads   : Nat := 0
  sbWr    : Nat := 0
  datWr   : Nat := 0
  /-- [1; 18 R306; reset 0] the root port is lost -/
  lostRp  : Bool := false
deriving DecidableEq, Repr

/-- A collective at a participant's Shroud (R254, R255, R278, R322, R323): its place among the collectives
of its domain or group, its command and descriptor, the local contribution once taken, partial folds
passed on, chunks with their final value, the hops that the next rank has acknowledged (2 · chunk, plus 1 for the
return of a fold's result), the directions that run on their alternate port, and how it stands; `told` says that an
abort notice is on its way from here. `t` is the cycle of its command; at scope 0 `out` are the hops whose flits have
all gone over the home channel, `flit` counts those of the hop under way, and `lead` the flits by which the compiled
schedule is ahead (R43, R319). `reads` are the blocks of the source that have been read (R99). -/
structure Coll where
  scope  : Nat
  group  : Nat
  dom    : Nat
  seq    : Nat
  core   : Nat
  ctx    : Nat
  cmd    : Nat
  vi     : Nat
  rank   : Nat
  n      : Nat
  desc   : List W64
  src    : List Byte := []
  taken  : Bool := false
  part   : AMap (List Byte) := []
  got    : AMap (List Byte) := []
  acked  : List Nat := []
  altN   : Bool := false
  altP   : Bool := false
  reform : Bool := false
  clash  : Bool := false
  failed : Bool := false
  done   : Bool := false
  told   : Bool := false
  t      : Nat
  out    : List Nat := []
  flit   : Nat := 0
  lead   : Nat := 0
  reads  : AMap (List Byte) := []
  moved  : Nat
deriving DecidableEq, Repr

/-- A Delavo port (R276, R321). -/
structure Port where
  down  : Bool := false
  fails : Nat := 0
  last  : Nat := 0
deriving DecidableEq, Repr

/-- An entry of a router table (R273). -/
structure RtEnt where
  chan  : Nat := 0
  dom   : Nat := 0
  valid : Bool := false
deriving DecidableEq, Repr

/-- What the next step does (MODEL, log entry 2). -/
inductive Turn where
  /-- the running context of a core issues its next bundle -/
  | issue (core : Nat)
  /-- an event of the machine happens -/
  | event (i : Instr)
  /-- the cycle ends -/
  | tick
deriving DecidableEq, Repr

/-- The machine. -/
structure State where
  /-- [64; 07 R143; reset 0] core cycles since reset (CSR cycle) -/
  now     : Nat
  /-- [MODEL, log entry 1] counter of the free values -/
  free    : Nat
  /-- [MODEL, log entry 2] the core whose running context issues -/
  cur     : Nat
  /-- [MODEL, log entry 2] the next step -/
  turn    : Turn
  /-- [MODEL, log entry 2] inputs of the outside world, oldest first -/
  inputs  : List Instr
  /-- [MODEL] what a core that `cores` does not list is like -/
  coreDef : Core
  /-- [1,024; 00 R2] cores -/
  cores   : AMap Core
  /-- [128 × 4,096 blocks; 03 R49; reset empty] pools: bytes at (cluster·4,096 + slot)·2,048 -/
  pmem    : Mem
  psb     : AMap SideBand
  /-- [level D; 03 R49, 04 R77; reset empty] media of tiers N, C and F: bytes at key·2,048 -/
  dmem    : Mem
  dsb     : AMap SideBand
  /-- [–; 18 R301, R311, R314; reset none] blocks with a corrected error, blocks whose data, and blocks whose
  side-band word, their own media cannot correct; and such blocks of the pools -/
  mflips  : List Nat
  mhard   : List Nat
  mside   : List Nat
  phard   : List Nat
  /-- [host memory; 04 R77, 14 R262; reset: log entry 5] host memory by physical address as the device sees it, and
  its writes that the host has not accepted, oldest first: address, and the bytes that the host still reads there
  (R94) -/
  hmem    : Mem
  unacc   : List (Nat × List Byte)
  /-- [128; 01 R30; reset none] gangs -/
  gangs   : List Gang
  /-- [16; 02 R34; reset R34] phase domains -/
  doms    : AMap Domain
  /-- [64; 14 R264; reset R264] interfaces -/
  vis     : AMap Vi
  /-- [4; 04 R75] dies -/
  dies    : AMap Die
  /-- [–; 01 R15; reset none] launches -/
  launches : AMap Launch
  nextLaunch : Nat
  /-- [–; 01 R32; reset 0] consecutive grants, and the last stream served of each priority -/
  grants  : Nat
  served  : AMap Nat
  /-- [256 × 64; 14 R277; reset 0] sg.ent, ranks marked lost, per-group sequence numbers -/
  sg      : AMap W64
  sgLost  : AMap (List Nat)
  sgSeq   : AMap Nat
  /-- [16; 14 R276; reset up] Delavo ports -/
  ports   : AMap Port
  /-- [–; 13 R254; reset none] collectives under way, and the count of each cluster (R254) -/
  colls   : List Coll
  clSeq   : AMap Nat
  /-- [2^16 each; 14 R273; reset 0] active and shadow router tables by index, rt.idx, swap under way,
  entries of either table that are uncorrectable -/
  rtAct   : AMap RtEnt
  rtSha   : AMap RtEnt
  rtIdx   : W64
  rtMask  : Option (BitVec 16)
  rtBad   : List Nat
  rtShaBad : List Nat
  /-- [–; 19 R319; reset none] home channels that have failed -/
  badChan : List Nat
  /-- [1; 22 R334, 14 R274; reset start-up] boot stage: 0 held, 1 boot contexts run, 2 open,
  3 recovery -/
  stage   : Nat
  /-- [512; 14 R274; reset 0] number of extensions of the measurement register -/
  measured : Nat
deriving DecidableEq, Repr

/-- All clusters (R34, R270). -/
def allClusters : BitVec 128 := BitVec.allOnes 128

/-- The machine right after power-on: step 1 of R334. Every core is held, mode is 0x3, the maps are
unmapped, the repair tables are clear and every block is empty; domain 0 holds all clusters and is
bound to interface 0, which holds every grant. The boot controller acts next (R334). -/
def State.reset : State where
  now := 0
  free := 0
  cur := 0
  turn := .event .powerOnReset
  inputs := []
  coreDef := {}
  cores := []
  pmem := []
  psb := []
  dmem := []
  dsb := []
  mflips := []
  mhard := []
  mside := []
  phard := []
  hmem := []
  unacc := []
  gangs := []
  doms := [(0, { clusters := allClusters })]
  vis := [(0, { grant := allClusters, key := .live })]
  dies := []
  launches := []
  nextLaunch := 1
  grants := 0
  served := []
  sg := []
  sgLost := []
  sgSeq := []
  ports := []
  colls := []
  clSeq := []
  rtAct := []
  rtSha := []
  rtIdx := 0
  rtMask := none
  rtBad := []
  rtShaBad := []
  badChan := []
  stage := 0
  measured := 0

end Sys2Proof.Machine
end

