-- ==== Sys2Proof/Machine/Device.lean ====
section
/-!
DEFINITION. Level D: translation in two steps (R71 to R75), the place of a block in a tier, and the
operations that read and write blocks, words and records there (R53, R54, R57, R59, R86, R103, R266).
-/

namespace Sys2Proof.Machine

/-! ## Tables of the state -/

def State.core (s : State) (k : Nat) : Core := AMap.get s.cores k s.coreDef
def State.setCore (s : State) (k : Nat) (c : Core) : State := { s with cores := AMap.set s.cores k c }
def Core.ctx (c : Core) (j : Nat) : Ctx := AMap.get c.ctxs j {}
def Core.setCtx (c : Core) (j : Nat) (x : Ctx) : Core := { c with ctxs := AMap.set c.ctxs j x }
def State.ctx (s : State) (k j : Nat) : Ctx := (s.core k).ctx j
def State.modCore (s : State) (k : Nat) (f : Core → Core) : State := s.setCore k (f (s.core k))
def State.modCtx (s : State) (k j : Nat) (f : Ctx → Ctx) : State :=
  s.modCore k fun c => c.setCtx j (f (c.ctx j))
def State.die (s : State) (d : Nat) : Die := AMap.get s.dies d {}
def State.modDie (s : State) (d : Nat) (f : Die → Die) : State :=
  { s with dies := AMap.set s.dies d (f (s.die d)) }
def State.vi (s : State) (v : Nat) : Vi := AMap.get s.vis v {}
def State.modVi (s : State) (v : Nat) (f : Vi → Vi) : State :=
  { s with vis := AMap.set s.vis v (f (s.vi v)) }
def State.dom (s : State) (d : Nat) : Domain := AMap.get s.doms d {}
def State.modDom (s : State) (d : Nat) (f : Domain → Domain) : State :=
  { s with doms := AMap.set s.doms d (f (s.dom d)) }

/-- Takes a fresh free value: the counter advances (log entry 1). -/
def State.fresh (s : State) : State := { s with free := s.free + 1 }

/-- The cluster number of a core: die · 32 + cluster (R2). -/
def clusterOf (core : Nat) : Nat := core / 8

/-- Bits `lo` to `lo + n − 1` of a word. -/
def bitsOf (w : W64) (lo n : Nat) : Nat := (w.extractLsb' lo n).toNat

/-- Whether a bit of a bitmap is set. -/
def bmHas (b : BitVec 128) (i : Nat) : Bool := b.getLsbD i

/-! ## Placement (R74 to R77, R82) -/

/-- The owning die of an address (R4). -/
def dieOf (addr : Nat) : Nat := addr / 2 ^ 50 % 4

/-- The number of a block on the media: die, tier, frame and block (MODEL key). -/
def blkKey (die tier loc blk : Nat) : Nat := ((die * 4 + tier) * 2 ^ 31 + loc) * 1024 + blk

/-- The placement entry of a frame (R75). -/
def State.pent (s : State) (die dfn : Nat) : PEntry := AMap.get (s.die die).map dfn {}

/-- Writes both copies of a placement entry; a write leaves no flipped bit in them (R75). -/
def State.setPent (s : State) (die dfn : Nat) (e : PEntry) : State :=
  s.modDie die fun d => { d with map := AMap.set d.map dfn { e with bad0 := [], bad1 := [] } }

/-- The tier and frame where a block of a frame lies now: through the swap slot while moving (R82). -/
def State.place (s : State) (die dfn blk : Nat) : Nat × Nat :=
  let e := s.pent die dfn
  if e.state = 2 then
    match AMap.find? (s.die die).swaps e.slot with
    | none => (e.tier, e.loc)
    | some w =>
      if dfn = w.hot then if blk < w.p then (w.tierC, w.locC) else (w.tierH, w.locH)
      else if blk < w.p then (w.tierH, w.locH) else (w.tierC, w.locC)
  else (e.tier, e.loc)

/-- The host physical address of a block of a lent frame (R75). -/
def hostAddr (loc blk : Nat) : Nat := loc * 2 ^ 21 + blk * 2048

/-! ## Blocks at level D -/

/-- The bytes of a block, with free values for a stale one, zeros unless present (R53). -/
def Block.byte (b : Block) (off : Nat) : Byte :=
  match b.sb.state with
  | .present => match b.sb.stale with
    | some tag => Config.freeByte tag off
    | none => b.bytes.read off
  | _ => 0

/-- The block with its bytes written out, so that a part of it can be changed. -/
def Block.solid (b : Block) : Block :=
  match b.sb.state with
  | .present => match b.sb.stale with
    | some _ =>
      { sb := { b.sb with stale := none },
        bytes := Mem.writeBytes [] 0 ((List.range 2048).map b.byte) }
    | none => b
  | .poisoned => b
  | _ => { sb := { b.sb with stale := none }, bytes := [] }

/-- Writes bytes into a block: it becomes present, its other bytes keep their value or are zero, and
clean is 0 (R54, R190, R250). A poisoned block keeps its state. -/
def Block.write (b : Block) (off : Nat) (bs : List Byte) : Block :=
  match b.sb.state with
  | .poisoned => b
  | _ =>
    let b' := b.solid
    { sb := { b'.sb with state := .present, clean := false, touched := true },
      bytes := b'.bytes.writeBytes off bs }

/-- The first code that represents a line of words (R91). -/
def lineCode (ws : List Nat) : Nat :=
  let w0 := ws.headD 0
  let delta := fun (k : Nat) => ws.all fun w =>
    let d := (w + 2 ^ 32 - w0) % 2 ^ 32
    decide (d < 2 ^ (k - 1)) || decide (2 ^ 32 - 2 ^ (k - 1) ≤ d)
  if ws.all (· == 0) then 0 else if delta 8 then 1 else if delta 16 then 2 else 3

/-- The payload length of a line code (R91). -/
def codeLen (code : Nat) : Nat := match code with | 0 => 0 | 1 => 19 | 2 => 34 | _ => 64

/-- The payload length of a line. -/
def linePayload (ws : List Nat) : Nat := codeLen (lineCode ws)

/-- The words of line `i` of a block. -/
def lineWords (m : Mem) (i : Nat) : List Nat :=
  (List.range 16).map fun w => leNat (m.bytes (64 * i + 4 * w) 4)

/-- The compression size code of a block's bytes (R91). -/
def sizeCode (m : Mem) : BitVec 2 :=
  let t := (List.range 32).foldl (fun acc i => acc + linePayload (lineWords m i)) 8
  if t ≤ 512 then 1 else if t ≤ 1024 then 2 else if t ≤ 1536 then 3 else 0

/-! ## The stored form (R78, R91) -/

/-- The payload of a line under its code (R91). -/
def packLine (ws : List Nat) : List Byte :=
  let w0 := ws.headD 0
  let deltas := fun n => (ws.drop 1).flatMap fun w => leBytes n ((w + 2 ^ 32 - w0) % 2 ^ 32)
  match lineCode ws with
  | 0 => []
  | 1 => leBytes 4 w0 ++ deltas 1
  | 2 => leBytes 4 w0 ++ deltas 2
  | _ => ws.flatMap (leBytes 4)

/-- The stored form of a block: header, payloads and zero padding up to its size code's quarters, or the raw
bytes (R91). -/
def storedForm (m : Mem) : List Byte :=
  let k := (sizeCode m).toNat
  if k = 0 then m.bytes 0 2048
  else
    let ls := (List.range 32).map (lineWords m)
    let hdr := (List.range 32).foldl (fun acc i => acc + lineCode (ls.getD i []) * 4 ^ i) 0
    let bs := leBytes 8 hdr ++ ls.flatMap packLine
    bs ++ List.replicate (512 * k - bs.length) 0

/-- The bytes of a line from its code and payload (R91). -/
def unpackLine (code : Nat) (bs : List Byte) : List Byte :=
  let w0 := leNat (bs.take 4)
  let deltas := fun n => (List.range 15).flatMap fun i =>
    let d := leNat ((bs.drop (4 + n * i)).take n)
    leBytes 4 (w0 + (if d < 2 ^ (8 * n - 1) then d else d + 2 ^ 32 - 2 ^ (8 * n)))
  match code with
  | 0 => List.replicate 64 0
  | 1 => leBytes 4 w0 ++ deltas 1
  | 2 => leBytes 4 w0 ++ deltas 2
  | _ => bs.take 64

/-- The lines of a stored form from their codes; and the bytes behind the last payload. -/
def unpackLines (bs : List Byte) : List Nat → List Byte × List Byte
  | [] => ([], bs)
  | c :: cs => let r := unpackLines (bs.drop (codeLen c)) cs
    (unpackLine c (bs.take (codeLen c)) ++ r.1, r.2)

/-- The decoder: none where the stored form fails decoding (R91, R314). -/
def decodeForm (k : Nat) (bs : List Byte) : Option (List Byte) :=
  if k = 0 then some bs
  else
    let codes := (List.range 32).map fun i => leNat (bs.take 8) / 4 ^ i % 4
    if 512 * k < 8 + (codes.map codeLen).sum then none
    else
      let r := unpackLines ((bs.take (512 * k)).drop 8) codes
      if r.2.all (· == 0) then some r.1 else none

/-- The tweak of a data unit: the block's device-page-space address bits 40:11, times 4, plus the quarter (R78). -/
def tweakOf (dfn blk quarter : Nat) : Nat := (dfn * 1024 + blk) * 4 + quarter

/-- The data units of a stored form: the whole block, or each quarter of a compressed one (R78). -/
def dataUnits (k : Nat) (form : List Byte) : List (List Byte) :=
  if k = 0 then [form] else (List.range k).map fun q => (form.drop (512 * q)).take 512

/-- What the media of tiers N, C and F hold of a block of a frame under a key: AES-256-XTS over its data units
(R78; log entry 95). The state holds the plain bytes, with the key under which they were written. -/
def cipherForm (key dfn blk : Nat) (k : Nat) (form : List Byte) : List Byte :=
  ((dataUnits k form).zipIdx.flatMap fun u => Config.xts key (tweakOf dfn blk u.2) u.1)

/-- Whether the key slot of an index is live (R271). -/
def State.keyLive (s : State) (key : Nat) : Bool := (s.vi key).key == .live

/-- The key that an index names now: index and generation (R78, R272). -/
def State.keyId (s : State) (key : Nat) : Nat := 64 * (s.vi key).gen + key

/-- The side-band word of a block of level D, where clean, okind and origin are zero (R52). -/
def farSb : SideBand := { clean := false }
def State.sbAt (s : State) (n : Nat) : SideBand := AMap.get s.dsb n farSb

/-- The block at a place of level D as an access under a key index sees it (R53, R77, R272). One of tier H is always
present; the fields that a save carries into its area stay with it (R54; log entry 19). -/
def State.getBlkAt (s : State) (key die tier loc blk : Nat) : Block :=
  if tier = 3 then
    { sb := { s.sbAt (blkKey die 3 loc blk) with state := .present, size := 0, stale := none, gen := 0 },
      bytes := s.hmem.slice (hostAddr loc blk) 2048 }
  else
    let n := blkKey die tier loc blk
    let sb := s.sbAt n
    if sb.state = .present ∧ sb.gen ≠ s.keyId key then
      { sb := { sb with stale := some (n + 2 ^ 60 * s.keyId key) } }
    else { sb := sb, bytes := s.dmem.slice (n * 2048) 2048 }

/-- The block of a frame as an access sees it; zeros of a discarded frame (R86). -/
def State.getBlk (s : State) (key die dfn blk : Nat) : Block :=
  if (s.pent die dfn).state = 3 then { sb := farSb }
  else
    let (t, l) := s.place die dfn blk
    s.getBlkAt key die t l blk

/-- A write to a block of the media ends the errors of what it writes: the side-band word, and the data where
`full` (R314). -/
def State.healed (s : State) (n : Nat) (full : Bool) : State :=
  { s with mside := s.mside.filter (· != n),
           mhard := if full then s.mhard.filter (· != n) else s.mhard,
           mflips := if full then s.mflips.filter (· != n) else s.mflips }

/-- Media counters of a die: the reads, side-band writes and data writes of trades and of the Affineur (R59, R83,
R86). -/
def State.cost (s : State) (die r b w : Nat) : State :=
  s.modDie die fun d => { d with reads := d.reads + r, sbWr := d.sbWr + b, datWr := d.datWr + w }

/-- Writes of the device into host memory: until the host accepts them, host agents still read the bytes from
before (R94, R345). -/
def State.awaitHost (s : State) (addr n : Nat) : State := { s with unacc := s.unacc ++ [(addr, s.hmem.bytes addr n)] }

/-- Host memory as host agents read it (R94). -/
def State.hostMem (s : State) : Mem := s.unacc.foldr (fun w m => m.writeBytes w.1 w.2) s.hmem

/-- The bytes of a run after a write of others. -/
def overlay (w : Nat × List Byte) (addr : Nat) (bs : List Byte) : Nat × List Byte :=
  (w.1, (List.range w.2.length).map fun i =>
    if addr ≤ w.1 + i ∧ w.1 + i < addr + bs.length then bs.getD (w.1 + i - addr) 0 else w.2.getD i 0)

/-- A write of a host agent into host memory, which host agents see at once. -/
def State.hostStore (s : State) (addr : Nat) (bs : List Byte) : State :=
  { s with hmem := s.hmem.writeBytes addr bs, unacc := s.unacc.map fun w => overlay w addr bs }

/-- The writes that the host may accept next: those to bytes that no older one writes (R94). -/
def State.acceptable (s : State) : List Nat :=
  (List.range s.unacc.length).filter fun i => (s.unacc.take i).all fun w =>
    match s.unacc[i]? with
    | some v => decide (w.1 + w.2.length ≤ v.1) || decide (v.1 + v.2.length ≤ w.1)
    | none => true

/-- Stores a block at a place. At level D clean, okind and origin are zero unless the trades of a save
keep them (R52, R54); compressed tiers get their size code (R91); a block that is not present keeps
the stale bytes of the media under it. What is written ends the errors of the media under it (R314). -/
def State.putBlkAt (s : State) (key die tier loc blk : Nat) (keep : Bool) (b : Block) : State :=
  let n := blkKey die tier loc blk
  if tier = 3 then
    let z := if b.sb.state = .present then b.solid.bytes else []
    let sb := { b.sb with state := .empty, size := 0, stale := none, gen := 0 }
    let sb := if keep then sb else { sb with clean := false, okind := 0, origin := 0 }
    { s.awaitHost (hostAddr loc blk) 2048 with
        hmem := s.hmem.paste (hostAddr loc blk) 2048 z, dsb := AMap.set s.dsb n sb }
  else
    let s := s.healed n (b.sb.state == .present)
    let sb0 := if keep then b.sb else { b.sb with clean := false, okind := 0, origin := 0 }
    let size := if tier < 2 ∧ b.sb.state = .present ∧ b.sb.stale = none then sizeCode b.bytes else 0
    let sb := { sb0 with size := size, gen := s.keyId key }
    if b.sb.state = .present then
      { s with dsb := AMap.set s.dsb n sb, dmem := s.dmem.paste (n * 2048) 2048 b.bytes }
    else { s with dsb := AMap.set s.dsb n sb }

/-- Every block of a frame's location becomes empty (R86). -/
def State.clearFrame (s : State) (die tier loc : Nat) : State :=
  let lo := blkKey die tier loc 0
  let away := fun n : Nat => !(decide (lo ≤ n) && decide (n < lo + 1024))
  { s with dsb := s.dsb.filter fun e => away e.1, mside := s.mside.filter away }

/-- Stores a block of a frame. A block that is not empty brings a discarded frame back: it is stable at
once with its counter at zero, the other blocks are empty, and a sweep is due (R79, R86). -/
def State.putBlk (s : State) (key die dfn blk : Nat) (keep : Bool) (b : Block) : State :=
  let e := s.pent die dfn
  if e.state = 3 then
    if b.sb.state = .empty then s
    else
      let s1 := (s.clearFrame die e.tier e.loc).modDie die fun d => { d with hot := AMap.set d.hot dfn 0 }
      let s2 := s1.setPent die dfn { e with state := 1, revive := true, again := true }
      s2.putBlkAt key die e.tier e.loc blk keep b
  else
    let (t, l) := s.place die dfn blk
    s.putBlkAt key die t l blk keep b

/-! ## Monitors (R103) -/

/-- Fires the armed monitors on words of a range of device page space. -/
def fireMon (die lo n : Nat) (x : Ctx) : Ctx :=
  match x.mon with
  | .armed a => if die * 2 ^ 41 + lo ≤ a ∧ a < die * 2 ^ 41 + lo + n then { x with mon := .fired } else x
  | _ => x

def State.fire (s : State) (die lo n : Nat) : State :=
  { s with cores := s.cores.map fun kc =>
      (kc.1, { kc.2 with ctxs := kc.2.ctxs.map fun jx => (jx.1, fireMon die lo n jx.2) }) }

/-- The device-page-space address of a block (R74). -/
def dpsOf (dfn blk : Nat) : Nat := dfn * 2 ^ 21 + blk * 2048

/-- A write of bytes to a block of level D: the value, the revival of a discarded frame, the write in
flight (R57) and the monitors (R103). -/
def State.writeD (s : State) (key die dfn blk off : Nat) (bs : List Byte) : State :=
  let b := (s.getBlk key die dfn blk).write off bs
  (s.putBlk key die dfn blk false b).fire die (dpsOf dfn blk + off / 8 * 8)
    ((off % 8 + bs.length + 7) / 8 * 8)

/-! ## Translation (R71 to R75) -/

/-- Why an address does not translate, with the codes of R258. -/
inductive XFail where
  /-- invalid, malformed or unmapped -/
  | unmapped
  | notWritable
  | hostOwned
  | framePoisoned
deriving DecidableEq, Repr

/-- A translated block: page ordering kind, key index, frame and block (R72, R74). -/
structure Phys where
  die   : Nat
  dfn   : Nat
  blk   : Nat
  off   : Nat
  kind  : Nat
  key   : Nat
deriving DecidableEq, Repr

/-- A word of device page space, as the walker reads it. -/
def State.dpsWord (s : State) (die addr : Nat) : Option W64 :=
  let dfn := addr / 2 ^ 21
  let e := s.pent die dfn
  if e.state = 0 ∨ e.state = 4 ∨ 5 ≤ e.state then none
  else
    let blk := addr / 2048 % 1024
    let (t, l) := s.place die dfn blk
    let n := blkKey die t l blk
    let b := if e.state = 3 then {} else
      if t = 3 then s.getBlkAt 0 die t l blk
      else { sb := s.sbAt n, bytes := s.dmem.slice (n * 2048) 2048 : Block }
    if b.sb.state = .poisoned then none
    else some (BitVec.ofNat 64 (leNat ((List.range 8).map fun i => b.byte (addr % 2048 + i))))

/-- The page size of a leaf at a level, in 64 KiB units (R71). -/
def leafUnits (level : Nat) : Nat := match level with | 0 => 1 | 1 => 32 | _ => 16384

/-- Whether a page-table entry is malformed (R72). -/
def malformed (vi level : Nat) (w : W64) : Bool :=
  if w.getLsbD 1 then
    bitsOf w 14 2 ≠ 0 || bitsOf w 41 23 ≠ 0 || bitsOf w 2 2 = 3 || level = 3 ||
      bitsOf w 16 25 % leafUnits level ≠ 0 || (vi ≠ 0 && bitsOf w 8 6 ≠ vi)
  else bitsOf w 41 23 ≠ 0 || bitsOf w 2 6 ≠ 0 || level = 0

/-- The index of an address at a level (R71). -/
def tableIndex (addr level : Nat) : Nat :=
  match level with
  | 3 => addr / 2 ^ 39 % 2048
  | 2 => addr / 2 ^ 30 % 512
  | 1 => addr / 2 ^ 21 % 512
  | _ => addr / 2 ^ 16 % 32

/-- The size to which a table must be aligned (R71). -/
def tableSize (level : Nat) : Nat := match level with | 3 => 16384 | 0 => 256 | _ => 4096

/-- One level of the walk: the leaf, or the next table (R71, R72). A table off its own alignment does not translate
(log entry 109). -/
def State.walkAt (s : State) (vi die addr level tab : Nat) (next : Nat → Option (W64 × Nat)) :
    Option (W64 × Nat) :=
  if tab % tableSize level ≠ 0 then none
  else match s.dpsWord die (tab + 8 * tableIndex addr level) with
    | none => none
    | some w =>
      if !w.getLsbD 0 || malformed vi level w then none
      else if w.getLsbD 1 then some (w, level)
      else next (bitsOf w 8 33 * 256)

/-- The walk from a table at a level: the leaf and its level (R71, R72). -/
def State.walk (s : State) (vi die addr : Nat) : Nat → Nat → Option (W64 × Nat)
  | 0, tab => s.walkAt vi die addr 0 tab fun _ => none
  | l + 1, tab => s.walkAt vi die addr (l + 1) tab fun t => State.walk s vi die addr l t

/-- The TLB entry that covers an address (R73). -/
def State.tlbFind (s : State) (vi addr : Nat) : Option TlbEnt :=
  let u := addr % 2 ^ 50 / 2 ^ 16
  (s.die (dieOf addr)).tlb.find? fun e => e.vi == vi && decide (e.unit ≤ u) && decide (u < e.unit + e.n)

/-- The leaf of an address of 52 bits (R4): from the TLB, or by a walk (R71, R73). -/
def State.leafOf (s : State) (vi addr : Nat) : Option TlbEnt :=
  if 2 ^ 52 ≤ addr then none
  else match s.tlbFind vi addr with
  | some e => some e
  | none =>
    let die := dieOf addr
    let root := AMap.get (s.vi vi).root die 0
    if !root.getLsbD 0 then none
    else
      match s.walk vi die addr 3 (bitsOf root 14 27 * 2 ^ 14) with
      | none => none
      | some (w, level) =>
        let n := leafUnits level
        some { vi := vi, unit := addr % 2 ^ 50 / 2 ^ 16 / n * n, n := n, leaf := w }

/-- Both steps of the translation of an access (R71 to R75, R87, R271). -/
def State.translate (s : State) (vi addr : Nat) (write : Bool) : Except XFail Phys :=
  match s.leafOf vi addr with
  | none => .error .unmapped
  | some e =>
    let die := dieOf addr
    let dps := (bitsOf e.leaf 16 25 + (addr % 2 ^ 50 / 2 ^ 16 - e.unit)) * 2 ^ 16 + addr % 2 ^ 16
    let dfn := dps / 2 ^ 21 % 2 ^ 20
    let p := s.pent die dfn
    if p.state = 0 ∨ 5 ≤ p.state ∨ !s.keyLive (bitsOf e.leaf 8 6) then .error .unmapped
    else if write ∧ !e.leaf.getLsbD 5 then .error .notWritable
    else if e.leaf.getLsbD 4 then .error .hostOwned
    else if p.state = 4 then .error .framePoisoned
    else .ok { die := die, dfn := dfn, blk := dps / 2048 % 1024, off := dps % 2048,
               kind := bitsOf e.leaf 2 2, key := bitsOf e.leaf 8 6 }

/-- The parts of a range, each within one 64 KiB unit: their first addresses (R71, R258). -/
def unitsOf (a n : Nat) : List Nat :=
  if n = 0 then [] else a :: (List.range ((a + n - 1) / 65536 - a / 65536)).map fun i => (a / 65536 + 1 + i) * 65536

/-- The entries of a die's TLB (R5, R73). -/
def tlbSize : Nat := 262144

/-- The TLB after an access: the leaf is cached, its pin is copied into an empty hint of the frame that is accessed
(R84; log entry 104), and the device may evict an entry (R73; a free value); a full TLB drops its oldest. -/
def State.fillTlb (s : State) (vi addr : Nat) : State :=
  match s.tlbFind vi addr with
  | some e =>
    if Config.freeBit s.free 1 then
      (s.modDie (dieOf addr) fun d => { d with tlb := d.tlb.filter (· != e) }).fresh
    else s.fresh
  | none =>
    match s.leafOf vi addr with
    | none => s
    | some e =>
      let die := dieOf addr
      let s1 := s.modDie die fun d => { d with tlb := (e :: d.tlb).take tlbSize }
      let dfn := (bitsOf e.leaf 16 25 + (addr % 2 ^ 50 / 2 ^ 16 - e.unit)) / 32 % 2 ^ 20
      let p := s1.pent die dfn
      if p.hint = 0 ∧ bitsOf e.leaf 6 2 ≠ 0 then
        s1.setPent die dfn { p with hint := bitsOf e.leaf 6 2 }
      else s1

/-- Adds to the hotness counter of a frame (R79). -/
def State.heat (s : State) (die dfn : Nat) : State :=
  s.modDie die fun d => { d with hot := AMap.set d.hot dfn (min 255 (AMap.get d.hot dfn 0 + 1)) }

/-! ## Reading device memory as an interface does -/

/-- A byte of level D as an interface reads it; none where it does not translate or is poisoned. -/
def State.readByte (s : State) (vi addr : Nat) : Option Byte :=
  match s.translate vi addr false with
  | .error _ => none
  | .ok p =>
    let b := s.getBlk p.key p.die p.dfn p.blk
    if b.sb.state = .poisoned then none else some (b.byte p.off)

/-- `n` bytes within one block. -/
def State.readD (s : State) (vi addr n : Nat) : Option (List Byte) :=
  match s.translate vi addr false with
  | .error _ => none
  | .ok p =>
    let b := s.getBlk p.key p.die p.dfn p.blk
    if b.sb.state = .poisoned then none
    else some ((List.range n).map fun i => b.byte (p.off + i))

/-- The bytes of `n` aligned 64-byte lines. -/
def State.readLines (s : State) (vi addr : Nat) : Nat → Option (List Byte)
  | 0 => some []
  | n + 1 =>
    match s.readD vi addr 64, State.readLines s vi (addr + 64) n with
    | some a, some b => some (a ++ b)
    | _, _ => none

/-- A word read by an interface. -/
def State.readWord (s : State) (vi addr : Nat) : Option W64 :=
  (s.readD vi addr 8).map fun bs => BitVec.ofNat 64 (leNat bs)

/-- Writes bytes within one block for an interface; nothing where it cannot. -/
def State.writeVi (s : State) (vi addr : Nat) (bs : List Byte) : State :=
  match s.translate vi addr true with
  | .error _ => s
  | .ok p =>
    if (s.getBlk p.key p.die p.dfn p.blk).sb.state = .poisoned then s
    else s.writeD p.key p.die p.dfn p.blk p.off bs

/-! ## Report queues (R266) -/

/-- The bytes of words. -/
def wordBytes (ws : List W64) : List Byte := ws.flatMap fun w => leBytes 8 w.toNat

/-- The size of a record of a queue (R266). -/
def recordSize (q : Nat) : Nat := if q = 1 then 256 else 32

def State.queue (s : State) (vi q : Nat) : Queue := AMap.get (s.vi vi).queues q {}
def State.setQueue (s : State) (vi q : Nat) (x : Queue) : State :=
  s.modVi vi fun v => { v with queues := AMap.set v.queues q x }

/-- Whether a queue has no space for a record. -/
def Queue.full (x : Queue) : Bool := decide (2 ^ x.lg ≤ (x.tail + 2 ^ x.lg - x.head) % 2 ^ x.lg + 1)

/-- Writes bytes that may cross blocks, a line of 64 bytes at a time, from the start of a line or within one. -/
def State.writeLines (s : State) (vi addr : Nat) (bs : List Byte) : State :=
  (List.range ((bs.length + 63) / 64)).foldl (fun s i => s.writeVi vi (addr + 64 * i) ((bs.drop (64 * i)).take 64)) s

/-- The bytes of a record placed where the queue's tail points. -/
def State.placeRecord (s : State) (vi q : Nat) (x : Queue) (ws : List W64) : State :=
  let size := recordSize q
  let bs := (wordBytes ws ++ List.replicate size 0).take size
  let addr := bitsOf x.base 6 58 * 64 + x.tail * size
  let s1 := if x.base.getLsbD 0 then { s.awaitHost addr size with hmem := s.hmem.writeBytes addr bs }
    else s.writeLines vi addr bs
  s1.setQueue vi q { x with tail := (x.tail + 1) % 2 ^ x.lg,
                            raised := x.raised + (if x.irq ∧ x.tail = x.head then 1 else 0) }

/-- Writes a record. A full error queue drops it and counts the loss; a completion or event record
waits (R266). A queue that is not enabled drops it (log entry 7). -/
def State.record (s : State) (vi q : Nat) (ws : List W64) : State :=
  let x := s.queue vi q
  if !x.en then s
  else if x.full then
    if q = 1 then s.setQueue vi q { x with lost := min 65535 (x.lost + 1) }
    else s.setQueue vi q { x with waiting := x.waiting ++ [ws] }
  else s.placeRecord vi q x ws

/-- Whether the register views answer: the host link is open (R334). -/
def State.linkUp (s : State) : Bool := s.stage == 2

/-- Word w0 of a record (R266). -/
def recW0 (kind code stream : Nat) (tag : W32) : W64 :=
  BitVec.ofNat 64 (kind + code * 256 + stream * 65536) ||| (tag.zeroExtend 64 <<< 32)

/-- A fault report of R310 or R325: subtype, code, die and words w2 to w4, to the listed interfaces. -/
def State.fault (s : State) (vis : List Nat) (sub code die : Nat) (w2 w3 w4 : W64) : State :=
  vis.eraseDups.foldl (fun s v => s.record v 1
    [recW0 4 code 0 0, BitVec.ofNat 64 (sub + die * 256), w2, w3, w4]) s

/-- A completion record (R14, R266). -/
def State.complete (s : State) (vi stream : Nat) (tag : W32) (notify : Bool) : State :=
  if notify then s.record vi 0 [recW0 1 0 stream tag] else s

/-- A command that was dispatched completes (R14, R266). -/
def State.doneCmd (s : State) (vi st : Nat) (tag : W32) (notify : Bool) : State :=
  (s.modVi vi fun v =>
    { v with streams := AMap.upd v.streams st {} fun x => { x with open_ := x.open_ - 1 } }).complete vi st tag notify

/-- An event record: an acquire request (5) or a release that is done (6), under the interface's next sequence
number. What its other words hold, no rule says: free values (R87, R266; log entry 83). -/
def State.event (s : State) (vi kind : Nat) : State :=
  let w0 := recW0 kind 0 0 (BitVec.ofNat 32 (s.vi vi).evSeq)
  ((s.modVi vi fun v => { v with evSeq := (v.evSeq + 1) % 2 ^ 32 }).record vi 2
    (w0 :: (List.range 3).map fun i => BitVec.ofNat 64 (Config.freeNat s.free (200 + i)))).fresh

/-- A refusal record (R16, R266). -/
def State.refuse (s : State) (vi stream code : Nat) (tag : W32) (w1 : W64) : State :=
  s.record vi 1 [recW0 2 code stream tag, w1]

end Sys2Proof.Machine
end

