-- ==== Sys2Proof/Machine/Ops.lean ====
section
/-!
DEFINITION. The named operations of a core: the scratchpad and its blocks, register files and results
in flight, fetching, taking an exception and returning from one, releasing a context, and issuing a
bundle.
-/

namespace Sys2Proof.Machine

/-! ## Scratchpad (R50, R41) -/

/-- The end of the scratchpad map (R50). -/
def spEnd : Nat := 0x140000

/-- The address in the array of a scratchpad address: the visible copy of a window granule (R41). -/
def Core.phys (c : Core) (a : Nat) : Nat :=
  if a < 0x100000 then a
  else if (a - 0x100000) / 64 ∈ c.sel then a + 0x40000 else a

/-- The side-band word of a slot (R52). -/
def Core.slotSb (c : Core) (slot : Nat) : SideBand := AMap.get c.sb slot {}

/-- The bytes of a slot: 32 granules, each from its visible copy. -/
def Core.slotBytes (c : Core) (slot : Nat) : Mem :=
  if slot < 512 then c.sp.slice (slot * 2048) 2048
  else (List.range 32).foldl (fun m g =>
    m.paste (64 * g) 64 (c.sp.slice (c.phys (slot * 2048 + 64 * g)) 64)) []

/-- The block in a slot (R3). -/
def Core.getSlot (c : Core) (slot : Nat) : Block :=
  { sb := c.slotSb slot, bytes := c.slotBytes slot }

/-- Puts a block into a slot, granule by granule for a window slot (R55). A block that is not present
leaves bytes under it that only the raw port can read: a free value (log entry 8). -/
def Core.putSlot (c : Core) (slot : Nat) (b : Block) : Core :=
  let sp :=
    if slot < 512 then c.sp.paste (slot * 2048) 2048 b.bytes
    else (List.range 32).foldl (fun m g =>
      m.paste (c.phys (slot * 2048 + 64 * g)) 64 (b.bytes.slice (64 * g) 64)) c.sp
  { c with sp := sp, sb := AMap.set c.sb slot b.sb }

/-- The byte that an access reads at an address in range (R53). -/
def Core.spByte (c : Core) (a : Nat) : Byte :=
  let sb := c.slotSb (a / 2048)
  match sb.state with
  | .present => match sb.stale with
    | some tag => Config.freeByte tag (a % 2048)
    | none => c.sp.read (c.phys a)
  | _ => 0

/-- Writes bytes that lie in one block (R54, R190). -/
def Core.spWrite (c : Core) (a : Nat) (bs : List Byte) : Core :=
  let slot := a / 2048
  let sb := c.slotSb slot
  if sb.state = .present ∧ sb.stale = none then
    let sp := (List.range bs.length).foldl
      (fun m i => m.write (c.phys (a + i)) (bs.getD i 0)) c.sp
    { c with sp := sp, sb := AMap.set c.sb slot { sb with clean := false, touched := true } }
  else c.putSlot slot ((c.getSlot slot).write (a % 2048) bs)

/-- Whether a slot holds a poisoned block. -/
def Core.poisoned (c : Core) (slot : Nat) : Bool := (c.slotSb slot).state == .poisoned

/-- Whether guard granules apply: normal service (R70). -/
def Core.normal (c : Core) : Bool := c.smode == 0

/-- Whether a slot is the guard slot of a ring (R64). -/
def Core.isGuardSlot (c : Core) (slot : Nat) : Bool :=
  c.normal && c.rings.any fun r => r.2.cfg && r.2.guard && (r.2.base + r.2.len == slot)

/-- Whether an access at an address is out of range or touches a guard granule (R70, R189). -/
def Core.offLimits (c : Core) (a : Nat) : Bool := decide (spEnd ≤ a) || c.isGuardSlot (a / 2048)

/-- Two classes assert independence (R97). -/
def indep (a b : Nat) : Bool := a ≠ 0 && b ≠ 0 && a ≠ b

/-- Whether a store writes a byte. -/
def Store.has (st : Store) (a : Nat) : Bool := decide (st.addr ≤ a) && decide (a < st.addr + st.data.length)

/-- Which stores of a context that have not committed, oldest first, a load of a class comes after: every one that it
is ordered after, of the independent ones a free choice, and with each what is ordered before it (R95, R97, R344; log
entry 9). -/
def markSeen (cls free : Nat) : Nat → List Store → List (Store × Bool)
  | _, [] => []
  | i, st :: sts =>
    let vs := markSeen cls free (i + 1) sts
    (st, !indep cls st.cls || !Config.freeBit free i || vs.any fun v => v.2 && !indep st.cls v.1.cls) :: vs

/-- The stores of a context that have not committed, and whether a load of a class comes after them. -/
def Core.seenStores (c : Core) (j cls free : Nat) : List (Store × Bool) :=
  markSeen cls free 0 (c.stq.filter (·.ctx == j))

/-- The byte at an address with the context's own stores that a load comes after laid over it (R95, R97). -/
def Core.ldByte (c : Core) (j cls free a : Nat) : Byte :=
  (c.seenStores j cls free).foldl (fun v p => if p.2 && p.1.has a then p.1.data.getD (a - p.1.addr) 0 else v) (c.spByte a)

def Core.ldBytes (c : Core) (j cls free a n : Nat) : List Byte :=
  (List.range n).map fun i => if c.offLimits (a + i) then 0 else c.ldByte j cls free (a + i)

/-! ## Stored bits (R293) -/

/-- The address in `Core.sp` of a row of arrays 0 and 1. -/
def rowAddr (array row : Nat) : Nat := if array = 0 then row * 8 else 0x100000 + row * 8

/-- The slot whose visible copy a row of arrays 0 and 1 belongs to; none for the other copy. -/
def Core.rowSlot (c : Core) (array row : Nat) : Option Nat :=
  if array = 0 then some (row / 256)
  else
    let a := 0x100000 + row % 32768 * 8
    if c.phys a = rowAddr array row then some (a / 2048) else none

/-- The stored bytes of a row of the scratchpad arrays; free values under a stale block (log entry 8). -/
def Core.rawSp (c : Core) (array row : Nat) : Nat :=
  let a := rowAddr array row
  match (c.rowSlot array row).bind fun sl => (c.slotSb sl).stale.map fun tag => (sl, tag) with
  | some (_, tag) => leNat ((List.range 8).map fun i => Config.freeByte tag (a % 2048 + i))
  | none => leNat (c.sp.bytes a 8)

/-- The instruction scratchpad with the stores that committed before a cycle (R196, R338). -/
def Core.imemNow (c : Core) (now : Nat) : Mem :=
  (c.iq.filter fun st => st.fenced || decide (st.t + 2 < now)).foldl (fun m st => m.writeBytes st.addr st.data) c.imem

/-- The contents of a row of arrays 0 to 3 and 5 of repair.idx, without errors (R338). -/
def Core.content (c : Core) (now array row : Nat) : W64 :=
  BitVec.ofNat 64 (match array with
    | 0 => c.rawSp 0 row
    | 1 => c.rawSp 1 row
    | 2 => ((AMap.get c.va (row / 16) 0).extractLsb' (64 * (row % 16)) 64).toNat
    | 3 => ((AMap.get c.vb (row / 16) 0).extractLsb' (64 * (row % 16)) 64).toNat
    | _ => leNat ((c.imemNow now).bytes (row * 8) 8))

/-- The bit of a row that test.inject forces, and its value (R340). -/
def Core.stuck (c : Core) (array row : Nat) : Option (Nat × Bool) :=
  let t := c.inject
  if t.getLsbD 0 ∧ bitsOf t 28 3 = array ∧ bitsOf t 8 20 = row ∧ (array < 4 ∨ array = 5) then
    some (bitsOf t 2 6, t.getLsbD 1)
  else none

/-- The bits in error of a 64-bit row as it is read: those that have flipped, and the injected one where it
differs from the contents (R293, R340). -/
def Core.rowErrs (c : Core) (array row : Nat) : List Nat :=
  let fs := (c.flips.filter fun f => f.array == array && f.row == row).map (·.bit)
  match c.stuck array row with
  | none => fs
  | some (bit, val) =>
    fs.filter (· != bit) ++ if (c.content (2 ^ 64) array row).getLsbD bit = val then [] else [bit]

/-- The number of bits in error of a 64-bit row. -/
def Core.rowFlips (c : Core) (array row : Nat) : Nat := (c.rowErrs array row).length

/-- Reading a row corrects a single error and counts it (R293, R340). -/
def Core.scrub (c : Core) (array row : Nat) : Core :=
  if c.rowFlips array row = 1 then
    { c with flips := c.flips.filter fun f => !(f.array == array && f.row == row),
             fixed := c.fixed + 1 }
  else c

/-- A full write of a row clears its errors (R293). -/
def Core.fresh (c : Core) (array row : Nat) : Core :=
  { c with flips := c.flips.filter fun f => !(f.array == array && f.row == row) }

/-- Full writes of rows (array, row) clear their errors (R293). -/
def Core.freshRows (c : Core) (rows : List (Nat × Nat)) : Core :=
  { c with flips := c.flips.filter fun f => !rows.contains (f.array, f.row) }

/-- The array and row of an address in range. -/
def Core.spRow (c : Core) (a : Nat) : Nat × Nat :=
  if a < 0x100000 then (0, a / 8)
  else (1, (c.phys a - 0x100000) / 8)

/-- The rows of an access. -/
def Core.spRows (c : Core) (a n : Nat) : List (Nat × Nat) :=
  if c.offLimits a then []
  else (List.range ((a % 8 + n + 7) / 8)).map fun i => c.spRow (a / 8 * 8 + 8 * i)

/-- A row that an instruction reads: array, row, and the register as info1 of a 0x09 names it (R289). -/
abbrev RowRef := Nat × Nat × Nat

/-- The array of the operand files, latches and holds of a vector slot (MODEL number). -/
def operArray (u : VUnit) : Nat := match u with | .va => 8 | .vb => 9

/-- The file code of R289. -/
def fileCode (u : VUnit) : Nat := match u with | .va => 2 | .vb => 3

/-- The row of an s-register or a-register. -/
def sRow (j n : Nat) : RowRef := (6, j * 64 + n, n)
def aRow (j n : Nat) : RowRef := (7, j * 32 + n, n + 1024)

/-- The rows of a vector operand code: 16 words of a physical entry, operand register or latch. -/
def vecRows (x : Ctx) (j : Nat) (u : VUnit) (code : Nat) : List RowRef :=
  let map := match u with | .va => x.vaMap | .vb => x.vbMap
  let info := code + fileCode u * 1024
  if code < 768 then
    (List.range 16).map fun w => (fileCode u, (map.getD (code / 64) 0 * 64 + code % 64) * 16 + w, info)
  else if code < 802 then
    (List.range 16).map fun w => (operArray u, (j * 64 + (code - 768)) * 16 + w, info)
  else []

/-- The rows of the hold register of position 1, 2 or 3 (R129). -/
def holdRows (j : Nat) (u : VUnit) (pos : Nat) : List RowRef :=
  (List.range 16).map fun w => (operArray u, (j * 64 + 33 + pos) * 16 + w, 1023 + fileCode u * 1024)

/-- The row of a mask register, its number as its code (R293; the number is the model's, log entry 33). -/
def kRow (j : Nat) (u : VUnit) (k : Nat) : RowRef :=
  (12, j * 16 + (match u with | .va => 0 | .vb => 8) + k, k + fileCode u * 1024)

/-- The rows of an edge latch, of the A or the B side (R228, R293). -/
def edgeRows (j : Nat) (b : Bool) : List (Nat × Nat) :=
  (List.range 16).map fun w => (11, j * 32 + (if b then 16 else 0) + w)

/-! ## Register files -/

def Ctx.rdS (x : Ctx) (n : Nat) : W64 := AMap.get x.s n 0
def Ctx.rdA (x : Ctx) (n : Nat) : W64 := if n = 0 then 0 else AMap.get x.a n 0
def Ctx.wrS (x : Ctx) (n : Nat) (v : W64) : Ctx := { x with s := AMap.set x.s n v }
/-- a0 ignores writes (R124). -/
def Ctx.wrA (x : Ctx) (n : Nat) (v : W64) : Ctx :=
  if n = 0 then x else { x with a := AMap.set x.a n v }

/-- An a-register as an instruction other than an LD or ST reads it: before t + L of a result in flight either
the old value or the new one (R131; a free value). -/
def Ctx.softA (x : Ctx) (free n : Nat) : W64 :=
  match x.pend.find? fun p => p.dest == .areg n && !p.done with
  | some p => if n ≠ 0 ∧ Config.freeBit free 7 then p.val.extractLsb' 0 64 else x.rdA n
  | none => x.rdA n

/-- A mask register; mask 0 reads as all lanes (R124, R208). -/
def Ctx.rdK (x : Ctx) (u : VUnit) (k : Nat) : W32 :=
  if k = 0 then BitVec.allOnes 32
  else match u with | .va => AMap.get x.ka k 0 | .vb => AMap.get x.kb k 0

def Ctx.wrK (x : Ctx) (u : VUnit) (k : Nat) (v : W32) : Ctx :=
  match u with
  | .va => { x with ka := AMap.set x.ka k v }
  | .vb => { x with kb := AMap.set x.kb k v }

/-- The bank map of a file (R140). -/
def Ctx.vMap (x : Ctx) (u : VUnit) : List Nat := match u with | .va => x.vaMap | .vb => x.vbMap

/-- The physical entry of a main-file register (R140). -/
def Ctx.entry (x : Ctx) (u : VUnit) (r : Nat) : Nat := (x.vMap u).getD (r / 64) 0 * 64 + r % 64

/-- A main-file or operand-file register (R127). -/
def Core.rdV (c : Core) (j : Nat) (u : VUnit) (code : Nat) : VReg :=
  let x := c.ctx j
  if code < 768 then
    match u with
    | .va => AMap.get c.va (x.entry u code) 0
    | .vb => AMap.get c.vb (x.entry u code) 0
  else match u with
    | .va => AMap.get x.oa (code - 768) 0
    | .vb => AMap.get x.ob (code - 768) 0

/-- Writes the lanes of a register (R199). -/
def Core.wrV (c : Core) (j : Nat) (u : VUnit) (code : Nat) (lanes : BitVec 32) (v : VReg) : Core :=
  let x := c.ctx j
  let w := blend lanes v (c.rdV j u code)
  if code < 768 then
    match u with
    | .va => { c with va := AMap.set c.va (x.entry u code) w }
    | .vb => { c with vb := AMap.set c.vb (x.entry u code) w }
  else match u with
    | .va => c.setCtx j { x with oa := AMap.set x.oa (code - 768) w }
    | .vb => c.setCtx j { x with ob := AMap.set x.ob (code - 768) w }

/-- Errors in the 8-byte words of a register that the lanes write whole are cleared (R293). -/
def Core.freshV (c : Core) (j : Nat) (u : VUnit) (code : Nat) (lanes : BitVec 32) : Core :=
  if c.flips = [] then c
  else
    let rows := vecRows (c.ctx j) j u code
    (List.range 16).foldl (fun c w =>
      if lanes.getLsbD (2 * w) && lanes.getLsbD (2 * w + 1) then
        match rows[w]? with
        | some r => c.fresh r.1 r.2.1
        | none => c
      else c) c

/-- Writes a destination (R131). -/
def Core.wrDest (c : Core) (j : Nat) (d : Dest) (lanes : BitVec 32) (v : VReg) : Core :=
  match d with
  | .sreg n => (c.setCtx j ((c.ctx j).wrS n (v.extractLsb' 0 64))).fresh 6 (j * 64 + n)
  | .areg n => (c.setCtx j ((c.ctx j).wrA n (v.extractLsb' 0 64))).fresh 7 (j * 32 + n)
  | .vreg u code => (c.wrV j u code lanes v).freshV j u code lanes
  | .vmask u k => (c.setCtx j ((c.ctx j).wrK u k (v.extractLsb' 0 32))).fresh 12 (kRow j u k).2.1

/-- Takes the lanes of a delivered result out of the results it supersedes: those of the same
destination with an earlier t + L, or an equal one and an earlier issue (R131). -/
def supersede (p : Pend) (ps : List Pend) : List Pend :=
  ps.filterMap fun q =>
    if q.dest = p.dest ∧ (q.due < p.due ∨ (q.due = p.due ∧ q.ord < p.ord)) then
      let l := q.lanes &&& ~~~p.lanes
      if l = 0 then none else some { q with lanes := l }
    else some q

/-- Delivers one result in a cycle (R131); one that has been delivered, or that others replace, leaves the list. -/
def Core.deliver (c : Core) (j now : Nat) (p : Pend) : Core :=
  let ps := (c.ctx j).pend.filter (· != p)
  if p.done ∨ p.lanes = 0 then c.setCtx j { c.ctx j with pend := ps }
  else
    let c1 := c.wrDest j p.dest p.lanes p.val
    let left := if now < p.due then [{ p with done := true, at_ := p.due }] else []
    c1.setCtx j { c1.ctx j with pend := supersede p ps ++ left }

/-- The lanes of a new result that no result delivered already takes precedence over (R131). -/
def lanesLeft (ps : List Pend) (d : Dest) (due : Nat) (lanes : BitVec 32) : BitVec 32 :=
  ps.foldl (fun l q => if q.done ∧ q.dest = d ∧ due < q.due then l &&& ~~~q.lanes else l) lanes

/-- All 32 lanes; scalar results use them. -/
def allLanes : BitVec 32 := BitVec.allOnes 32

/-- The cycle in which a result of latency `lat` issued in cycle `now` is delivered: between t + 1 and t + L
(R131; a free value, log entry 3). An s.toa is delivered at t + 2, since an LD or ST of bundle t + 1 reads the
old address (R174). -/
def landing (now free : Nat) (d : Dest) (lat hb : Nat) : Nat :=
  match d with
  | .areg _ => if lat = 2 then now + 2 else now + 1 + Config.early free hb % lat
  | _ => now + 1 + Config.early free hb % lat

/-- Issues a result of latency `lat` in cycle `now`: a result of latency 1 is delivered at once, since
no bundle can read before t + 1; a longer one is delivered between t + 1 and t + L (`landing`). -/
def Core.result (c : Core) (now free j : Nat) (d : Dest) (lanes : BitVec 32) (v : VReg) (lat hb : Nat) :
    Core :=
  let p : Pend := { dest := d, val := v, lanes := lanesLeft (c.ctx j).pend d (now + lat) lanes, due := now + lat,
                    at_ := landing now free d lat hb, ord := c.ord * 16 + hb }
  if lat ≤ 1 then c.deliver j p.due p
  else c.setCtx j { c.ctx j with pend := (c.ctx j).pend ++ [p] }

/-- The value that a load delivers (R191, R192, R193). -/
def Load.value (l : Load) : VReg :=
  if l.sign then (BitVec.ofInt 64 (sval (8 * l.w) (leNat l.bytes))).zeroExtend 1024 else vregOf l.bytes

/-- Whether a load of a context may come after a later access of class `cls` from bundle cycle `t`: it is
independent of it, of every load after it that cannot, and not before an access that the later one is ordered after
(R94, R97, R344). -/
def Load.follows (l : Load) (ps : List Pend) (cls t : Nat) : Bool :=
  decide (l.t ≤ t) && indep l.cls cls && (l.past.all fun p => indep p cls) && ps.all fun q => match q.load with
    | none => true
    | some r => decide (r.t ≤ l.t) || indep r.cls l.cls || (!q.done && decide (r.t ≤ t) && indep r.cls cls)

/-- Whether a load reads one of the `n` bytes at `a`. -/
def Load.touches (l : Load) (a n : Nat) : Bool :=
  l.addrs.any fun b => decide (b < a + n) && decide (a < b + l.w)

/-- The loads up to bundle cycle `t` that an access of class `cls` is ordered after have been performed: what comes
after it does not come before them (R94, R344). -/
def Ctx.loadsBefore (x : Ctx) (cls t : Nat) : Ctx :=
  { x with pend := x.pend.map fun p => match p.load with
      | some l => if l.t ≤ t ∧ !indep l.cls cls then { p with load := none } else p
      | none => p }

/-- A load whose bytes among the `n` at `a` are read again. -/
def Core.readAgain (c : Core) (a n : Nat) (byte : Load → Nat → Byte) (l : Load) : Load :=
  { l with bytes := (List.range l.bytes.length).map fun i =>
      let b := l.addrs.getD (i / l.w) 0 + i % l.w
      if a ≤ b ∧ b < a + n ∧ !c.offLimits b then byte l b else l.bytes.getD i 0 }

/-- A byte that an engine has written, with the stores before a load over it (R95, R97). -/
def Core.byteFor (c : Core) (j free : Nat) (l : Load) (b : Nat) : Byte :=
  ({ c with stq := c.stq.filter fun st => decide (st.t < l.t) } : Core).ldByte j l.cls free b

/-- The results that were in flight at s.seg.entry, with the values that they have now (R134). -/
def Snap.follow (sn : Snap) (ps : List Pend) : Snap :=
  { sn with late := sn.late.map fun p => match ps.find? fun q => q.ord == p.ord && q.dest == p.dest with
      | some q => { p with val := q.val, load := q.load }
      | none => p }

/-- An access of a context, of class `cls` and from bundle cycle `t`, writes `n` bytes at `a`: the loads up to
that bundle that are independent of it may yet read what it wrote (R97, R198; a free value), or come before it and
what is ordered after it (R344). -/
def Core.overtake (c : Core) (j free cls t a n : Nat) (byte : Load → Nat → Byte) : Core :=
  let x := c.ctx j
  if cls = 0 then c.setCtx j (x.loadsBefore 0 t)
  else if c.poisoned (a / 2048) then c
  else
    let ps := x.pend.map fun p => match p.load with
      | some l =>
        if p.done || !l.follows x.pend cls t then p
        else if Config.freeBit free 11 then
          let l' := c.readAgain a n byte l
          { p with load := some l', val := l'.value }
        else if l.touches a n then { p with load := some { l with past := cls :: l.past } }
        else p
      | none => p
    c.setCtx j { x with pend := ps, snap := x.snap.map (·.follow ps) }

/-- Every load of a context that is in flight has been performed: what comes later does not come before it. -/
def Ctx.loadsDone (x : Ctx) : Ctx := { x with pend := x.pend.map fun p => { p with load := none } }

/-- The register files once every result in flight has been delivered, in the order of R131. -/
def Core.drained (c : Core) (j : Nat) : Core :=
  let rec go : Nat → Core → Core
    | 0, c => c
    | n + 1, c =>
      match (c.ctx j).pend with
      | [] => c
      | p :: ps =>
        let m := ps.foldl (fun m q => if q.due < m.due ∨ (q.due = m.due ∧ q.ord < m.ord) then q else m) p
        go n (c.deliver j m.due m)
  go (c.ctx j).pend.length c

/-! ## Latches (R128) -/

/-- A latch as a bundle reads it: before its entry is readable, the earlier content or the new one. -/
def Latch.read (l : Latch) (now free : Nat) : VReg :=
  if l.due ≤ now then l.val else if Config.freeBit free 2 then l.val else l.old

/-- L1 takes L0 and L0 takes the result, readable from `due` (R128). -/
def Ctx.moveLatch (x : Ctx) (u : VUnit) (lanes : BitVec 32) (v : VReg) (due now free : Nat) : Ctx :=
  let new : VReg := blend lanes v 0
  match u with
  | .va =>
    { x with la1 := { val := x.la0.val, old := x.la1.read now free, due := x.la0.due },
             la0 := { val := new, old := x.la0.read now free, due := due } }
  | .vb =>
    { x with lb1 := { val := x.lb0.val, old := x.lb1.read now free, due := x.lb0.due },
             lb0 := { val := new, old := x.lb0.read now free, due := due } }

/-- The stored errors of the latches move with them: L0's go to L1, and L0 is written whole (R293). -/
def Core.latchFlips (c : Core) (j : Nat) (u : VUnit) : Core :=
  if c.flips = [] then c
  else
    let lo := (j * 64 + 32) * 16
    let keep := c.flips.filter fun f => !(f.array == operArray u && decide (lo ≤ f.row) && decide (f.row < lo + 32))
    let old := c.flips.filter fun f => f.array == operArray u && decide (lo ≤ f.row) && decide (f.row < lo + 16)
    { c with flips := keep ++ old.map fun f => { f with row := f.row + 16 } }

/-- Errors of a hold register are cleared when a value is stored in it (R293). -/
def Core.freshHold (c : Core) (j : Nat) (u : VUnit) (pos : Nat) : Core :=
  (holdRows j u pos).foldl (fun c r => c.fresh r.1 r.2.1) c

/-! ## Rings (R65, R66) -/

/-- Differences of pointers are modulo 2^16 (R65). -/
def pdiff (a b : Nat) : Nat := (a + 65536 - b) % 65536

def Core.ring (c : Core) (r : Nat) : Ring := AMap.get c.rings r {}
def Core.setRing (c : Core) (r : Nat) (x : Ring) : Core := { c with rings := AMap.set c.rings r x }
/-- Filled slots. -/
def Ring.filled (r : Ring) : Nat := pdiff r.tail r.head
/-- Slots open to producers. -/
def Ring.open_ (r : Ring) : Nat := r.len - pdiff r.tail r.free
/-- Slots open after the x.rap whose tail moves are still due (R65, R245). -/
def Ring.openLeft (r : Ring) : Nat := r.open_ - (r.raps.map (·.2.2)).sum
/-- The slot at head. -/
def Ring.headSlot (r : Ring) : Nat := r.base + r.head % r.len

/-- free is the position of the oldest held pop, or head (R66), also after a rewind behind it (log entry 107). -/
def Ring.settle (r : Ring) : Ring :=
  match r.held.map (·.2) with
  | [] => { r with free := r.head }
  | p :: ps => { r with free := ps.foldl (fun m q => if pdiff q r.free < pdiff m r.free then q else m) p }

/-- A pop of `n` slots by a context, held while its segment is open (R66). -/
def Ring.pop (r : Ring) (j n : Nat) (inSeg : Bool) : Ring :=
  let held := if inSeg then
      r.held ++ (List.range n).map fun i => (j, (r.head + i) % 65536) else r.held
  ({ r with head := (r.head + n) % 65536, held := held }).settle

/-- The slots that a window placement of a cycle may fill: those that a commit freed in this very cycle are
not yet among them (R181). -/
def Ring.openAt (r : Ring) (now : Nat) : Nat :=
  match r.freed with
  | some (t, was) => if t = now then r.len - pdiff r.tail was else r.open_
  | none => r.open_

/-- A ring whose free moves by the commit of a cycle remembers where it stood before (R181). -/
def Ring.freeing (r : Ring) (now : Nat) : Ring :=
  match r.freed with
  | some (t, _) => if t = now then r else { r with freed := some (now, r.free) }
  | none => { r with freed := some (now, r.free) }

/-- The commit of a segment frees the pops of its context (R66, R134). -/
def Core.freeHeld (c : Core) (j now : Nat) : Core :=
  { c with rings := c.rings.map fun r =>
      (r.1, if r.2.held.any (·.1 == j) then
              ({ r.2.freeing now with held := r.2.held.filter (·.1 != j) }).settle else r.2) }

/-! ## Segments (R134, R135) -/

def Ctx.inSeg (x : Ctx) : Bool := x.snap.isSome

/-- Commits an open segment; no effect when none is open (R134). -/
def Core.commitSeg (c : Core) (j now : Nat) : Core :=
  let x := c.ctx j
  if x.inSeg then
    (c.setCtx j { x with snap := none, commits := x.commits + 1, rewinds := 0 }).freeHeld j now
  else c

/-- Opens a segment whose entry bundle is at `pc` (R134). The results in flight belong to the snapshot, and the
coordinates of the x.ntile issued so far go into it when they are written. A tail move that is still due does not
(log entry 113). -/
def Core.openSeg (c : Core) (j pc : Nat) : Core :=
  let rings := (List.range 16).map fun r => ((c.ring r).tail, (c.ring r).head)
  let x := c.ctx j
  c.setCtx j { x with snap := some { s := x.s, a := x.a, late := x.pend, rings := rings, entry := pc,
                                     bundle := x.bundles },
                      segPc := pc, rewinds := 0 }

/-- The s-file and the a-file of a snapshot: each register as it stands once every result issued before the
segment has been delivered (R134). -/
def Core.snapFiles (c : Core) (j : Nat) (sn : Snap) : AMap W64 × AMap W64 :=
  let x := ((c.setCtx j { c.ctx j with s := sn.s, a := sn.a, pend := sn.late }).drained j).ctx j
  (x.s, x.a)

/-- The cycle in which every result in flight has been delivered, and the last beat is final (R131, R225). -/
def Ctx.quiet (x : Ctx) (now : Nat) : Nat := x.pend.foldl (fun m p => max m p.due) (max now x.mxDue)

/-! ## Waits (R25) -/

/-- The context is blocked, and nothing else (R25). -/
def Ctx.isReady (x : Ctx) : Bool :=
  match x.status with
  | .ready => true
  | _ => false

def Ctx.resident (x : Ctx) : Bool := x.status != .free

/-- The resident contexts of a core. -/
def Core.residents (c : Core) : List Nat := (List.range 4).filter fun j => (c.ctx j).resident

end Sys2Proof.Machine
end

