-- ==== Sys2Proof/Machine/Nest.lean ====
section
/-!
DEFINITION. Descriptors in the scratchpad: their words, the cause found in them, exchange nests (R62), and
the second reading of a command whose first reading failed (R303).
-/

namespace Sys2Proof.Machine

/-- The cause that an engine finds in the blocks and rows it reads: 0x0E, 0x09, or 0 (R53, R293). -/
def Core.engFault (c : Core) (a n : Nat) : Nat :=
  let as := (List.range ((a % 8 + n + 7) / 8)).map fun i => a / 8 * 8 + 8 * i
  if as.any fun a => !c.offLimits a && c.poisoned (a / 2048) then 0x0E
  else if as.any fun a => (c.spRows a 8).any fun r => decide (2 ≤ c.rowFlips r.1 r.2) then 9
  else 0

/-- The first cause of several reads. -/
def firstFault (fs : List Nat) : Nat := (fs.find? (· ≠ 0)).getD 0

/-- Words of a descriptor read from the scratchpad. -/
def wordsAt (bs : List Byte) (n : Nat) : List W64 :=
  (List.range n).map fun i => BitVec.ofNat 64 (leNat ((bs.drop (8 * i)).take 8))

/-- The trip count of a level of an exchange nest: 0 means 1 (R62). -/
def nestTrip (ws : List W64) (l : Nat) : Nat := max 1 (bitsOf (ws.getD (l + 2) 0) 0 16)
def nestNear (ws : List W64) (l : Nat) : Int := ((ws.getD (l + 2) 0).extractLsb' 16 16).toInt
def nestFar (ws : List W64) (l : Nat) : Int := ((ws.getD (l + 2) 0).extractLsb' 32 32).toInt

/-- Near slot and far address of trade `i` of a nest, level 0 innermost (R62). -/
def nestElem (ws : List W64) (i : Nat) : Nat × Nat :=
  let r := (List.range 6).foldl (fun (a : Nat × Int × Int) l =>
    let d : Nat := a.1 % nestTrip ws l
    (a.1 / nestTrip ws l, a.2.1 + d * nestNear ws l, a.2.2 + d * nestFar ws l))
    (i, (bitsOf (ws.getD 1 0) 0 10 : Int), (bitsOf (ws.getD 0 0) 11 41 : Int))
  (r.2.1.toNat, (2048 * r.2.2).toNat)

/-- The number of trades of a nest (R62). -/
def nestCount (ws : List W64) : Nat := ((List.range 6).map (nestTrip ws)).foldl (· * ·) 1

/-- The least and the greatest sum of a nest over its levels, for a stride. -/
def nestLow (ws : List W64) (f : List W64 → Nat → Int) : Int :=
  ((List.range 6).map fun l => min 0 (((nestTrip ws l : Int) - 1) * f ws l)).foldl (· + ·) 0
def nestHigh (ws : List W64) (f : List W64 → Nat → Int) : Int :=
  ((List.range 6).map fun l => max 0 (((nestTrip ws l : Int) - 1) * f ws l)).foldl (· + ·) 0

/-- The near slots that a nest reaches, one level after the other; a slot of a level is one that the nest
visits while the outer levels stand at 0. -/
def nestSlots (ws : List W64) : List Nat :=
  (List.range 6).foldl (fun ss l =>
    (List.range 640).filter fun v => (List.range (min (nestTrip ws l) 640)).any fun i =>
      ss.any fun u => (u : Int) + i * nestNear ws l == v) [bitsOf (ws.getD 1 0) 0 10]

/-- A nest that traps at issue (R62): a reserved bit, an index or address out of range, a guard slot, or
too many trades. -/
def nestIll (c : Core) (ws : List W64) : Bool :=
  let w0 := ws.getD 0 0
  let w1 := ws.getD 1 0
  let n0 : Int := bitsOf w1 0 10
  let f0 : Int := bitsOf w0 11 41
  bitsOf w0 0 11 ≠ 0 || bitsOf w0 52 12 ≠ 0 || bitsOf w1 10 54 ≠ 0 ||
    decide (n0 + nestLow ws nestNear < 0) || decide (639 < n0 + nestHigh ws nestNear) ||
    decide (f0 + nestLow ws nestFar < 0) || decide ((2 : Int) ^ 41 ≤ f0 + nestHigh ws nestFar) ||
    (nestSlots ws).any c.isGuardSlot || decide (2 ^ 64 ≤ nestCount ws)

/-- A stopped command that resumes: where the bytes that it took at issue were poisoned or uncorrectable,
they are read again, as the failed access of the element (R300, R303; log entry 20, DEDUCED). A nest that
is ill-formed by now stops with 0x01. -/
def Core.reread (c : Core) (j : Nat) (m : Cmd) : Cmd :=
  if m.src = 0 then m
  else
    let f := firstFault (m.reads.map fun r => c.engFault r.1 r.2)
    let data := m.reads.flatMap fun r => c.ldBytes j 0 0 r.1 r.2
    match m.ins with
    | .xXchn .. =>
      let ws := wordsAt data 8
      if f = 0 ∧ nestIll c ws then { m with src := 1 }
      else { m with src := f, data := data, n := nestCount ws }
    | _ => { m with src := f, data := data }

end Sys2Proof.Machine
end

