-- ==== Sys2Proof/Machine/Issue.lean ====
section
/-!
DEFINITION. Fetching (R138, R139, R145), taking an exception and the return from one (R286 to R290,
R294, R295, R298), the end of a bundle (R26, R29, R132, R177), and the issue of a bundle (R146).
-/

namespace Sys2Proof.Machine

/-! ## Fetch -/

/-- The stores that touch a line of the instruction scratchpad and that fetch sees: those that a fence of
their context has ordered, and of the others of each context those up to some point of their issue order (R139,
R183, R196; the point is a free value). -/
def seenIStores (free line : Nat) (here : List IStore) : List IStore :=
  (List.range here.length).filterMap fun i =>
    match here[i]? with
    | none => none
    | some st =>
      let own := fun l : List IStore => (l.filter fun q => q.ctx == st.ctx && !q.fenced).length
      if st.fenced || decide (own (here.take i) < Config.freeNat free (line * 4 + st.ctx) % (own here + 1)) then some st
      else none

/-- A byte of the instruction scratchpad as fetch sees it: each line as it was before or after each
store that no fence has ordered (R139; a free value). A row with more than one flipped bit reads as free
values, and so does one whose error a store has ended that fetch does not see: no rule says what fetch makes of it
(R293, log entry 14). -/
def Core.ibyte (c : Core) (free a : Nat) : Byte :=
  let line := a / 64
  let here := c.iq.filter fun st => decide (st.addr / 64 ≤ line) && decide (line ≤ (st.addr + st.data.length - 1) / 64)
  let seen := seenIStores free line here
  if 2 ≤ c.rowFlips 5 (a / 8) ∨ here.any (fun st => st.was.contains (a / 8) && !seen.contains st) then
    Config.freeByte free a
  else
    seen.foldl (fun v st =>
      if st.addr ≤ a ∧ a < st.addr + st.data.length then st.data.getD (a - st.addr) 0 else v)
      (c.imem.read a)

/-- The bytes of a line from an address to its end. -/
def Core.lineBytes (c : Core) (free a : Nat) : List Byte :=
  (List.range (64 - a % 64)).map fun i => c.ibyte free (a + i)

/-- What fetch finds (R145, R138). -/
inductive Fetched where
  | bundle (addr : Nat) (b : Bundle)
  /-- a bundle that would cross its line, at the address of its header -/
  | crosses (addr : Nat) (h : Byte)
  /-- fetch passed the end of the half; the last header fetched -/
  | pastEnd (addr : Nat) (h : Byte)

/-- Fetches from an address: padding continues at the next line (R145). -/
def Core.fetchFrom (c : Core) (free half : Nat) : Nat → Nat → Nat → Byte → Fetched
  | 0, _, last, h => .pastEnd last h
  | n + 1, a, last, h =>
    if a / 0x8000 ≠ half then .pastEnd last h
    else
      let hd := c.ibyte free a
      if hd = 0 then Core.fetchFrom c free half n ((a / 64 + 1) * 64) a hd
      else match decodeBundle (c.lineBytes free a) with
        | some b => .bundle a b
        | none => .crosses a hd

/-- The bundle that a context is due to issue. -/
def Core.fetch (c : Core) (free j : Nat) : Fetched :=
  let x := c.ctx j
  c.fetchFrom free x.half 513 x.pc x.lastHdr (c.ibyte free x.lastHdr)

/-- The header addresses of the `len` bundles from an address, and the address after them (R177). -/
def Core.body (c : Core) (free half : Nat) : Nat → Nat → Nat → List Nat × Nat
  | 0, _, a => ([], a)
  | _, 0, a => ([], a)
  | n + 1, len + 1, a =>
    if a / 0x8000 ≠ half then ([], a)
    else
      let h := c.ibyte free a
      if h = 0 then Core.body c free half n (len + 1) ((a / 64 + 1) * 64)
      else
        let r := Core.body c free half n len (a + bundleLen h)
        (a :: r.1, r.2)

/-- The header of the first bundle from an address, over padding. -/
def Core.skipPad (c : Core) (free half a : Nat) : Nat := ((c.body free half 513 1 a).1).headD a

/-! ## Going on after a bundle -/

/-- The snapshot of the open segment. -/
def Ctx.setSnap (x : Ctx) (sn : Option Snap) : Ctx := { x with snap := sn }

/-- The next pass of a loop nest (R133): the lowest level with passes left steps, the lower ones start
over; none when the nest exits. The a-registers advance with it. -/
def nestStep : List Level → Option (List Level × List (Nat × Int))
  | [] => none
  | l :: ls =>
    if l.i + 1 < l.trip then some ({ l with i := l.i + 1 } :: ls, [(l.areg, l.inc)])
    else match nestStep ls with
      | none => none
      | some (ls', incs) =>
        some ({ l with i := 0 } :: ls', (l.areg, -((l.trip : Int) - 1) * l.inc) :: incs)

/-- The increments of a pass land before its first bundle (R133). -/
def Ctx.addIncs (x : Ctx) (incs : List (Nat × Int)) : Ctx :=
  incs.foldl (fun x p => x.wrA p.1 (x.rdA p.1 + BitVec.ofInt 64 p.2)) x

/-- Moves the loop on after a bundle of its body that ends at `next` (R132, R177). -/
def Ctx.loopOn (x : Ctx) (next : Nat) : Ctx :=
  match x.loop with
  | none => { x with pc := next }
  | some l =>
    if l.cnt + 1 < l.len then { x with loop := some { l with cnt := l.cnt + 1 }, pc := next }
    else match nestStep l.levels with
      | none => { x with loop := none, pc := next }
      | some (ls, incs) =>
        ({ x with loop := some { l with levels := ls, cnt := 0 }, pc := l.start }).addIncs incs

/-- A coordinate in a snapshot: over the results that have been delivered by now. -/
def Snap.putTile (sn : Snap) (ps : List Pend) (n : Nat) (v : W64) : Snap :=
  { sn with s := AMap.set sn.s n v,
            late := sn.late.filter fun p => p.dest != .sreg n || ps.any fun q => q.ord == p.ord && !q.done }

/-- Writes a coordinate into its register; one that was asked for before the open segment goes into the
snapshot too (R134), and one of an abandoned pass is dropped (R135). -/
def Ctx.putTile (x : Ctx) (t : Ntile) : Ctx :=
  if t.drop then x
  else
    let v := t.val.getD 0
    (x.wrS t.reg v).setSnap (x.snap.map fun sn => if t.bundle ≤ sn.bundle then sn.putTile x.pend t.reg v else sn)

/-- Whether a coordinate must be there for bundle number `n` (R29), or for a replay (R135). -/
def Ntile.due (t : Ntile) (n : Nat) : Bool := t.soon || decide (t.bundle + 12 ≤ n)

/-- Writes the coordinates that are readable from bundle number `n` on; `none` when one of them has not
arrived, so that the bundle is held (R29). -/
def Ctx.ntileDue (x : Ctx) (n : Nat) : Option Ctx :=
  let due := x.ntiles.filter (·.due n)
  if due.all (·.here) then some (due.foldl Ctx.putTile { x with ntiles := x.ntiles.filter fun t => !t.due n })
  else none

/-- Goes on after a bundle (R132, R175, R177). -/
def Ctx.advance (x : Ctx) : Advance → Ctx
  | .jump t true => { x with pc := t }
  | .jump t false => { x with pc := t, half := t / 0x8000, loop := none, lastHdr := t }
  | .next a true => { x with pc := a }
  | .next a false => x.loopOn a
  | .onto a => { x with pc := a, half := a / 0x8000, lastHdr := a }

/-- The context is past its bundle: ready, or held for a coordinate that the next bundle must read (R29). -/
def Ctx.goOn (x : Ctx) (a : Advance) : Ctx :=
  let y := x.advance a
  match y.ntileDue y.bundles with
  | some z => { z with status := .ready }
  | none => { y with status := .blocked [.ntile] (.next y.pc true) }

/-- The rows that the context writes whole as it goes on: the a-registers that the next pass of its loop steps, and
the coordinates that become readable (R29, R133, R293). -/
def Ctx.goRows (x : Ctx) (j : Nat) (a : Advance) : List (Nat × Nat) :=
  let incs : List (Nat × Int) := match a, x.loop with
    | .next _ false, some l => if l.cnt + 1 < l.len then [] else ((nestStep l.levels).map fun p => p.2).getD []
    | _, _ => []
  let tiles := if (x.ntileDue x.bundles).isSome then x.ntiles.filter fun t => t.due x.bundles && !t.drop else []
  incs.map (fun p => (7, j * 32 + p.1)) ++ tiles.map fun t => (6, j * 64 + t.reg)

/-- The x.ntile of a context that rewinds: those issued before the segment are results in flight that the
rewind waits for, and those of the abandoned pass are waited for and then dropped (R135). -/
def Ntile.rewound (t : Ntile) (entry : Nat) : Ntile :=
  { t with drop := t.drop || decide (entry < t.bundle), soon := true }

/-- The end of a context's bank lock (R69). -/
def Core.unlock (c : Core) (j : Nat) : Core :=
  if (c.lock.map fun l : Lock => l.ctx) = some j then { c with lock := none } else c

/-- The rewind of an open segment (R135, R66, R177, R238): results in flight are delivered, registers
and ring pointers are restored, the scale queue is emptied, and the entry bundle is next, in the cycle after the
last of those results. A tail move of the context that is still due is dropped (log entry 113). A rewind is no trap, so
a hold goes on unless the context blocks (R69, R294; log entry 114). -/
def Core.rewind (c : Core) (j now : Nat) : Core :=
  let x := c.ctx j
  match x.snap with
  | none => c
  | some sn =>
    let c1 := c.drained j
    let x1 := c1.ctx j
    let rings := c1.rings.map fun r =>
      let p := sn.rings.getD r.1 (0, 0)
      let r' := { r.2 with held := r.2.held.filter (·.1 != j) }
      (r.1, { r' with head := p.2, tail := if r'.win.isSome then r'.tail else p.1,
                      raps := if r'.win.isSome then r'.raps else r'.raps.filter (·.2.1 != j) })
    let files := c.snapFiles j sn
    let c2 := { c1 with rings := rings, flips := c1.flips.filter fun f =>
      !((f.array == 6 && f.row / 64 == j) || (f.array == 7 && f.row / 32 == j)) }
    let x2 := { x1 with s := files.1, a := files.2, loop := none, susp := none, sq := {}, again := none,
                        snap := some { sn with s := files.1, a := files.2, late := [] },
                        rewinds := x.rewinds + 1, since := now, notB := x.quiet now + 1,
                        ntiles := x1.ntiles.map (Ntile.rewound · sn.bundle) }
    let x3 := x2.goOn (.onto sn.entry)
    let c3 := c2.setCtx j x3
    match x3.status with
    | .ready => c3
    | _ => c3.unlock j

/-! ## Taking an exception -/

/-- A trap that a bundle raises (R286 to R289). -/
structure Trap where
  cause : Nat
  slot  : Option Nat := none
  i0    : W64 := 0
  i1    : W64 := 0
  i2    : W64 := 0
  i3    : W64 := 0
  fatal : Bool := false
  dfr   : Bool := false
  mir   : Bool := false
deriving DecidableEq, Repr

/-- The image of trap.cause (R288). -/
def Trap.image (t : Trap) (pp : Bool) : W64 :=
  let b := fun (p : Bool) (n : Nat) => if p then 2 ^ n else 0
  BitVec.ofNat 64 (t.cause + (t.slot.getD 0) * 256 + b t.slot.isSome 11 + b pp 12 + b t.fatal 13 +
    b t.dfr 14 + b t.mir 15)

/-- The partners of a context (R248): the other members of its gang, or its pair partner. -/
def State.gangOf (s : State) (k j : Nat) : Option Gang := s.gangs.find? fun g => g.members.contains (k, j)

/-- The lowest-numbered resident context of a core (R296). -/
def Core.pairCtx (c : Core) : Nat := c.residents.headD 0

/-- The pair partner of a context, where each core names the other (R296). -/
def State.pairOf (s : State) (k j : Nat) : Option (Nat × Nat) :=
  let c := s.core k
  let p := s.core c.partner
  if c.pair && p.pair && p.partner == k && c.partner != k && c.pairCtx == j then
    some (c.partner, p.pairCtx) else none

def State.partners (s : State) (k j : Nat) : List (Nat × Nat) :=
  match s.gangOf k j with
  | some g => g.members.filter (· != (k, j))
  | none => match s.pairOf k j with
    | some p => [p]
    | none => []

/-- The bit of a core in a gang mask. -/
def coreBit (k : Nat) : Nat := 2 ^ (k % 8)

/-- Whether a core has issued x.gend in its gang. -/
def Gang.hasEnded (g : Gang) (k : Nat) : Bool := g.ended.any (·.1 == k)

/-- A context that stands in a wait goes back to the bundle, which has had its effects, and takes a trap there:
what issues again later is its X slot alone (R290). A handler's bundle is left as it is, since a precise trap of
it is a double fault. -/
def Ctx.putBack (x : Ctx) (now : Nat) : Ctx :=
  let on : Advance := match x.status with
    | .blocked _ on => on
    | _ => .onto x.pc
  { x with status := .ready, since := now, again := if x.inTrap then x.again else some (x.pc, on) }

/-- A gang loses a member (R298): it is dissolved, and the others take 0x16, at once where they are
blocked in an x.rdv, and otherwise at their first ganged beat, x.rdv or x.gend; those that issue one in the
cycle of the loss take it there (`State.census`). -/
def State.loseMember (s : State) (k j : Nat) : State :=
  match s.gangOf k j with
  | none => s
  | some g =>
    if g.hasEnded k then s
    else
      let info := (g.mask.toNat, coreBit k)
      (g.members.filter (· != (k, j))).foldl (fun s m =>
        s.modCtx m.1 m.2 fun x =>
          match x.status with
          | .blocked ws _ =>
            if ws.any (fun w => match w with | .rdv _ _ => true | _ => false) then
              { x.putBack s.now with gtrap := some info }
            else { x with ltrap := some info }
          | _ => { x with ltrap := some info })
        { s with gangs := s.gangs.filter (· != g) }

/-- The end of a task (R261): an open segment is committed and the context issues nothing more. An end
in a handler or by the report route drops the commands that a fault or a refused claim has stopped and the
faults still pending, and no later fault is delivered (R303, R307). -/
def State.haltCtx (s : State) (k j : Nat) (final : Bool) : State :=
  let s1 := s.modCore k fun c =>
    let c1 := c.commitSeg j s.now
    let x := c1.ctx j
    let c2 := { c1.unlock j with leave := c1.leave || c1.run == some j }
    let x1 := { x with status := .halted, loop := none }
    c2.setCtx j (if final then
      { x1 with inTrap := true, faults := [], guard := none,
                cmds := x.cmds.filter fun m => match m.status with | .stopped _ => false | _ => m.hold.isNone }
      else x1)
  s1.loseMember k j

/-- The fault report of R287. -/
def State.faultReport (s : State) (k j : Nat) (t : Trap) (pc : Nat) : State :=
  let x := s.ctx k j
  s.record x.vi 1
    [recW0 4 t.cause 0 x.tag, BitVec.ofNat 64 (k + j * 65536), t.image x.priv, BitVec.ofNat 64 pc,
     t.i0, t.i1, t.i2, t.i3]

/-- The report route (R287): a fault report of kind 0x04, and the context ends. -/
def State.reportRoute (s : State) (k j : Nat) (t : Trap) (pc : Nat) : State :=
  (s.faultReport k j t pc).haltCtx k j true

/-- Enters the handler (R287): the record, privilege P, the end of a lock, the loop suspended (one that is suspended
already stays so, R177), and the first bundle no earlier than t + 3 and than every result in flight. -/
def State.enter (s : State) (k j : Nat) (t : Trap) (pc : Nat) : State :=
  s.modCore k fun c =>
    let x := c.ctx j
    let at_ := max (s.now + 3) (x.quiet s.now)
    let x' := { x with trCause := t.image x.priv, trPc := BitVec.ofNat 64 pc, trI0 := t.i0, trI1 := t.i1,
                       trI2 := t.i2, trI3 := t.i3, priv := true, inTrap := true, susp := x.loop.or x.susp,
                       nest := if x.inTrap then x.nest + 1 else 0,
                       loop := none, pc := c.vec, half := 1, status := .ready }
    let c1 := if (c.lock.map (·.ctx)) = some j then { c with lock := none } else c
    { (c1.setCtx j x') with issueAt := max c.issueAt at_ }

/-- A trap is taken by one context (R287): the handler, or the report route where there is none or on
a double fault. 0x08 writes a report too (R303). `kept` says that its gang does not lose it (R298). -/
def State.takeAs (s : State) (k j : Nat) (t : Trap) (pc : Nat) (kept : Bool) : State :=
  let x := s.ctx k j
  let double := x.inTrap && !t.dfr && t.cause != 0x12 && t.cause != 0x13
  let s1 := if kept then s else s.loseMember k j
  if double then s1.reportRoute k j { t with fatal := true } pc
  else if (s.core k).vec = 0 then s1.reportRoute k j t pc
  else (if t.cause = 8 then s1.faultReport k j t pc else s1).enter k j t pc

/-- A trap of a context that its gang loses by it, but for a mirrored one and 0x16 (R298). -/
def State.takeOne (s : State) (k j : Nat) (t : Trap) (pc : Nat) : State :=
  s.takeAs k j t pc (t.mir || t.cause == 0x16)

/-- Whether a context stands in a wait of a bundle that has had its effects. -/
def Ctx.standing (x : Ctx) : Bool :=
  match x.status with
  | .blocked ws _ => !ws.any fun w => match w with
    | .ntile => true
    | .mates _ => true
    | _ => false
  | _ => false

/-- A partner takes a trap with mir set (R295, R296), at the bundle that it is due to issue or whose wait it stands
in (R290). -/
def State.mirror (s : State) (m : Nat × Nat) (t : Trap) : State :=
  let s1 := s.modCtx m.1 m.2 fun x => if x.standing then x.putBack s.now else x
  s1.takeOne m.1 m.2 { t with mir := true } (s1.ctx m.1 m.2).pc

/-- A context that rewinds waits until no context that rewinds with it waits for a coordinate. -/
def Ctx.withMates (x : Ctx) (ms : List (Nat × Nat)) : Ctx :=
  match x.status with
  | .blocked ws on => { x with status := .blocked (ws ++ [.mates ms]) on }
  | _ => { x with status := .blocked [.mates ms] (.next x.pc true) }

/-- Rewinds the contexts of a list that have a segment open; they resume in one common cycle, the first after
the results of all of them (R135, R295). -/
def State.rewindAll (s : State) (ms : List (Nat × Nat)) : State :=
  let open_ := ms.filter fun m => (s.ctx m.1 m.2).inSeg
  let at_ := open_.foldl (fun a m => max a ((s.ctx m.1 m.2).quiet s.now)) s.now + 1
  let s1 := open_.foldl (fun s m => s.modCore m.1 fun c =>
    let c1 := c.rewind m.2 s.now
    c1.setCtx m.2 { c1.ctx m.2 with notB := at_ }) s
  if open_.all fun m => (s1.ctx m.1 m.2).isReady then s1
  else open_.foldl (fun s m => s.modCore m.1 fun c =>
    (c.setCtx m.2 ((c.ctx m.2).withMates open_)).unlock m.2) s1

/-- Takes a trap (R286 to R289, R294 to R296): cause 0x09 rewinds an open segment, at most three times,
with the partners that have one open; a redundant pair takes every trap together. -/
def State.takeTrap (s : State) (k j : Nat) (t : Trap) (pc : Nat) : State :=
  let x := s.ctx k j
  let ps := s.partners k j
  if t.cause = 9 ∧ x.inSeg then
    let ms := (k, j) :: ps.filter fun m => (s.ctx m.1 m.2).inSeg
    if ms.all fun m => decide ((s.ctx m.1 m.2).rewinds < 3) then s.rewindAll ms
    else
      let t' := { t with cause := 0x0A, fatal := true, dfr := false, i1 := BitVec.ofNat 64 x.segPc, i2 := 0, i3 := 0 }
      (ms.drop 1).foldl (fun s m => s.mirror m t') (s.takeAs k j t' pc (decide (1 < ms.length)))
  else
    let s1 := s.takeOne k j t pc
    match s.pairOf k j with
    | some p => if t.mir ∨ t.cause = 0x11 then s1
      else s1.mirror p t
    | none => s1

/-- The loop that an s.eret to an address resumes: where a bundle of its body is the first one from there (R177). -/
def Core.loopAt (c : Core) (free : Nat) (l : Loop) (tgt : Nat) : Option Loop :=
  let half := l.start / 0x8000
  if tgt < l.start then none
  else match (c.body free half 513 l.len l.start).1.findIdx? (· == c.skipPad free half tgt) with
    | some i => some { l with cnt := i }
    | none => none

/-- The return from an exception (R186, R290, R177, R303): the target of trap.pc at the saved
privilege; the loop goes on where the target lies in its body; stopped commands resume. The return from a
software trap or breakpoint of a handler goes back into the handler. -/
def Core.eret (c : Core) (j now free : Nat) : Core :=
  let x := c.ctx j
  let tgt := bitsOf x.trPc 0 16
  let deep := x.trCause.getLsbD 12 && decide (0 < x.nest)
  let loop := match x.susp with
    | none => none
    | some l =>
      if x.again.map (·.1) = some tgt then some l
      else c.loopAt free l tgt
  let cmds := x.cmds.map fun m => match m.status with
    | .stopped _ => { c.reread j m with status := .queued, resumed := x.cmdSeq }
    | _ => m
  { (c.setCtx j { x with pc := tgt, half := tgt / 0x8000, lastHdr := tgt, priv := x.trCause.getLsbD 12,
                         inTrap := deep, nest := if deep then x.nest - 1 else 0,
                         loop := loop, susp := none, cmds := cmds })
    with issueAt := max c.issueAt (now + 3) }

/-! ## Bundles at issue -/

/-- What a slot sees when its bundle issues: the machine before the bundle (R123). -/
structure Env where
  s    : State
  k    : Nat
  j    : Nat
  pc   : Nat
  len  : Nat
  hdr  : Byte
  kinds : List SlotKind
  ins  : List Instr

def Env.c (e : Env) : Core := e.s.core e.k
def Env.x (e : Env) : Ctx := (e.s.core e.k).ctx e.j
/-- The address of the byte after the bundle. -/
def Env.next (e : Env) : Nat := e.pc + e.len

/-- How a bundle ends (R25, R26, R132, R175, R182, R261). -/
structure Flow where
  /-- a taken transfer -/
  target : Option Nat := none
  /-- the target is the address after a body, in the running half -/
  inHalf : Bool := false
  /-- two cycles are lost -/
  gap    : Bool := false
  waits  : List Wait := []
  yield  : Bool := false
  halt   : Bool := false
  /-- the effect has set the pc to the target, and the issue cycle (s.eret) -/
  done   : Bool := false

/-- In which superstep a slot may issue (R38). -/
inductive Super where
  | both | compute | exchange
deriving DecidableEq, Repr

/-- The meaning of a slot: the phase in which it is legal, the checks in their order, the rows it
reads, its effect, what a trap of its own check still records, and how it ends the bundle. -/
structure Sem where
  super : Super := .both
  priv  : Env → Option Trap := fun _ => none
  check : Env → Option Trap := fun _ => none
  rows  : Env → List RowRef := fun _ => []
  eff   : Env → State → State := fun _ s => s
  fail  : Env → Trap → State → State := fun _ _ s => s
  /-- what happens after the effects of every slot of the bundle -/
  post  : Env → State → State := fun _ s => s
  flow  : Env → Flow := fun _ => {}

/-- A slot of a bundle ready to issue. -/
structure Slot where
  kind : SlotKind
  raw  : Nat
  ins  : Except DecodeError Instr
  sem  : Sem

/-- The trap of a reserved or malformed slot, and of an operand beyond its limits (R158, R289). -/
def illegal (kind : SlotKind) (raw : Nat) (hdr : Byte) : Trap :=
  { cause := 1, slot := some kind.bit, i0 := BitVec.ofNat 64 raw, i1 := hdr.zeroExtend 64 }

/-- 0x02 (R289). -/
def privileged (kind : SlotKind) (raw : Nat) (hdr : Byte) : Trap :=
  { cause := 2, slot := some kind.bit, i0 := BitVec.ofNat 64 raw, i1 := hdr.zeroExtend 64 }

/-- Whether the superstep of the context allows the slot (R38). -/
def Super.ok (p : Super) (phase : W64) : Bool :=
  match p with
  | .both => true
  | .compute => !phase.getLsbD 0
  | .exchange => phase.getLsbD 0

/-- 0x09 of the first register that the slot reads and cannot be corrected (R293). -/
def Slot.badRow (e : Env) (sl : Slot) : Option Trap :=
  ((sl.sem.rows e).find? fun r => decide (2 ≤ e.c.rowFlips r.1 r.2.1)).map fun r =>
    { cause := 9, slot := some sl.kind.bit, i0 := 3, i1 := BitVec.ofNat 64 r.2.2, i2 := BitVec.ofNat 64 e.x.rewinds }

/-- The first trap of a slot, in the order of R146: encoding (every cause of 0x01, those that depend on
operands too: log entry 16), privilege, phase, its own checks, and an uncorrectable register (R293). -/
def Slot.trap (e : Env) (sl : Slot) : Option Trap :=
  match sl.ins with
  | .error _ => some (illegal sl.kind sl.raw e.hdr)
  | .ok _ =>
    let own := sl.sem.check e
    if own.any (·.cause == 1) then own
    else match sl.sem.priv e with
    | some t => some t
    | none =>
      if !sl.sem.super.ok e.x.phase then
        some { cause := 3, slot := some sl.kind.bit, i0 := BitVec.ofNat 64 sl.raw, i1 := e.x.phase }
      else own.or (Slot.badRow e sl)

/-- The trap of a bundle: that of the slot with the lowest header bit (R146), with what it records. -/
def firstTrap (e : Env) : List Slot → Option (Trap × (State → State))
  | [] => none
  | sl :: sls => match sl.trap e with
    | some t => some (t, sl.sem.fail e t)
    | none => firstTrap e sls

/-! ## Deferred faults (R286) -/

/-- Whether an instruction is a delivery point for the pending faults. -/
def isDelivery (faults : List Record) : Instr → Bool
  | .xPhase => true
  | .xHalt => true
  | .xCwait cc _ => faults.any fun r => r.cc == some cc.toNat
  | .xCpoll cc _ _ => faults.any fun r => r.cc == some cc.toNat
  | _ => false

/-- The pending fault that a delivery point delivers: that of the earliest command, a guard touch when
no command fault is pending. -/
def Ctx.dueFault (x : Ctx) : Option Record :=
  match x.faults with
  | [] => x.guard
  | r :: rs => some (rs.foldl (fun m q => if q.seq < m.seq then q else m) r)

/-- The deferred trap of a bundle, and the context without the fault; none in a handler. -/
def deferred (e : Env) : Option (Trap × Record) :=
  let x := e.x
  if x.inTrap then none
  else if e.ins.any (isDelivery x.faults) then
    x.dueFault.map fun r =>
      ({ cause := r.cause, slot := some 1, i0 := r.info0, i1 := r.info1, i2 := r.info2, i3 := r.info3,
         fatal := r.fatal, dfr := true }, r)
  else none

def Ctx.dropFault (x : Ctx) (r : Record) : Ctx :=
  if x.guard = some r then { x with guard := none }
  else { x with faults := x.faults.filter (· != r) }

/-! ## The end of a bundle -/

/-- Whether another context of the core is ready. -/
def Core.othersReady (c : Core) (j : Nat) : Bool :=
  (List.range 4).any fun i => i != j && (c.ctx i).isReady

/-- The lock after a bundle of its context (R69, R180). -/
def Core.lockOn (c : Core) (j : Nat) (stop : Bool) : Core :=
  match c.lock with
  | none => c
  | some l =>
    if l.ctx ≠ j then c
    else if stop ∨ l.left ≤ 1 then { c with lock := none }
    else { c with lock := some { l with left := l.left - 1 } }

/-- Whether a bundle has had its effects already and only its X slot issues again (R290). -/
def Env.goesAgain (e : Env) : Bool := !e.x.inTrap && e.x.again.map (·.1) == some e.pc

/-- How a context goes on after a bundle: to the target of an s.eret, as it was to when its bundle had its
effects, to the target of a transfer, or to the next bundle; the one that opens a loop is not one of its body. -/
def advanceOf (e : Env) (x : Ctx) (f : Flow) : Advance :=
  if f.done then .onto x.pc
  else match (if e.goesAgain then e.x.again else none) with
    | some (_, on) => on
    | none => match f.target with
      | some t => .jump t f.inHalf
      | none => .next e.next (e.x.loop.isNone && x.loop.isSome)

/-- The end of a bundle that has issued in cycle `now` (R26, R29, R132, R175, R186): the counts, the next
bundle's address, blocking, yielding, and the cycles that are lost. A context that blocks or halts stands at
the bundle and goes on from it only when its wait is over. -/
def Core.finish (c : Core) (e : Env) (now : Nat) (f : Flow) : Core :=
  let j := e.j
  let x := c.ctx j
  let others := c.othersReady j
  let x1 := { x with retired := x.retired + 1, bundles := x.bundles + 1,
                     counted := if others then x.counted + 1 else x.counted }
  let ad := advanceOf e x f
  let x' := { x1 with lastHdr := e.pc, pc := e.pc, half := e.pc / 0x8000,
                      again := if x.inTrap then x.again
                        else if f.done then x.again.filter (·.1 == x.pc) else none }
  let x2 :=
    if f.halt then x'
    else if f.waits = [] then x'.goOn ad
    else { x' with status := .blocked f.waits ad }
  let gap := f.gap ∨ f.target.isSome
  let rows := if f.halt ∨ f.waits ≠ [] then [] else x'.goRows j ad
  let c1 := ((c.setCtx j x2).freshRows rows).lockOn j (!x2.isReady || f.yield || f.halt)
  { c1 with leave := c1.leave || (f.yield && others) || !x2.isReady,
            issueAt := max c1.issueAt (if gap then now + 3 else now + 1), last := now }

/-! ## Issue -/

/-- The order in which the slots of a bundle take effect: S first, so that the port is written, X last,
so that an engine operation sees the stores of its bundle (R96, R126, R131). -/
def effectOrder : List SlotKind := [.s, .ld, .st, .va, .vb, .m, .q, .x]

/-- Applies one slot: the rows it read are corrected (R293), then its effect. -/
def Slot.apply (e : Env) (s : State) (sl : Slot) : State :=
  let s1 := s.modCore e.k fun c => (sl.sem.rows e).foldl (fun c r => c.scrub r.1 r.2.1) c
  sl.sem.eff e s1

/-- Applies the slots of a bundle. A store of its own bundle may come before a load that asserts
independence of it (R97). -/
def applySlots (e : Env) (slots : List Slot) (swap : Bool) (s : State) : State :=
  let order := if swap then [.s, .st, .ld, .va, .vb, .m, .q, .x] else effectOrder
  order.foldl (fun s kd => (slots.filter (·.kind == kd)).foldl (Slot.apply e) s) s

/-- The flow of a bundle: that of all its slots. -/
def flowOf (e : Env) (slots : List Slot) : Flow :=
  slots.foldl (fun f sl =>
    let g := sl.sem.flow e
    { target := f.target <|> g.target, inHalf := f.inHalf || g.inHalf, gap := f.gap || g.gap, waits := f.waits ++ g.waits,
      yield := f.yield || g.yield, halt := f.halt || g.halt, done := f.done || g.done }) {}

/-- Whether an LD or ST form stores, and its class (R97). -/
def lsClass : Instr → Option (Bool × Nat)
  | .ldB o | .ldBu o | .ldH o | .ldHu o | .ldW o | .ldWu o | .ldD o | .ldV o | .ldVs o => some (false, o.cls.toNat)
  | .ldRing o => some (false, o.cls.toNat)
  | .stB o | .stH o | .stW o | .stD o | .stV o | .stVs o => some (true, o.cls.toNat)
  | .stRing o => some (true, o.cls.toNat)
  | _ => none

/-- The value of a slot's bits, for the info words that hold them (R289). -/
def rawOf (i : Instr) : W64 := BitVec.ofNat 64 (((encode i).slot.map (·.2)).getD 0)

/-- The alias class of an X slot (R149). -/
def classOf (i : Instr) : Nat := bitsOf (rawOf i) 54 2

/-- The ordering mark: bit 0 release, bit 1 acquire (R100). -/
def markOf (i : Instr) : Nat :=
  match i with
  | .xXch .. | .xXchn .. | .xXchs .. | .xAmo .. | .xAmov .. | .xRedm .. | .xMon .. => bitsOf (rawOf i) 22 2
  | _ => 0

/-- The class that an X command's accesses have against the context's earlier ones: a release mark orders every
class (R97, R100). -/
def orderClass (i : Instr) : Nat := if markOf i % 2 = 1 then 0 else classOf i

/-- The classes of the LD and ST slots of a bundle assert independence (R97). -/
def pairIndep (ins : List Instr) : Bool :=
  let cs := ins.filterMap lsClass
  cs.any fun a => !a.1 && cs.any fun b => b.1 && indep a.2 b.2

/-- A bundle that raises no trap: its effects, then its end. -/
def commitBundle (e : Env) (slots : List Slot) (s : State) : State :=
  let swap := pairIndep e.ins && Config.freeBit s.free 3
  let s0 := applySlots e slots swap (s.modCore e.k fun c => { c with ord := c.ord + 1 })
  let s1 := slots.foldl (fun s sl => sl.sem.post e s) s0
  (s1.modCore e.k fun c => c.finish e s.now (flowOf e slots)).fresh

/-! ## Gangs (R230, R298) -/

/-- The ganged beat of a bundle. -/
def beatOf (k : Nat) (ins : List Instr) : Option PeerBeat :=
  ins.findSome? fun i => match i with
    | .mAcc o => if o.gang then some { core := k, pair := o.pair, dist := false, row := o.row.toNat } else none
    | .mDist o => if o.gang then some { core := k, pair := o.pair, dist := true, row := o.row.toNat } else none
    | _ => none

/-- Whether a bundle is a point at which a lost member is noticed (R298). -/
def lossPoint (e : Env) : Bool :=
  (beatOf e.k e.ins).isSome || e.ins.any fun i => match i with
    | .xRdv _ => true
    | .xGend => true
    | _ => false

/-- Whether two ganged beats have equal fields (R230). -/
def beatAgrees (a b : PeerBeat) : Bool := a.pair == b.pair && a.dist == b.dist && a.row == b.row

/-- The gang mismatch of R230 at a bundle: the gang and the mask of info1. -/
def gangClash (e : Env) : Option (Gang × Nat) :=
  match e.s.gangOf e.k e.j with
  | none => none
  | some g =>
    let leader := (g.members.headD (0, 0)).1
    let peers := if g.seen = some e.s.now then g.peers else []
    match beatOf e.k e.ins with
    | some b =>
      if e.k = leader then
        let bad := g.members.filter fun m =>
          m.1 != e.k && !(peers.any fun p => p.core == m.1 && beatAgrees p b)
        if bad = [] then none else some (g, (bad.map fun m => coreBit m.1).sum)
      else if g.beatAt = some e.s.now then none else some (g, coreBit leader)
    | none => if e.k = leader ∧ peers ≠ [] then some (g, coreBit leader) else none

/-- The context takes 0x16 at its next bundle; no wait blocks it any longer but for a coordinate: it takes the trap
at the x.rdv in which it waits, and otherwise at the bundle at which it goes on (R29, R230, R298; log entry 17). -/
def Core.gangDown (c : Core) (j now : Nat) (info : Nat × Nat) : Core :=
  let x := c.ctx j
  match x.status with
  | .blocked ws on =>
    if ws.any (fun w => match w with | .rdv _ _ => true | _ => false) then
      c.setCtx j { x.putBack now with gtrap := some info }
    else (c.setCtx j { x.goOn on with since := now, gtrap := some info }).freshRows (x.goRows j on)
  | _ => c.setCtx j { x with gtrap := some info }

/-- A gang breaks: it is dissolved, and every member takes 0x16 (R230). -/
def State.gangBreak (s : State) (g : Gang) (info1 : Nat) : State :=
  g.members.foldl (fun s m => s.modCore m.1 fun c => c.gangDown m.2 s.now (g.mask.toNat, info1))
    { s with gangs := s.gangs.filter (· != g) }

/-- The slot at which a bundle takes 0x16: its x.rdv or x.gend, or its ganged beat (R230, R298; log entry
17). -/
def gangSlot (e : Env) : Option Nat :=
  if e.ins.any fun i => match i with
    | .xRdv _ => true
    | .xGend => true
    | _ => false
  then some 1
  else if (beatOf e.k e.ins).isSome then some 6 else none

/-- 0x16 of a context (R289). -/
def State.take16 (s : State) (k j : Nat) (info : Nat × Nat) (slot : Option Nat) (pc : Nat) : State :=
  (s.modCtx k j fun x => { x with gtrap := none, ltrap := none }).takeTrap k j
    { cause := 0x16, slot := slot, i0 := BitVec.ofNat 64 info.1, i1 := BitVec.ofNat 64 info.2 } pc

/-- The 0x16 that a bundle is to take, with the gang that it dissolves: of a gang that has broken, of one that
has lost a member, or of beats that differ (R230, R298). -/
def due16 (e : Env) : Option ((Nat × Nat) × Option Gang) :=
  match e.x.gtrap with
  | some g => some (g, none)
  | none => match (if lossPoint e then e.x.ltrap else none) with
    | some g => some (g, none)
    | none => (gangClash e).map fun p => ((p.1.mask.toNat, p.2), some p.1)

/-- Whether the trap of a slot comes before a trap of the slot with header bit `p` (R146); in one slot its own
checks come first. -/
def comesFirst (t : Trap) (p : Option Nat) : Bool :=
  match p with
  | some p => decide (t.slot.getD 0 ≤ p)
  | none => false

/-- A bundle that has had its effects issues only its X slot, and an s.wait beside it (R290). -/
def waitsIn : Instr → Bool
  | .sWait _ => true
  | i => (encode i).slot.map (·.1) == some .x

def Slot.waits (sl : Slot) : Bool :=
  match sl.ins with
  | .ok i => waitsIn i
  | .error _ => false

/-- What issues of a bundle. -/
def Env.issuing (e : Env) : Env := if e.goesAgain then { e with ins := e.ins.filter waitsIn } else e
def Env.slots (e : Env) (slots : List Slot) : List Slot := if e.goesAgain then slots.filter Slot.waits else slots

/-- What happens when a bundle issues (R146, R230, R286, R298): the trap of the lowest header bit, among them
that of a broken, lost or mismatched gang; a deferred fault at a delivery point; or the bundle. -/
def issueWhole (e : Env) (slots : List Slot) (s : State) : State :=
  match due16 e, firstTrap e slots with
  | none, none => match deferred e with
    | some (t, r) => (s.modCtx e.k e.j fun x => x.dropFault r).takeTrap e.k e.j t e.pc
    | none => commitBundle e slots s
  | none, some (t, rec) => (rec s).takeTrap e.k e.j t e.pc
  | some (g, gang), own =>
    match own.filter fun p => comesFirst p.1 (gangSlot e) with
    | some (t, rec) => (rec s).takeTrap e.k e.j t e.pc
    | none =>
      let s1 := match gang with
        | some h => s.gangBreak h g.2
        | none => s
      s1.take16 e.k e.j g (gangSlot e) e.pc

/-- The issue of what issues of a bundle. -/
def issueBundle (e : Env) (slots : List Slot) (s : State) : State := issueWhole e.issuing (e.slots slots) s

/-! ## Redundant pairs (R296, R297) -/

/-- The 64 bits of the X slot of a bundle. -/
def xBits (slots : List Slot) : Option Nat := (slots.find? fun sl => sl.kind == .x).map (·.raw)

/-- The s-registers that an X slot names, by the fields that its instruction uses (R149). -/
def xNames : Instr → List (BitVec 6)
  | .xXch _ _ _ a _ _ => [a]
  | .xXchp _ _ a _ _ => [a]
  | .xXchn _ _ _ a => [a]
  | .xXchs _ _ _ a b c _ => [a, b, c]
  | .xWin a b => [a, b]
  | .xRing a => [a]
  | .xRst _ _ a b c _ => [a, b, c]
  | .xPhq _ a => [a]
  | .xAmo _ _ _ a b c d fn res =>
    [a] ++ (if fn = 10 then [] else [b]) ++ (if fn = 9 then [c] else []) ++ (if res then [d] else [])
  | .xAmov _ _ _ a b c d fn res _ => [a, b] ++ (if fn = 10 then [] else [c]) ++ (if res then [d] else [])
  | .xRedm _ _ _ a b _ _ _ => [a, b]
  | .xMon _ _ _ a b => [a, b]
  | .xColl _ _ a => [a]
  | .xCpoll _ a _ => [a]
  | .xProbe _ a b c _ nf => [a, b] ++ (if nf then [c] else [])
  | .xDisc _ _ a b => [a, b]
  | .xHint _ a b _ _ => [a, b]
  | .xHot _ a b => [a, b]
  | _ => []

/-- The values of the s-registers that the X slot of a bundle names (R297). -/
def xRegs (e : Env) : List W64 := (e.ins.flatMap xNames).map fun n => e.x.rdS n.toNat

/-- The number of the compare that fails at an X issue of a pair (R297). -/
def pairMismatch (e f : Env) (es fs : List Slot) : Option Nat :=
  match xBits es, xBits fs with
  | none, none => none
  | some a, some b =>
    if a ≠ b then some 0
    else if xRegs e ≠ xRegs f then some 1
    else if e.x.stCrc ≠ f.x.stCrc then some 2 else none
  | _, _ => some 0

/-- The header bit of the trap that a bundle takes by its own slots or its gang. -/
def trapBit (e : Env) (slots : List Slot) : Option Nat :=
  match due16 e, firstTrap e slots with
  | none, none => none
  | none, some p => some (p.1.slot.getD 0)
  | some _, none => some ((gangSlot e).getD 0)
  | some _, some p => some (if comesFirst p.1 (gangSlot e) then p.1.slot.getD 0 else (gangSlot e).getD 0)

/-- The two bundles of a pair issue as one (R296): a trap of either is taken by both, that of the lowest header
bit (R146), among them 0x11 at an X slot in which they differ. The stores of a bundle with an X slot are in the
next compare. -/
def pairWhole (e f : Env) (es fs : List Slot) (s : State) : State :=
  let a := trapBit e es
  let b := trapBit f fs
  let low := fun p : Option Nat => match p with | some n => decide (n ≤ 1) | none => false
  let differ := if low a || low b then none else pairMismatch e f es fs
  match differ with
  | some n =>
    let t := fun other : Nat => ({ cause := 0x11, slot := some 1, i0 := BitVec.ofNat 64 other,
                                   i1 := BitVec.ofNat 64 n } : Trap)
    (s.takeTrap e.k e.j (t f.k) e.pc).takeTrap f.k f.j (t e.k) f.pc
  | none =>
    if a.isSome && decide (a.getD 0 ≤ b.getD 8) then issueWhole e es s
    else if b.isSome then issueWhole f fs s
    else if (deferred e).isSome then issueWhole e es s
    else if (deferred f).isSome then issueWhole f fs s
    else
      let clear := fun x : Ctx => if (xBits es).isSome then { x with stCrc := 0 } else x
      commitBundle f fs (commitBundle e es ((s.modCtx e.k e.j clear).modCtx f.k f.j clear))

/-- The issue of a pair's bundle. -/
def issuePair (e f : Env) (es fs : List Slot) (s : State) : State :=
  pairWhole e.issuing f.issuing (e.slots es) (f.slots fs) s

/-! ## One instruction -/

/-- The context that core `s.cur` runs, when it may issue (R25, R26). -/
def State.running (s : State) : Option (Nat × Nat) :=
  let c := s.core s.cur
  match c.run with
  | none => none
  | some j => if (c.ctx j).isReady then some (s.cur, j) else none

/-- The surroundings of a bundle of one slot at the pc of the running context. -/
def State.env (s : State) (k j : Nat) (i : Instr) : Env :=
  let kd := ((encode i).slot.map (·.1)).getD .s
  { s := s, k := k, j := j, pc := (s.ctx k j).pc, len := 1 + kd.width,
    hdr := BitVec.ofNat 8 (2 ^ kd.bit), kinds := [kd], ins := [i] }

/-- The slot of an instruction with its meaning. -/
def slotOf (i : Instr) (m : Sem) : Slot :=
  let (kd, raw) := (encode i).slot.getD (.s, 0)
  { kind := kd, raw := raw, ins := match i.wfError with | none => .ok i | some e => .error e, sem := m }

/-- Issues a bundle whose only slot is the instruction, on the running context of the core at hand; a
redundant pair issues it on both members. -/
def issueOne (i : Instr) (m : Sem) (s : State) : Host.Outcome State Fault Refusal :=
  match s.running with
  | none => .refused (.notEnabled "issue")
  | some (k, j) =>
    match s.pairOf k j with
    | none => .next (issueBundle (s.env k j i) [slotOf i m] s)
    | some p => .next (issuePair (s.env k j i) (s.env p.1 p.2 i) [slotOf i m] [slotOf i m] s)

end Sys2Proof.Machine
end

