-- ==== Sys2Proof/Machine/Operands.lean ====
section
/-!
DEFINITION. Operand forms: addresses of LD, ST and Q (R188, R193, R239), vector operand codes, holds
and masks (R126 to R129, R199), X operands and descriptors (R241), and where their results go.
-/

namespace Sys2Proof.Machine

/-! ## Traps of a slot -/

/-- The header bit of the slot in which an instruction stands. -/
def bitOf (i : Instr) : Nat := (i.slot.map (·.bit)).getD 0

/-- 0x01 for an operand beyond its limits (R158, R289). -/
def ill (e : Env) (i : Instr) : Trap := illegal ((i.slot).getD .s) (rawOf i).toNat e.hdr

/-- The first trap of a list of conditions with their traps. -/
def trapIf : List (Bool × Trap) → Option Trap
  | [] => none
  | (b, t) :: ts => if b then some t else trapIf ts

/-! ## Addresses of LD, ST and Q -/

/-- The access address of R188: base + index + offset modulo 2^64, low bits cleared. -/
def lsAddr (x : Ctx) (o : LsOp) (w : Nat) : Nat :=
  let a := (x.rdA o.base.toNat + x.rdA o.idx.toNat + o.off.signExtend 64).toNat
  a / w * w

/-- The address of element `i` of a strided access (R193). -/
def vsAddr (x : Ctx) (o : LsOp) (i : Nat) : Nat :=
  let a := (x.rdA o.base.toNat + o.off.signExtend 64 + BitVec.ofNat 64 i * x.rdA o.idx.toNat).toNat
  a / 4 * 4

/-- The address of a Q load (R239). -/
def qAddr (e : Env) (base : BitVec 5) (off : BitVec 16) : Nat :=
  (e.x.softA e.s.free base.toNat + off.signExtend 64 * 64).toNat

/-- Whether a register of a load or store lies beyond the footprint (R23, R192). -/
def lsFootprint (x : Ctx) (f : LsFile) (reg : Nat) : Bool :=
  match f with
  | .va => decide (reg < 768) && decide (64 * x.vaMap.length ≤ reg)
  | .vb => decide (reg < 768) && decide (64 * x.vbMap.length ≤ reg)
  | _ => false

/-- The destination of a load (R191, R192). -/
def lsDest (f : LsFile) (reg : Nat) : Dest :=
  match f with
  | .s => .sreg reg
  | .a => .areg reg
  | .va => .vreg .va reg
  | .vb => .vreg .vb reg

/-- The register that a store writes out, as bytes (R191, R192). -/
def lsSource (e : Env) (f : LsFile) (reg n : Nat) : List Byte :=
  match f with
  | .s => leBytes n (e.x.rdS reg).toNat
  | .a => leBytes n (e.x.rdA reg).toNat
  | .va => (vregBytes (e.c.rdV e.j .va reg)).take n
  | .vb => (vregBytes (e.c.rdV e.j .vb reg)).take n

/-- The rows of a register named by a load or store. -/
def lsRegRows (x : Ctx) (j : Nat) (f : LsFile) (reg : Nat) : List RowRef :=
  match f with
  | .s => [sRow j reg]
  | .a => [aRow j reg]
  | .va => vecRows x j .va reg
  | .vb => vecRows x j .vb reg

/-- The rows of the registers of an address. -/
def addrRows (j : Nat) (base idx : BitVec 5) : List RowRef :=
  (if base = 0 then [] else [aRow j base.toNat]) ++ if idx = 0 then [] else [aRow j idx.toNat]

/-! ## Guard touches (R70, R189, R292) -/

/-- Records the first out-of-range or guard access: a guard touch in normal service, sticky.flag and
sticky.addr in the other modes (R70, R143, R292). -/
def Core.touch (c : Core) (j a : Nat) (write : Bool) : Core :=
  if c.normal then
    let x := c.ctx j
    match x.guard with
    | some _ => c
    | none =>
      let r : Record :=
        { cause := 6, fatal := false, info0 := BitVec.ofNat 64 (a / 2048 % 32),
          info1 := BitVec.ofNat 64 a, info2 := if write then 1 else 0, info3 := 0, cc := none, seq := 0 }
      c.setCtx j { x with guard := some r }
  else if c.hit then c
  else { c with hit := true, wr := write, sAddr := BitVec.ofNat 64 a }

/-- Records the first access of a list, in its order, that is out of range or in a guard slot. -/
def Core.touchAll (c : Core) (j : Nat) (as : List Nat) (write : Bool) : Core :=
  match as.find? c.offLimits with
  | some a => c.touch j a write
  | none => c

/-- 0x0E for an access that reaches a poisoned block, and 0x09 for a load that finds an uncorrectable
row (R190, R289). -/
def memTrap (e : Env) (i : Instr) (as : List Nat) (n : Nat) (load : Bool) : Option Trap :=
  match as.find? fun a => !e.c.offLimits a && e.c.poisoned (a / 2048) with
  | some a => some { cause := 0x0E, slot := some (bitOf i), i0 := rawOf i, i2 := BitVec.ofNat 64 a }
  | none =>
    if !load then none
    else match as.find? fun a => (e.c.spRows a n).any fun r => decide (2 ≤ e.c.rowFlips r.1 r.2) with
      | some a => some { cause := 9, slot := some (bitOf i), i0 := 2, i1 := BitVec.ofNat 64 a,
                         i2 := BitVec.ofNat 64 e.x.rewinds }
      | none => none

/-- The rows that a load reads are corrected (R293). -/
def Core.scrubMem (c : Core) (as : List Nat) (n : Nat) : Core :=
  as.foldl (fun c a => (c.spRows a n).foldl (fun c r => c.scrub r.1 r.2) c) c

/-! ## Vector operands (R126 to R129) -/

/-- The broadcast port as the vector slots of a bundle read it (R126). -/
def Env.port (e : Env) : W64 :=
  match e.ins.findSome? fun i => match i with | .sBc a => some a | _ => none with
  | some a => e.x.rdS a.toNat
  | none => e.x.port

/-- A value in every element of width `w`. -/
def splatW (w v : Nat) : VReg := ofElems w (1024 / w) fun _ => v

/-- 1 in the format (R127). -/
def oneOf (f : Fmt) : Nat := if f.isFloat then f.round .rne (.fin 1 0) else 1

/-- A hold register (R129). -/
def Ctx.hold (x : Ctx) (u : VUnit) (pos : Nat) : VReg :=
  match u with | .va => AMap.get x.ha pos 0 | .vb => AMap.get x.hb pos 0

def Ctx.setHold (x : Ctx) (u : VUnit) (pos : Nat) (v : VReg) : Ctx :=
  match u with
  | .va => { x with ha := AMap.set x.ha pos v }
  | .vb => { x with hb := AMap.set x.hb pos v }

def Ctx.latch0 (x : Ctx) (u : VUnit) : Latch := match u with | .va => x.la0 | .vb => x.lb0
def Ctx.latch1 (x : Ctx) (u : VUnit) : Latch := match u with | .va => x.la1 | .vb => x.lb1

/-- The value of a source operand at position `pos` (R127). -/
def vsrc (e : Env) (u : VUnit) (f : Fmt) (pos code : Nat) : VReg :=
  if code < 800 then e.c.rdV e.j u code
  else match code with
    | 800 => (e.x.latch0 u).read e.s.now e.s.free
    | 801 => (e.x.latch1 u).read e.s.now e.s.free
    | 802 => splatW f.width (e.port.toNat % 2 ^ f.width)
    | 803 => 0
    | 804 => splatW f.width (oneOf f)
    | _ => e.x.hold u pos

/-- The rows of a source operand. -/
def srcRows (e : Env) (u : VUnit) (pos code : Nat) : List RowRef :=
  if code = 1023 then holdRows e.j u pos else vecRows e.x e.j u code

/-- The other vector slot (R125). -/
def otherUnit : VUnit → VUnit
  | .va => .vb
  | .vb => .va

/-- The first source of an instruction: v.xcp reads the other slot's files (R223). -/
def vsrc1 (e : Env) (i : Instr) (o : VOp) : VReg :=
  match i with
  | .vXcp _ => e.c.rdV e.j (otherUnit o.unit) o.s1.toNat
  | _ => vsrc e o.unit o.fmt 1 o.s1.toNat

/-- A main-file code beyond the footprint (R23). -/
def beyond (x : Ctx) (u : VUnit) (code : Nat) : Bool :=
  decide (code < 768) && decide (64 * (x.vMap u).length ≤ code)

/-- Whether a source position holds a code beyond the footprint. -/
def srcBeyond (p : VPos) (x : Ctx) (u : VUnit) (code : Nat) : Bool :=
  match p with
  | .src => Machine.beyond x u code
  | .main => Machine.beyond x u code
  | .other => Machine.beyond x (otherUnit u) code
  | .pair => Machine.beyond x u code || Machine.beyond x u (code + 1)
  | _ => false

/-- Whether the destination lies beyond the footprint. -/
def dstBeyond (p : VDst) (x : Ctx) (u : VUnit) (code : Nat) : Bool :=
  match p with
  | .vec => Machine.beyond x u code
  | .main => Machine.beyond x u code
  | .pair => Machine.beyond x u code || Machine.beyond x u (code + 1)
  | _ => false

/-- The footprint check of a vector slot (R23, R200). -/
def vFootprint (e : Env) (i : Instr) : Option Trap :=
  match i.vrow? with
  | none => none
  | some (r, o) =>
    let x := e.x
    if dstBeyond r.d x o.unit o.d.toNat || srcBeyond r.s1 x o.unit o.s1.toNat ||
        srcBeyond r.s2 x o.unit o.s2.toNat || srcBeyond r.s3 x o.unit o.s3.toNat then
      some (ill e i) else none

/-- The mask registers that a vector slot reads: its lane mask, mask sources, and the mask of v.sel (R207, R208). -/
def maskRows (j : Nat) (i : Instr) (r : VRow) (o : VOp) : List RowRef :=
  let src := fun (p : VPos) (code : Nat) => if p = .mask then [code % 8] else []
  (([o.mask.toNat] ++ src r.s1 o.s1.toNat ++ src r.s2 o.s2.toNat ++
    (match i with | .vSel _ => [o.sub.toNat % 8] | _ => [])).filter (· ≠ 0)).map (kRow j o.unit)

/-- The rows that a vector slot reads: those of its source positions and masks. -/
def vRows (e : Env) (i : Instr) : List RowRef :=
  match i.vrow? with
  | none => []
  | some (r, o) =>
    let one := fun (p : VPos) (pos code : Nat) => match p with
      | .src => srcRows e o.unit pos code
      | .main => srcRows e o.unit pos code
      | .other => vecRows e.x e.j (otherUnit o.unit) code
      | .pair => srcRows e o.unit pos code ++ srcRows e o.unit pos (code + 1)
      | _ => []
    one r.s1 1 o.s1.toNat ++ one r.s2 2 o.s2.toNat ++ one r.s3 3 o.s3.toNat ++ maskRows e.j i r o

/-- The lanes on which an instruction works (R199). -/
def activeLanes (e : Env) (o : VOp) : BitVec 32 := e.x.rdK o.unit o.mask.toNat

/-- Stores the values of held positions (R129). -/
def holdAll (e : Env) (i : Instr) (o : VOp) (x : Ctx) : Ctx :=
  let x1 := if o.h1 then x.setHold o.unit 1 (vsrc1 e i o) else x
  let x2 := if o.h2 then x1.setHold o.unit 2 (vsrc e o.unit o.fmt 2 o.s2.toNat) else x1
  if o.h3 then x2.setHold o.unit 3 (vsrc e o.unit o.fmt 3 o.s3.toNat) else x2

/-- The header bit of a vector slot. -/
def hbOf : VUnit → Nat
  | .va => 4
  | .vb => 5

/-- The holds of an instruction take effect (R129). -/
def putHolds (e : Env) (i : Instr) (o : VOp) (s : State) : State :=
  s.modCore e.k fun c =>
    let c1 := c.setCtx e.j (holdAll e i o (c.ctx e.j))
    let c2 := if o.h1 then c1.freshHold e.j o.unit 1 else c1
    let c3 := if o.h2 then c2.freshHold e.j o.unit 2 else c2
    if o.h3 then c3.freshHold e.j o.unit 3 else c3

/-- A result into the slot's own vector file: delivered by R131 in the given lanes, and the latches move
(R128, R199). -/
def putVec (e : Env) (o : VOp) (lat : Nat) (lanes : BitVec 32) (v : VReg) (s : State) : State :=
  s.modCore e.k fun c =>
    let c1 := c.result s.now s.free e.j (.vreg o.unit o.d.toNat) lanes v lat (hbOf o.unit)
    (c1.setCtx e.j ((c1.ctx e.j).moveLatch o.unit lanes v (s.now + lat) s.now s.free)).latchFlips e.j o.unit

/-- A scalar or mask result of a slot. -/
def putRes (e : Env) (d : Dest) (v : W64) (lat hb : Nat) (s : State) : State :=
  s.modCore e.k fun c => c.result s.now s.free e.j d allLanes (v.zeroExtend 1024) lat hb

/-! ## Counted commands (R241) -/

/-- The values of the s-registers A, B, C, D of an X slot (R149). -/
def xArgs (x : Ctx) (i : Instr) : List W64 :=
  [42, 36, 30, 24].map fun lo => x.rdS ((rawOf i).toNat / 2 ^ lo % 64)

/-- The rows of the s-registers that an X slot names; result registers are not read. -/
def xRows (j : Nat) (regs : List (BitVec 6)) : List RowRef := regs.map fun r => sRow j r.toNat

/-- Whether a context has its 64 counted commands (R241). -/
def Ctx.cmdsFull (x : Ctx) : Bool := decide (64 ≤ x.cmds.length)

/-- The trap of a counted command that finds 64 outstanding (R241). -/
def countedTrap (e : Env) (i : Instr) : Option Trap := if e.x.cmdsFull then some (ill e i) else none

/-- Hands a counted command to its engine: `n` elements, where and what it read at issue, and the
cause found there (R241). -/
def pushCmd (e : Env) (i : Instr) (n : Nat) (reads : List (Nat × Nat)) (data : List Byte) (src : Nat) (s : State) : State :=
  s.modCtx e.k e.j fun x =>
    { x with cmdSeq := x.cmdSeq + 1,
             cmds := x.cmds ++ [{ ins := i, seq := x.cmdSeq, t := s.now, pc := e.pc, args := xArgs e.x i,
                                  data := data, reads := reads, i := 0, n := n, sub := 0, status := .queued,
                                  bad := none, hold := none, poison := none, sent := 0,
                                  src := src }] }

/-- The value of a completion counter. -/
def Ctx.counter (x : Ctx) (n : Nat) : W32 := AMap.get x.cc n 0

/-- Whether bits 63:52 of a level-D address are zero (R241). -/
def goodAddr (a : W64) : Bool := decide (a.toNat < 2 ^ 52)

/-- A descriptor in working slots lies below 0x10_0000 and is aligned to its size (R178, R243, R254). -/
def goodDesc (a : W64) (size : Nat) : Bool := decide (a.toNat % size = 0) && decide (a.toNat + size ≤ 0x100000)

end Sys2Proof.Machine
end

