-- ==== Sys2Proof/Machine/Scalar.lean ====
section
/-!
DEFINITION. Scalar arithmetic, constants, bit fields, CRC and the copies between classes (R165 to
R174, R187).
-/

namespace Sys2Proof.Machine

/-- The answer of a meaning. -/
abbrev Out := Host.Outcome State Fault Refusal

/-- 1 or 0 (R167). -/
def boolW (b : Bool) : W64 := if b then 1 else 0

/-- Bits 127:64 of the signed product (R167). -/
def mulHighS (x y : W64) : W64 := BitVec.ofInt 64 (x.toInt * y.toInt / 2 ^ 64)

/-- Bits 127:64 of the unsigned product (R167). -/
def mulHighU (x y : W64) : W64 := BitVec.ofNat 64 (x.toNat * y.toNat / 2 ^ 64)

/-- s.div: truncation toward zero; all ones for a zero divisor; −2^63 by −1 stays (R168). -/
def divS (x y : W64) : W64 :=
  if y = 0 then BitVec.allOnes 64 else BitVec.ofInt 64 (x.toInt.tdiv y.toInt)

def divU (x y : W64) : W64 :=
  if y = 0 then BitVec.allOnes 64 else BitVec.ofNat 64 (x.toNat / y.toNat)

/-- s.rem: the sign of the dividend; the dividend for a zero divisor (R168). -/
def remS (x y : W64) : W64 := if y = 0 then x else BitVec.ofInt 64 (x.toInt.tmod y.toInt)

def remU (x y : W64) : W64 := if y = 0 then x else BitVec.ofNat 64 (x.toNat % y.toNat)

/-- The number of one bits of the low `n` bits. -/
def popN (n v : Nat) : Nat := ((List.range n).filter fun i => v.testBit i).length

/-- The number of leading zero bits of `n` bits (R171, R210). -/
def clzN (n v : Nat) : Nat := if v % 2 ^ n = 0 then n else n - 1 - Nat.log2 (v % 2 ^ n)

def clz64 (x : W64) : W64 := BitVec.ofNat 64 (clzN 64 x.toNat)
def pop64 (x : W64) : W64 := BitVec.ofNat 64 (popN 64 x.toNat)

/-- The number of trailing zero bits; 64 for 0 (R171). -/
def ctz64 (x : W64) : W64 := BitVec.ofNat 64 (((List.range 64).find? fun i => x.getLsbD i).getD 64)

/-- A field of `w` bits at `pos` (R172). -/
def bextW (x : W64) (pos w : Nat) : W64 := BitVec.ofNat 64 (x.toNat / 2 ^ pos % 2 ^ w)

/-- The low `w` bits of `x` put into `d` at `pos` (R172). -/
def binsW (d x : W64) (pos w : Nat) : W64 :=
  let m : W64 := BitVec.ofNat 64 ((2 ^ w - 1) * 2 ^ pos)
  (d &&& ~~~m) ||| ((x <<< pos) &&& m)

/-- A register form: reads S[a] and S[b] and delivers S[d] (R165, R167). -/
def semR (d a b : BitVec 6) (lat : Nat) (f : W64 → W64 → W64) : Sem where
  rows e := [sRow e.j a.toNat, sRow e.j b.toNat]
  eff e s := putRes e (.sreg d.toNat) (f (e.x.rdS a.toNat) (e.x.rdS b.toNat)) lat 0 s

/-- A form with one register source and latency 1 (R169, R171, R172). -/
def semU (d a : BitVec 6) (f : W64 → W64) : Sem where
  rows e := [sRow e.j a.toNat]
  eff e s := putRes e (.sreg d.toNat) (f (e.x.rdS a.toNat)) 1 0 s

/-- s.add (R167), latency 1. -/
def semSAdd (d a b : BitVec 6) : Sem := semR d a b 1 fun x y => x + y
def execSAdd (d a b : BitVec 6) (s : State) : Out := issueOne (.sAdd d a b) (semSAdd d a b) s

/-- s.sub (R167), latency 1. -/
def semSSub (d a b : BitVec 6) : Sem := semR d a b 1 fun x y => x - y
def execSSub (d a b : BitVec 6) (s : State) : Out := issueOne (.sSub d a b) (semSSub d a b) s

/-- s.mul (R167), latency 3. -/
def semSMul (d a b : BitVec 6) : Sem := semR d a b 3 fun x y => x * y
def execSMul (d a b : BitVec 6) (s : State) : Out := issueOne (.sMul d a b) (semSMul d a b) s

/-- s.mulh (R167), latency 3. -/
def semSMulh (d a b : BitVec 6) : Sem := semR d a b 3 fun x y => mulHighS x y
def execSMulh (d a b : BitVec 6) (s : State) : Out := issueOne (.sMulh d a b) (semSMulh d a b) s

/-- s.mulhu (R167), latency 3. -/
def semSMulhu (d a b : BitVec 6) : Sem := semR d a b 3 fun x y => mulHighU x y
def execSMulhu (d a b : BitVec 6) (s : State) : Out := issueOne (.sMulhu d a b) (semSMulhu d a b) s

/-- s.div (R168), latency 20. -/
def semSDiv (d a b : BitVec 6) : Sem := semR d a b 20 fun x y => divS x y
def execSDiv (d a b : BitVec 6) (s : State) : Out := issueOne (.sDiv d a b) (semSDiv d a b) s

/-- s.divu (R168), latency 20. -/
def semSDivu (d a b : BitVec 6) : Sem := semR d a b 20 fun x y => divU x y
def execSDivu (d a b : BitVec 6) (s : State) : Out := issueOne (.sDivu d a b) (semSDivu d a b) s

/-- s.rem (R168), latency 20. -/
def semSRem (d a b : BitVec 6) : Sem := semR d a b 20 fun x y => remS x y
def execSRem (d a b : BitVec 6) (s : State) : Out := issueOne (.sRem d a b) (semSRem d a b) s

/-- s.remu (R168), latency 20. -/
def semSRemu (d a b : BitVec 6) : Sem := semR d a b 20 fun x y => remU x y
def execSRemu (d a b : BitVec 6) (s : State) : Out := issueOne (.sRemu d a b) (semSRemu d a b) s

/-- s.and (R167), latency 1. -/
def semSAnd (d a b : BitVec 6) : Sem := semR d a b 1 fun x y => x &&& y
def execSAnd (d a b : BitVec 6) (s : State) : Out := issueOne (.sAnd d a b) (semSAnd d a b) s

/-- s.or (R167), latency 1. -/
def semSOr (d a b : BitVec 6) : Sem := semR d a b 1 fun x y => x ||| y
def execSOr (d a b : BitVec 6) (s : State) : Out := issueOne (.sOr d a b) (semSOr d a b) s

/-- s.xor (R167), latency 1. -/
def semSXor (d a b : BitVec 6) : Sem := semR d a b 1 fun x y => x ^^^ y
def execSXor (d a b : BitVec 6) (s : State) : Out := issueOne (.sXor d a b) (semSXor d a b) s

/-- s.shl (R167), latency 1. -/
def semSShl (d a b : BitVec 6) : Sem := semR d a b 1 fun x y => x <<< (y.toNat % 64)
def execSShl (d a b : BitVec 6) (s : State) : Out := issueOne (.sShl d a b) (semSShl d a b) s

/-- s.shr (R167), latency 1. -/
def semSShr (d a b : BitVec 6) : Sem := semR d a b 1 fun x y => x >>> (y.toNat % 64)
def execSShr (d a b : BitVec 6) (s : State) : Out := issueOne (.sShr d a b) (semSShr d a b) s

/-- s.sra (R167), latency 1. -/
def semSSra (d a b : BitVec 6) : Sem := semR d a b 1 fun x y => x.sshiftRight (y.toNat % 64)
def execSSra (d a b : BitVec 6) (s : State) : Out := issueOne (.sSra d a b) (semSSra d a b) s

/-- s.min (R167), latency 1. -/
def semSMin (d a b : BitVec 6) : Sem := semR d a b 1 fun x y => if x.slt y then x else y
def execSMin (d a b : BitVec 6) (s : State) : Out := issueOne (.sMin d a b) (semSMin d a b) s

/-- s.max (R167), latency 1. -/
def semSMax (d a b : BitVec 6) : Sem := semR d a b 1 fun x y => if x.slt y then y else x
def execSMax (d a b : BitVec 6) (s : State) : Out := issueOne (.sMax d a b) (semSMax d a b) s

/-- s.minu (R167), latency 1. -/
def semSMinu (d a b : BitVec 6) : Sem := semR d a b 1 fun x y => if x.ult y then x else y
def execSMinu (d a b : BitVec 6) (s : State) : Out := issueOne (.sMinu d a b) (semSMinu d a b) s

/-- s.maxu (R167), latency 1. -/
def semSMaxu (d a b : BitVec 6) : Sem := semR d a b 1 fun x y => if x.ult y then y else x
def execSMaxu (d a b : BitVec 6) (s : State) : Out := issueOne (.sMaxu d a b) (semSMaxu d a b) s

/-- s.slt (R167), latency 1. -/
def semSSlt (d a b : BitVec 6) : Sem := semR d a b 1 fun x y => boolW (x.slt y)
def execSSlt (d a b : BitVec 6) (s : State) : Out := issueOne (.sSlt d a b) (semSSlt d a b) s

/-- s.sltu (R167), latency 1. -/
def semSSltu (d a b : BitVec 6) : Sem := semR d a b 1 fun x y => boolW (x.ult y)
def execSSltu (d a b : BitVec 6) (s : State) : Out := issueOne (.sSltu d a b) (semSSltu d a b) s

/-- s.seq (R167), latency 1. -/
def semSSeq (d a b : BitVec 6) : Sem := semR d a b 1 fun x y => boolW (x == y)
def execSSeq (d a b : BitVec 6) (s : State) : Out := issueOne (.sSeq d a b) (semSSeq d a b) s

/-- s.crc (R173), latency 2. -/
def semSCrc (d a b : BitVec 6) : Sem := semR d a b 2 fun x y => (crcBytes (x.extractLsb' 0 32) (leBytes 8 y.toNat)).zeroExtend 64
def execSCrc (d a b : BitVec 6) (s : State) : Out := issueOne (.sCrc d a b) (semSCrc d a b) s

/-- s.addi (R169): the immediate is sign-extended. -/
def semSAddi (d a : BitVec 6) (imm : BitVec 13) : Sem := semU d a fun x => x + imm.signExtend 64
def execSAddi (d a : BitVec 6) (imm : BitVec 13) (s : State) : Out :=
  issueOne (.sAddi d a imm) (semSAddi d a imm) s

/-- s.andi (R169): the immediate is sign-extended. -/
def semSAndi (d a : BitVec 6) (imm : BitVec 13) : Sem := semU d a fun x => x &&& imm.signExtend 64
def execSAndi (d a : BitVec 6) (imm : BitVec 13) (s : State) : Out :=
  issueOne (.sAndi d a imm) (semSAndi d a imm) s

/-- s.ori (R169): the immediate is sign-extended. -/
def semSOri (d a : BitVec 6) (imm : BitVec 13) : Sem := semU d a fun x => x ||| imm.signExtend 64
def execSOri (d a : BitVec 6) (imm : BitVec 13) (s : State) : Out :=
  issueOne (.sOri d a imm) (semSOri d a imm) s

/-- s.xori (R169): the immediate is sign-extended. -/
def semSXori (d a : BitVec 6) (imm : BitVec 13) : Sem := semU d a fun x => x ^^^ imm.signExtend 64
def execSXori (d a : BitVec 6) (imm : BitVec 13) (s : State) : Out :=
  issueOne (.sXori d a imm) (semSXori d a imm) s

/-- s.slti (R169): the immediate is sign-extended. -/
def semSSlti (d a : BitVec 6) (imm : BitVec 13) : Sem := semU d a fun x => boolW (x.slt (imm.signExtend 64))
def execSSlti (d a : BitVec 6) (imm : BitVec 13) (s : State) : Out :=
  issueOne (.sSlti d a imm) (semSSlti d a imm) s

/-- s.shli (R169): the amount is from 0 to 63. -/
def semSShli (d a : BitVec 6) (n : BitVec 13) : Sem := semU d a fun x => x <<< n.toNat
def execSShli (d a : BitVec 6) (n : BitVec 13) (s : State) : Out :=
  issueOne (.sShli d a n) (semSShli d a n) s

/-- s.shri (R169): the amount is from 0 to 63. -/
def semSShri (d a : BitVec 6) (n : BitVec 13) : Sem := semU d a fun x => x >>> n.toNat
def execSShri (d a : BitVec 6) (n : BitVec 13) (s : State) : Out :=
  issueOne (.sShri d a n) (semSShri d a n) s

/-- s.srai (R169): the amount is from 0 to 63. -/
def semSSrai (d a : BitVec 6) (n : BitVec 13) : Sem := semU d a fun x => x.sshiftRight n.toNat
def execSSrai (d a : BitVec 6) (n : BitVec 13) (s : State) : Out :=
  issueOne (.sSrai d a n) (semSSrai d a n) s

/-- s.movi (R170). -/
def semSMovi (d : BitVec 6) (imm : BitVec 13) : Sem where
  eff e s := putRes e (.sreg d.toNat) (imm.signExtend 64) 1 0 s
def execSMovi (d : BitVec 6) (imm : BitVec 13) (s : State) : Out :=
  issueOne (.sMovi d imm) (semSMovi d imm) s

/-- s.movk (R170): replaces bits 16·hw + 15 to 16·hw. -/
def semSMovk (d : BitVec 6) (hw : BitVec 2) (imm : BitVec 16) : Sem :=
  semU d d fun x => binsW x (imm.zeroExtend 64) (16 * hw.toNat) 16
def execSMovk (d : BitVec 6) (hw : BitVec 2) (imm : BitVec 16) (s : State) : Out :=
  issueOne (.sMovk d hw imm) (semSMovk d hw imm) s

/-- s.clz (R171). -/
def semSClz (d a : BitVec 6) : Sem := semU d a fun x => clz64 x
def execSClz (d a : BitVec 6) (s : State) : Out := issueOne (.sClz d a) (semSClz d a) s

/-- s.ctz (R171). -/
def semSCtz (d a : BitVec 6) : Sem := semU d a fun x => ctz64 x
def execSCtz (d a : BitVec 6) (s : State) : Out := issueOne (.sCtz d a) (semSCtz d a) s

/-- s.pop (R171). -/
def semSPop (d a : BitVec 6) : Sem := semU d a fun x => pop64 x
def execSPop (d a : BitVec 6) (s : State) : Out := issueOne (.sPop d a) (semSPop d a) s

/-- s.bext (R172). -/
def semSBext (d a pos w1 : BitVec 6) : Sem := semU d a fun x => bextW x pos.toNat (w1.toNat + 1)
def execSBext (d a pos w1 : BitVec 6) (s : State) : Out :=
  issueOne (.sBext d a pos w1) (semSBext d a pos w1) s

/-- s.bins (R172): reads S[d] too. -/
def semSBins (d a pos w1 : BitVec 6) : Sem :=
  semR d d a 1 fun x y => binsW x y pos.toNat (w1.toNat + 1)
def execSBins (d a pos w1 : BitVec 6) (s : State) : Out :=
  issueOne (.sBins d a pos w1) (semSBins d a pos w1) s

/-- s.toa (R174): latency 2; a write to a0 is ignored. -/
def semSToa (d a : BitVec 6) : Sem where
  rows e := [sRow e.j a.toNat]
  eff e s := putRes e (.areg d.toNat) (e.x.rdS a.toNat) 2 0 s
def execSToa (d a : BitVec 6) (s : State) : Out := issueOne (.sToa d a) (semSToa d a) s

/-- s.froma (R174): latency 2; a0 reads zero. -/
def semSFroma (d a : BitVec 6) : Sem where
  rows e := [aRow e.j a.toNat]
  eff e s := putRes e (.sreg d.toNat) (e.x.softA e.s.free a.toNat) 2 0 s
def execSFroma (d a : BitVec 6) (s : State) : Out := issueOne (.sFroma d a) (semSFroma d a) s

/-- s.bc (R126, R174): the vector slots of the bundle read the new port (`Env.port`). -/
def semSBc (a : BitVec 6) : Sem where
  rows e := [sRow e.j a.toNat]
  eff e s := s.modCtx e.k e.j fun x => { x with port := e.x.rdS a.toNat }
def execSBc (a : BitVec 6) (s : State) : Out := issueOne (.sBc a) (semSBc a) s

/-- s.nop (R187): changes nothing but retired. -/
def semSNop : Sem := {}
def execSNop (s : State) : Out := issueOne .sNop semSNop s

end Sys2Proof.Machine
end

