-- ==== Sys2Proof/Machine/Flags.lean ====
section
/-!
DEFINITION. Status words and the flags in them: the CSR map and its views (R24, R37, R136, R141 to R143,
R184, R237, R288, R338 to R340), the raw port and the repair table (R337 to R340).
-/

namespace Sys2Proof.Machine

/-! ## The raw port (R338) -/

/-- Whether a row lies in its array (R338). -/
def rowOk (array row : Nat) : Bool :=
  match array with
  | 0 => decide (row < 131072)
  | 1 => decide (row < 65536)
  | 2 => decide (row < 16384)
  | 3 => decide (row < 16384)
  | 4 => decide (row < 16)
  | 5 => decide (row < 8192)
  | _ => false

/-- The stored bits of a row, errors included (R338, R293). -/
def Core.rawRow (c : Core) (now array row : Nat) : W64 :=
  (c.flips.filter fun f => f.array == array && f.row == row).foldl
    (fun w f => w ^^^ (1 <<< f.bit)) (c.content now array row)

/-- A read forces the injected bit (R340). -/
def Core.injected (c : Core) (array row : Nat) (v : W64) : W64 :=
  match c.stuck array row with
  | some (bit, val) =>
    let m : W64 := 1 <<< bit
    if val then v ||| m else v &&& ~~~m
  | none => v

/-- Whether the port works on an array: 0 to 3 and 5 in test mode for the sole resident context, 4 always
(R338). -/
def Core.portOpen (c : Core) (array row : Nat) : Bool :=
  rowOk array row && (array == 4 || (c.smode == 2 && decide (c.residents.length ≤ 1)))

/-- repair.data as it reads (R338). -/
def Core.rdataRead (c : Core) (now : Nat) : W64 :=
  let row := bitsOf c.ridx 0 20
  let array := bitsOf c.ridx 20 3
  if !c.portOpen array row then 0
  else if array = 4 then AMap.get c.repair row 0
  else c.injected array row (c.rawRow now array row)

/-- Stores into the instruction scratchpad that are ordered before fetch, and behind no store that is not, go
into it. -/
def Core.landStores (c : Core) : Core :=
  { c with imem := (c.iq.takeWhile (·.fenced)).foldl (fun m st => m.writeBytes st.addr st.data) c.imem,
           iq := c.iq.dropWhile (·.fenced) }

/-- A raw write of the instruction scratchpad: behind the stores that have committed, before those that have
not (R338). -/
def Core.putInstr (c : Core) (now a : Nat) (bs : List Byte) : Core :=
  let old := c.iq.takeWhile fun st => decide (st.t + 2 < now)
  { c with iq := old ++ [({ ctx := 4, addr := a, data := bs, t := 0, fenced := true } : IStore)] ++
      c.iq.drop old.length }.landStores

/-- A row with new contents and fresh check bits (R338). -/
def Core.putRow (c : Core) (now array row : Nat) (v : W64) : Core :=
  let bs := leBytes 8 v.toNat
  let c1 := c.fresh array row
  match array with
  | 2 => { c1 with va := AMap.upd c1.va (row / 16) 0 fun x => setRow x row }
  | 3 => { c1 with vb := AMap.upd c1.vb (row / 16) 0 fun x => setRow x row }
  | 5 => c1.putInstr now (row * 8) bs
  | a =>
    let c2 := match c1.rowSlot a row with
      | none => c1
      | some sl => match (c1.slotSb sl).stale with
        | none => c1
        | some tag =>
          let b : Mem := Mem.writeBytes [] 0 ((List.range 2048).map (Config.freeByte tag))
          c1.putSlot sl { sb := { c1.slotSb sl with stale := none }, bytes := b }
    { c2 with sp := c2.sp.writeBytes (rowAddr a row) bs }
where
  setRow (x : VReg) (row : Nat) : VReg :=
    ofElems 64 16 fun w => if w = row % 16 then v.toNat else elemOf 64 x w

/-- The resident contexts that run in a half (R138). -/
def Core.halfRuns (c : Core) (half : Nat) : List Nat := c.residents.filter fun j => (c.ctx j).half == half

/-- A write of repair.data (R338): a change of a repair entry is remembered, since its spare is cleared
when it next takes effect (R339). -/
def Core.rdataWrite (c : Core) (now : Nat) (v : W64) : Core :=
  let row := bitsOf c.ridx 0 20
  let array := bitsOf c.ridx 20 3
  if !c.portOpen array row then c
  else if array = 4 then
    let v' := v &&& 0xFFFFFF
    let active := if AMap.get c.repair row 0 = v' then c.active
      else match AMap.find? c.active row with
        | some w => AMap.set c.active row (w ||| (1 <<< 63))
        | none => c.active
    { c with repair := AMap.set c.repair row v', active := active }
  else if array = 5 ∧ c.halfRuns (row / 4096) ≠ [] then c
  else c.putRow now array row v

/-- The target (array, row) of a valid repair entry; none when the entry has no effect (R339). -/
def repairTarget (w : W64) : Option (Nat × Nat) :=
  let array := bitsOf w 21 3
  let row := bitsOf w 1 20
  if w.getLsbD 0 ∧ (array < 4 ∨ array = 5) ∧ rowOk array row then some (array, row) else none

/-- The targets of a table with the lowest entry that serves each (R339). -/
def serving (t : AMap W64) : List ((Nat × Nat) × (Nat × W64)) :=
  (List.range 16).foldl (fun acc k =>
    match (AMap.find? t k).bind fun w => (repairTarget w).map fun p => (p, w) with
    | none => acc
    | some (p, w) => if acc.any (·.1 == p) then acc else acc ++ [(p, (k, w))]) []

/-- Repairs take effect on leaving test mode (R337, R339): a row that a spare begins to serve reads
zero, and one that a spare stops serving has undefined contents (a free value, log entry 10). The array
holds the row that serves. -/
def Core.takeRepairs (c : Core) (now free : Nat) : Core :=
  let old := serving c.active
  let new := serving c.repair
  let c1 := old.foldl (fun c p =>
    if new.any (·.1 == p.1) then c
    else c.putRow now p.1.1 p.1.2 (BitVec.ofNat 64 (Config.freeNat free (p.1.1 * 2 ^ 20 + p.1.2)))) c
  let c2 := new.foldl (fun c p => if old.contains p then c else c.putRow now p.1.1 p.1.2 0) c1
  { c2 with active := c2.repair, inject := c2.inject &&& ~~~1 }

/-- A write of mode.smode (R337): ignored where it would enter or leave test mode beside another
resident context. -/
def Core.setSmode (c : Core) (j now free : Nat) (m : BitVec 2) : Core :=
  if m = c.smode then c
  else if (m = 2 ∨ c.smode = 2) ∧ c.residents.any (· != j) then c
  else if c.smode = 2 then { c.takeRepairs now free with smode := m }
  else { c with smode := m }

/-! ## CSR reads (R142, R143) -/

/-- Whether the U view of a CSR is zero (R142). -/
def csrHidden (n : Nat) : Bool := n ∈ [0x020, 0x021, 0x070, 0x071, 0x072]

def flag (b : Bool) (n : Nat) : W64 := if b then 1 <<< n else 0

/-- The image of the mode CSR (R143). -/
def modeImage (c : Core) (x : Ctx) : W64 :=
  flag x.priv 0 ||| (c.smode.zeroExtend 64 <<< 1) ||| flag c.pair 3 ||| BitVec.ofNat 64 (c.partner * 16)

/-- The image of regfoot (R24). -/
def regfoot (x : Ctx) : W64 :=
  BitVec.ofNat 64 (x.vaMap.length + x.vbMap.length * 16 + x.accMap.length * 256 + x.rot * 4096) |||
    flag x.persist 11

/-- The image of seg.count (R136). -/
def segCount (x : Ctx) : W64 :=
  x.commits.zeroExtend 64 ||| BitVec.ofNat 64 (x.rewinds * 2 ^ 32) ||| flag x.inSeg 34

/-- The value of a CSR for the context at hand, in its view (R141, R184). -/
def csrRead (s : State) (k j n : Nat) : W64 :=
  let c := s.core k
  let x := c.ctx j
  let dom := x.dom.getD 0
  if !x.priv && csrHidden n then 0
  else match n with
    | 0x000 => BitVec.ofNat 64 j
    | 0x001 => BitVec.ofNat 64 k
    | 0x002 => BitVec.ofNat 64 (k / 8 % 32)
    | 0x003 => BitVec.ofNat 64 (k / 256)
    | 0x004 => match x.dom with
      | some d => BitVec.ofNat 64 (s.dom d).owner
      | none => 0
    | 0x010 => BitVec.ofNat 64 dom
    | 0x011 => x.phase
    | 0x012 => flag (x.phase.getLsbD 0) 0 ||| flag (x.dom.isSome && (s.dom dom).pend) 1
    | 0x020 => modeImage c x
    | 0x021 => BitVec.ofNat 64 c.vec
    | 0x022 => x.trCause
    | 0x023 => x.trPc
    | 0x024 => x.trI0
    | 0x025 => x.trI1
    | 0x026 => x.trI2
    | 0x027 => x.trI3
    | 0x030 => flag c.hit 0 ||| flag c.wr 1
    | 0x031 => c.sAddr
    | 0x040 => x.mxStat
    | 0x041 => x.mxMode
    | 0x042 => x.mxCoord
    | 0x050 => BitVec.ofNat 64 x.segPc
    | 0x051 => segCount x
    | 0x060 => BitVec.ofNat 64 s.now
    | 0x061 => x.retired
    | 0x070 => c.ridx
    | 0x071 => c.rdataRead s.now
    | 0x072 => c.inject
    | 0x080 => regfoot x
    | _ => 0

/-! ## CSR writes (R184) -/

/-- The three writes. -/
inductive CsrOp where
  | write | set | clear
deriving DecidableEq, Repr

/-- A word whose rw bits are `rw` and whose w1c bits are `w1c` after a write (R184). -/
def csrMerge (op : CsrOp) (rw w1c old v : W64) : W64 :=
  match op with
  | .write => ((old &&& ~~~rw) ||| (v &&& rw)) &&& ~~~(v &&& w1c)
  | .set => old ||| (v &&& rw)
  | .clear => old &&& ~~~(v &&& (rw ||| w1c))

/-- A write to a CSR by the context at hand (R141, R143, R184, R237, R287, R338, R340). -/
def csrWrite (s : State) (k j : Nat) (op : CsrOp) (n : Nat) (v : W64) : State :=
  let c := s.core k
  let x := c.ctx j
  match n with
  | 0x040 => s.modCtx k j fun x => { x with mxStat := csrMerge op 0xFF00 7 x.mxStat v }
  | 0x041 => s.modCtx k j fun x => { x with mxMode := csrMerge op 0xFF03 0 x.mxMode v }
  | _ =>
    if !x.priv then s
    else match n with
      | 0x020 =>
        let m := csrMerge op 0x3FFE 0 (modeImage c x) v
        s.setCore k { c.setSmode j s.now s.free (m.extractLsb' 1 2) with
                      pair := m.getLsbD 3, partner := bitsOf m 4 10 }
      | 0x021 =>
        let w := (csrMerge op 0xFFC0 0 (BitVec.ofNat 64 c.vec) v).toNat
        if w = 0 ∨ 0x8000 ≤ w then s.setCore k { c with vec := w } else s
      | 0x023 => s.modCtx k j fun x => { x with trPc := csrMerge op 0xFFFF 0 x.trPc v }
      | 0x030 =>
        let w := csrMerge op 0 1 (flag c.hit 0) v
        s.setCore k { c with hit := w.getLsbD 0 }
      | 0x070 => s.setCore k { c with ridx := csrMerge op 0x7FFFFF 0 c.ridx v }
      | 0x071 => s.setCore k (c.rdataWrite s.now (csrMerge op (BitVec.allOnes 64) 0 (c.rdataRead s.now) v))
      | 0x072 =>
        if c.smode = 2 then s.setCore k { c with inject := csrMerge op 0x7FFFFFFF 0 c.inject v } else s
      | _ => s

end Sys2Proof.Machine
end

