-- ==== Sys2Proof/Machine/Control.lean ====
section
/-!
DEFINITION. Control instructions of the S slot: branches, loops, waits, locks, segments, fences, CSR
access, traps and return (R132 to R139, R175 to R186).
-/

namespace Sys2Proof.Machine

/-! ## Branches (R175, R176, R183) -/

/-- The target of a B form: the bundle's address plus the signed offset. -/
def branchTo (e : Env) (off : BitVec 19) : Int := (e.pc : Int) + off.toInt

/-- Whether a target lies in the running half (R138). -/
def inHalf (x : Ctx) (t : Int) : Bool := decide (0 ≤ t) && decide (t.toNat / 0x8000 = x.half)

/-- A branch to a label: the target is checked whether or not it is taken (R175). -/
def semBranch (i : Instr) (off : BitVec 19) (rows : Nat → List RowRef) (taken : Env → Bool) : Sem where
  rows e := rows e.j
  check e := if inHalf e.x (branchTo e off) then none else some (ill e i)
  flow e := if taken e then { target := some (branchTo e off).toNat } else {}

/-- s.bz (R175). -/
def semSBz (t : BitVec 6) (off : BitVec 19) : Sem :=
  semBranch (.sBz t off) off (fun j => [sRow j t.toNat]) fun e => e.x.rdS t.toNat == 0
def execSBz (t : BitVec 6) (off : BitVec 19) (s : State) : Out := issueOne (.sBz t off) (semSBz t off) s

/-- s.bnz (R175). -/
def semSBnz (t : BitVec 6) (off : BitVec 19) : Sem :=
  semBranch (.sBnz t off) off (fun j => [sRow j t.toNat]) fun e => e.x.rdS t.toNat != 0
def execSBnz (t : BitVec 6) (off : BitVec 19) (s : State) : Out := issueOne (.sBnz t off) (semSBnz t off) s

/-- s.blt (R175): signed. -/
def semSBlt (t : BitVec 6) (off : BitVec 19) : Sem :=
  semBranch (.sBlt t off) off (fun j => [sRow j t.toNat]) fun e => (e.x.rdS t.toNat).slt 0
def execSBlt (t : BitVec 6) (off : BitVec 19) (s : State) : Out := issueOne (.sBlt t off) (semSBlt t off) s

/-- s.bge (R175): signed. -/
def semSBge (t : BitVec 6) (off : BitVec 19) : Sem :=
  semBranch (.sBge t off) off (fun j => [sRow j t.toNat]) fun e => !(e.x.rdS t.toNat).slt 0
def execSBge (t : BitVec 6) (off : BitVec 19) (s : State) : Out := issueOne (.sBge t off) (semSBge t off) s

/-- s.jmp (R176). -/
def semSJmp (off : BitVec 19) : Sem := semBranch (.sJmp off) off (fun _ => []) fun _ => true
def execSJmp (off : BitVec 19) (s : State) : Out := issueOne (.sJmp off) (semSJmp off) s

/-- A jump to an address in an s-register: bits 63:16 are zero (R176). -/
def semJumpReg (i : Instr) (n : Nat) : Sem where
  rows e := [sRow e.j n]
  check e :=
    let v := (e.x.rdS n).toNat
    if v < 65536 ∧ inHalf e.x v then none else some (ill e i)
  flow e := { target := some (bitsOf (e.x.rdS n) 0 16) }

/-- s.jr (R176). -/
def semSJr (a : BitVec 6) : Sem := semJumpReg (.sJr a) a.toNat
def execSJr (a : BitVec 6) (s : State) : Out := issueOne (.sJr a) (semSJr a) s

/-- s.call (R176): S[63] is the address of the byte after the bundle, with latency 1. -/
def semSCall (off : BitVec 19) : Sem :=
  { semBranch (.sCall off) off (fun _ => []) (fun _ => true) with
    eff := fun e s => putRes e (.sreg 63) (BitVec.ofNat 64 e.next) 1 0 s }
def execSCall (off : BitVec 19) (s : State) : Out := issueOne (.sCall off) (semSCall off) s

/-- s.ret (R176). -/
def semSRet : Sem := semJumpReg .sRet 63
def execSRet (s : State) : Out := issueOne .sRet semSRet s

/-- s.bswap (R183): the target lies in the other half, and not in a loop body. -/
def semSBswap (off : BitVec 19) : Sem where
  check e :=
    let t := branchTo e off
    if 0 ≤ t ∧ t < 65536 ∧ !inHalf e.x t ∧ e.x.loop.isNone then none else some (ill e (.sBswap off))
  flow e := { target := some (branchTo e off).toNat }
def execSBswap (off : BitVec 19) (s : State) : Out := issueOne (.sBswap off) (semSBswap off) s

/-! ## Loops (R132, R133, R177, R178) -/

/-- Starts a nest over the `len` bundles that follow, or skips them when a trip count is 0. -/
def semLoop (check : Env → Option Trap) (rows : Env → List RowRef) (len : Env → Nat)
    (levels : Env → List Level) : Sem where
  check := check
  rows := rows
  eff e s :=
    s.modCtx e.k e.j fun x =>
      if (levels e).any (·.trip == 0) then { x with susp := none }
      else { x with susp := none, loop := some { start := e.next, len := len e, levels := levels e, cnt := 0 } }
  flow e :=
    if (levels e).any (·.trip == 0) then
      { target := some (e.c.body e.s.free e.x.half 513 (len e) e.next).2, inHalf := true, gap := true }
    else {}

/-- s.loop (R177). -/
def semSLoop (a : BitVec 6) (len1 : BitVec 5) : Sem :=
  semLoop (fun e => if e.x.loop.isSome then some (ill e (.sLoop a len1)) else none)
    (fun e => [sRow e.j a.toNat]) (fun _ => len1.toNat + 1)
    fun e => [{ trip := bitsOf (e.x.rdS a.toNat) 0 32, areg := 0, inc := 0, i := 0 }]
def execSLoop (a : BitVec 6) (len1 : BitVec 5) (s : State) : Out :=
  issueOne (.sLoop a len1) (semSLoop a len1) s

/-- The words of a loop-nest descriptor, read as a class-0 LD of the bundle (R165, R178). -/
def nestWords (e : Env) (a : BitVec 6) : List W64 :=
  wordsAt (e.c.ldBytes e.j 0 e.s.free (e.x.rdS a.toNat).toNat 64) 8

/-- The limits of R133. -/
def nestBad (ws : List W64) : Bool :=
  let w0 := ws.getD 0 0
  let n := bitsOf w0 0 3
  n == 0 || n == 7 || bitsOf w0 3 5 != 0 || bitsOf w0 13 51 != 0 || ws.getD 7 0 != 0 ||
    (List.range n).any fun l => bitsOf (ws.getD (l + 1) 0) 37 3 != 0

/-- The levels of a descriptor (R133). -/
def nestLevels (ws : List W64) : List Level :=
  (List.range (bitsOf (ws.getD 0 0) 0 3)).map fun l =>
    let w := ws.getD (l + 1) 0
    { trip := bitsOf w 0 32, areg := bitsOf w 32 5, inc := (w.extractLsb' 40 24).toInt, i := 0 }

/-- s.nest (R133, R178). -/
def semSNest (a : BitVec 6) : Sem :=
  semLoop
    (fun e =>
      let addr := e.x.rdS a.toNat
      if e.x.loop.isSome || !goodDesc addr 64 then some (ill e (.sNest a))
      else match memTrap e (.sNest a) ((List.range 8).map fun i => addr.toNat + 8 * i) 8 true with
        | some t => some t
        | none => if nestBad (nestWords e a) then some (ill e (.sNest a)) else none)
    (fun e => [sRow e.j a.toNat]) (fun e => bitsOf ((nestWords e a).getD 0 0) 8 5 + 1)
    fun e => nestLevels (nestWords e a)
def execSNest (a : BitVec 6) (s : State) : Out := issueOne (.sNest a) (semSNest a) s

/-! ## Waits, locks, segments, fences (R179 to R182) -/

/-- s.wait (R179). -/
def semSWait (a : BitVec 6) : Sem where
  rows e := [sRow e.j a.toNat]
  flow e :=
    let v := (e.x.rdS a.toNat).toNat
    if v ≤ e.s.now then {} else { waits := [.cycle v] }
def execSWait (a : BitVec 6) (s : State) : Out := issueOne (.sWait a) (semSWait a) s

/-- s.lock (R69, R180): replaces a hold of the core's context. -/
def semSLock (a : BitVec 6) (count : BitVec 13) : Sem where
  rows e := [sRow e.j a.toNat]
  eff e s := s.modCore e.k fun c =>
    { c with lock := some { ctx := e.j, mask := (e.x.rdS a.toNat).extractLsb' 0 32,
                            left := count.toNat } }
def execSLock (a : BitVec 6) (count : BitVec 13) (s : State) : Out :=
  issueOne (.sLock a count) (semSLock a count) s

/-- s.seg.entry (R134, R181): the segment opens at the next bundle, over an open one that it commits. -/
def semSSegEntry : Sem where
  check e := if e.x.loop.isSome then some (ill e .sSegEntry) else none
  post e s := s.modCore e.k fun c => (c.commitSeg e.j s.now).openSeg e.j (c.skipPad s.free e.x.half e.next)
def execSSegEntry (s : State) : Out := issueOne .sSegEntry semSSegEntry s

/-- s.seg.commit (R134, R181): the pops of its own bundle are freed too. -/
def semSSegCommit : Sem where
  check e := if e.x.loop.isSome then some (ill e .sSegCommit) else none
  post e s := s.modCore e.k fun c => c.commitSeg e.j s.now
def execSSegCommit (s : State) : Out := issueOne .sSegCommit semSSegCommit s

/-- The instruction scratchpad after a fence of a context: its own st.i stores are ordered before fetch, those
of another context only by a fence of that one (R139, R182, R183, R196). -/
def Core.ifence (c : Core) (j : Nat) : Core :=
  let iq := c.iq.map fun st : IStore => if st.ctx = j then { st with fenced := true } else st
  { c with iq := iq }.landStores

/-- s.ifence (R182): the stores of its own bundle too; two cycles are lost. -/
def semSIfence : Sem where
  post e s := s.modCore e.k fun c => c.ifence e.j
  flow _ := { gap := true }
def execSIfence (s : State) : Out := issueOne .sIfence semSIfence s

/-! ## CSR access (R184) -/

/-- s.csrr (R184): latency 1, in the view of the context. -/
def semSCsrr (d : BitVec 6) (csr : BitVec 13) : Sem where
  eff e s := putRes e (.sreg d.toNat) (csrRead e.s e.k e.j csr.toNat) 1 0 s
def execSCsrr (d : BitVec 6) (csr : BitVec 13) (s : State) : Out :=
  issueOne (.sCsrr d csr) (semSCsrr d csr) s

/-- A CSR write of S[a] (R184): it takes effect for the next bundle. -/
def semCsrWrite (op : CsrOp) (a : BitVec 6) (csr : BitVec 13) : Sem where
  rows e := [sRow e.j a.toNat]
  post e s := csrWrite s e.k e.j op csr.toNat (e.x.rdS a.toNat)

/-- s.csrw (R184). -/
def semSCsrw (a : BitVec 6) (csr : BitVec 13) : Sem := semCsrWrite .write a csr
def execSCsrw (a : BitVec 6) (csr : BitVec 13) (s : State) : Out :=
  issueOne (.sCsrw a csr) (semSCsrw a csr) s

/-- s.csrs (R184). -/
def semSCsrs (a : BitVec 6) (csr : BitVec 13) : Sem := semCsrWrite .set a csr
def execSCsrs (a : BitVec 6) (csr : BitVec 13) (s : State) : Out :=
  issueOne (.sCsrs a csr) (semSCsrs a csr) s

/-- s.csrc (R184). -/
def semSCsrc (a : BitVec 6) (csr : BitVec 13) : Sem := semCsrWrite .clear a csr
def execSCsrc (a : BitVec 6) (csr : BitVec 13) (s : State) : Out :=
  issueOne (.sCsrc a csr) (semSCsrc a csr) s

/-! ## Traps and return (R185, R186) -/

/-- s.trap (R185): cause 0x12 with the code and the address after the bundle. -/
def semSTrap (code : BitVec 13) : Sem where
  check e := some { cause := 0x12, slot := some 0, i0 := code.zeroExtend 64,
                    i1 := BitVec.ofNat 64 e.next }
def execSTrap (code : BitVec 13) (s : State) : Out := issueOne (.sTrap code) (semSTrap code) s

/-- s.brk (R185): cause 0x13. -/
def semSBrk : Sem where
  check e := some { cause := 0x13, slot := some 0, i1 := BitVec.ofNat 64 e.next }
def execSBrk (s : State) : Out := issueOne .sBrk semSBrk s

/-- s.eret (R186, R290, R303): cause 0x02 in U. -/
def semSEret : Sem where
  priv e := if e.x.priv then none else some (privileged .s (rawOf .sEret).toNat e.hdr)
  post e s := s.modCore e.k fun c => c.eret e.j s.now s.free
  flow _ := { done := true }
def execSEret (s : State) : Out := issueOne .sEret semSEret s

end Sys2Proof.Machine
end

