-- ==== Sys2Proof/Machine/LoadStore.lean ====
section
/-!
DEFINITION. The LD and ST slots (R188 to R198): loads, stores, ring access, the store into the
instruction scratchpad, and address arithmetic.
-/

namespace Sys2Proof.Machine

/-! ## Loads (R191 to R193) -/

/-- The elements of a load as the core gives them in the issue cycle (R95, R97). -/
def Core.loads (c : Core) (j : Nat) (cls : BitVec 2) (now free : Nat) (as : List Nat) (w : Nat) (sign : Bool) : Load :=
  let l : Load := { cls := cls.toNat, sign := sign, addrs := as, w := w, t := now,
                    bytes := as.flatMap fun a => c.ldBytes j cls.toNat free a w }
  { l with past := (c.seenStores j cls.toNat free).filterMap fun p =>
      if !p.2 && l.touches p.1.addr p.1.data.length then some p.1.cls else none }

/-- The youngest result in flight of a context is that of a load. -/
def Ctx.noteLoad (x : Ctx) (l : Load) : Ctx :=
  { x with pend := x.pend.dropLast ++ (x.pend.getLast?.map fun p => { p with load := some l }).toList }

/-- Delivers a load no later than t + 5, after the touches and corrections of its addresses (R130,
R189, R293). It does not move the latches (R192). -/
def putLoad (e : Env) (cls : BitVec 2) (as : List Nat) (w : Nat) (sign : Bool) (d : Dest) (s : State) : State :=
  s.modCore e.k fun c =>
    let l := c.loads e.j cls s.now s.free as w sign
    let c1 := ((c.touchAll e.j as false).scrubMem as w).result s.now s.free e.j d allLanes l.value 5 2
    c1.setCtx e.j ((c1.ctx e.j).noteLoad l)

/-- A scalar load of width `w`, with its extension. -/
def semLoad (i : Instr) (o : LsOp) (w : Nat) (sign : Bool) : Sem where
  rows e := addrRows e.j o.base o.idx
  check e := memTrap e i [lsAddr e.x o w] w true
  eff e s := putLoad e o.cls [lsAddr e.x o w] w sign (lsDest o.file o.reg.toNat) s

/-- The illegal-operand check of a register beyond the footprint, before the memory checks (R192). -/
def regTrap (e : Env) (i : Instr) (f : LsFile) (reg : BitVec 10) : Option Trap :=
  if lsFootprint e.x f reg.toNat then some (ill e i) else none

/-- ld.b (R191). -/
def semLdB (o : LsOp) : Sem := semLoad (.ldB o) o 1 true
def execLdB (o : LsOp) (s : State) : Out := issueOne (.ldB o) (semLdB o) s

/-- ld.bu (R191). -/
def semLdBu (o : LsOp) : Sem := semLoad (.ldBu o) o 1 false
def execLdBu (o : LsOp) (s : State) : Out := issueOne (.ldBu o) (semLdBu o) s

/-- ld.h (R191). -/
def semLdH (o : LsOp) : Sem := semLoad (.ldH o) o 2 true
def execLdH (o : LsOp) (s : State) : Out := issueOne (.ldH o) (semLdH o) s

/-- ld.hu (R191). -/
def semLdHu (o : LsOp) : Sem := semLoad (.ldHu o) o 2 false
def execLdHu (o : LsOp) (s : State) : Out := issueOne (.ldHu o) (semLdHu o) s

/-- ld.w (R191). -/
def semLdW (o : LsOp) : Sem := semLoad (.ldW o) o 4 true
def execLdW (o : LsOp) (s : State) : Out := issueOne (.ldW o) (semLdW o) s

/-- ld.wu (R191). -/
def semLdWu (o : LsOp) : Sem := semLoad (.ldWu o) o 4 false
def execLdWu (o : LsOp) (s : State) : Out := issueOne (.ldWu o) (semLdWu o) s

/-- ld.d (R191). -/
def semLdD (o : LsOp) : Sem := semLoad (.ldD o) o 8 false
def execLdD (o : LsOp) (s : State) : Out := issueOne (.ldD o) (semLdD o) s

/-- ld.v (R192): 128 bytes, all lanes. -/
def semLdV (o : LsOp) : Sem where
  rows e := addrRows e.j o.base o.idx
  check e := (regTrap e (.ldV o) o.file o.reg).or (memTrap e (.ldV o) [lsAddr e.x o 128] 128 true)
  eff e s := putLoad e o.cls [lsAddr e.x o 128] 128 false (lsDest o.file o.reg.toNat) s
def execLdV (o : LsOp) (s : State) : Out := issueOne (.ldV o) (semLdV o) s

/-- The 32 element addresses of a strided access, in lane order (R193). -/
def vsAddrs (x : Ctx) (o : LsOp) : List Nat := (List.range 32).map (vsAddr x o)

/-- ld.vs (R193): lane i from element i. -/
def semLdVs (o : LsOp) : Sem where
  rows e := addrRows e.j o.base o.idx
  check e := (regTrap e (.ldVs o) o.file o.reg).or (memTrap e (.ldVs o) (vsAddrs e.x o) 4 true)
  eff e s := putLoad e o.cls (vsAddrs e.x o) 4 false (lsDest o.file o.reg.toNat) s
def execLdVs (o : LsOp) (s : State) : Out := issueOne (.ldVs o) (semLdVs o) s

/-! ## Ring reads (R194) -/

/-- 0x10 with the image of the ring (R289). -/
def ringTrap (e : Env) (i : Instr) (r : Nat) : Trap :=
  let g := e.c.ring r
  { cause := 0x10, slot := some (bitOf i),
    i0 := BitVec.ofNat 64 (r + (if g.cfg then 16 else 0) + (if g.win.isSome then 32 else 0) +
      g.tail * 2 ^ 16 + g.head * 2 ^ 32 + g.free * 2 ^ 48),
    i1 := rawOf i }

/-- Whether a ring has a slot to read (R194, R227). -/
def Core.ringReady (c : Core) (r : Nat) : Bool :=
  (c.ring r).cfg && decide ((c.ring r).filled ≠ 0)

/-- Pops a ring once for its bundle, however many slots carry its last-read mark (R66, R194). -/
def popOnce (e : Env) (r : Nat) (s : State) : State :=
  s.modCore e.k fun c =>
    let g := c.ring r
    if g.head = (e.c.ring r).head then c.setRing r (g.pop e.j 1 e.x.inSeg) else c

/-- The width of a ring access (R194). -/
def ringWidth (o : RingOp) : Nat := match o.file with | .s => 8 | _ => 128

/-- The byte that a ld.ring reads first. -/
def ringAddr (e : Env) (o : RingOp) : Nat :=
  (e.c.ring o.ring.toNat).headSlot * 2048 + o.off.toNat

/-- ld.ring (R194). -/
def semLdRing (o : RingOp) : Sem where
  check e :=
    (regTrap e (.ldRing o) o.file o.reg).or
      (if !e.c.ringReady o.ring.toNat then some (ringTrap e (.ldRing o) o.ring.toNat)
       else memTrap e (.ldRing o) [ringAddr e o] (ringWidth o) true)
  eff e s :=
    let s1 := putLoad e o.cls [ringAddr e o] (ringWidth o) false (lsDest o.file o.reg.toNat) s
    if o.lr then popOnce e o.ring.toNat s1 else s1
def execLdRing (o : RingOp) (s : State) : Out := issueOne (.ldRing o) (semLdRing o) s

/-! ## Stores (R191 to R193, R195) -/

/-- The store that wins where two independent stores of a context touch a byte: either (R97; a free
value for each unit). The later store then keeps the earlier one's bytes. -/
def mergeIndep (q : List Store) (free u : Nat) (st : Store) : Store :=
  q.foldl (fun st p =>
    if p.ctx = st.ctx ∧ indep p.cls st.cls ∧ Config.freeBit free (128 + u) then
      { st with data := (List.range st.data.length).map fun i =>
          let a := st.addr + i
          if p.addr ≤ a ∧ a < p.addr + p.data.length then p.data.getD (a - p.addr) 0
          else st.data.getD i 0 }
    else st) st

/-- Adds the address and data of a store to the CRC that a pair compares (R297). -/
def Ctx.crcStore (x : Ctx) (a : Nat) (bs : List Byte) : Ctx :=
  { x with stCrc := crcBytes x.stCrc (leBytes 8 a ++ bs) }

/-- The loads of earlier bundles that are independent of a store may yet read it (R97, R198); those up to its own
come before a store of class 0. -/
def Core.overtakeBy (c : Core) (free : Nat) (st : Store) : Core :=
  if st.cls = 0 then c.setCtx st.ctx ((c.ctx st.ctx).loadsBefore 0 st.t)
  else c.overtake st.ctx free st.cls (st.t - 1) st.addr st.data.length fun _ b => st.data.getD (b - st.addr) 0

/-- Issues the units of a store, in order: each is dropped where it is out of range or in a guard slot,
and otherwise waits for its commit at t + 2 (R95, R189). -/
def putStores (e : Env) (cls : BitVec 2) (us : List (Nat × List Byte)) (s : State) : State :=
  s.modCore e.k fun c =>
    let c1 := c.touchAll e.j (us.map (·.1)) true
    let c2 := us.zipIdx.foldl (fun c u =>
      if c.offLimits u.1.1 then c
      else
        let st := mergeIndep (c.stq.filter fun p => decide (p.t < s.now)) s.free u.2
          { ctx := e.j, addr := u.1.1, data := u.1.2, cls := cls.toNat, t := s.now }
        let c' := c.overtakeBy s.free st
        { c' with stq := c'.stq ++ [st] }) c1
    us.foldl (fun c u => c.setCtx e.j ((c.ctx e.j).crcStore u.1 u.2)) c2

/-- The byte that a st.ring writes first: in the slot at tail (R195). -/
def tailAddr (e : Env) (o : RingOp) : Nat :=
  let g := e.c.ring o.ring.toNat
  (g.base + g.tail % g.len) * 2048 + o.off.toNat

/-- The units of a st.vs, in lane order (R193). -/
def vsUnits (e : Env) (o : LsOp) : List (Nat × List Byte) :=
  let bs := lsSource e o.file o.reg.toNat 128
  (List.range 32).map fun i => (vsAddr e.x o i, (bs.drop (4 * i)).take 4)

/-- The units that an ST slot writes: addresses and bytes (R191 to R193, R195). -/
def storeUnits (e : Env) : Instr → List (Nat × List Byte)
  | .stB o => [(lsAddr e.x o 1, lsSource e o.file o.reg.toNat 1)]
  | .stH o => [(lsAddr e.x o 2, lsSource e o.file o.reg.toNat 2)]
  | .stW o => [(lsAddr e.x o 4, lsSource e o.file o.reg.toNat 4)]
  | .stD o => [(lsAddr e.x o 8, lsSource e o.file o.reg.toNat 8)]
  | .stV o => [(lsAddr e.x o 128, lsSource e o.file o.reg.toNat 128)]
  | .stVs o => vsUnits e o
  | .stRing o => [(tailAddr e o, lsSource e o.file o.reg.toNat (ringWidth o))]
  | _ => []

/-- A scalar store of width `w`. -/
def semStore (i : Instr) (o : LsOp) (w : Nat) : Sem where
  rows e := addrRows e.j o.base o.idx ++ lsRegRows e.x e.j o.file o.reg.toNat
  check e := (regTrap e i o.file o.reg).or (memTrap e i [lsAddr e.x o w] w false)
  eff e s := putStores e o.cls (storeUnits e i) s

/-- st.b (R191). -/
def semStB (o : LsOp) : Sem := semStore (.stB o) o 1
def execStB (o : LsOp) (s : State) : Out := issueOne (.stB o) (semStB o) s

/-- st.h (R191). -/
def semStH (o : LsOp) : Sem := semStore (.stH o) o 2
def execStH (o : LsOp) (s : State) : Out := issueOne (.stH o) (semStH o) s

/-- st.w (R191). -/
def semStW (o : LsOp) : Sem := semStore (.stW o) o 4
def execStW (o : LsOp) (s : State) : Out := issueOne (.stW o) (semStW o) s

/-- st.d (R191). -/
def semStD (o : LsOp) : Sem := semStore (.stD o) o 8
def execStD (o : LsOp) (s : State) : Out := issueOne (.stD o) (semStD o) s

/-- st.v (R192). -/
def semStV (o : LsOp) : Sem := semStore (.stV o) o 128
def execStV (o : LsOp) (s : State) : Out := issueOne (.stV o) (semStV o) s

/-- st.vs (R193): in lane order, so the highest lane wins. -/
def semStVs (o : LsOp) : Sem where
  rows e := addrRows e.j o.base o.idx ++ lsRegRows e.x e.j o.file o.reg.toNat
  check e := (regTrap e (.stVs o) o.file o.reg).or (memTrap e (.stVs o) (vsAddrs e.x o) 4 false)
  eff e s := putStores e o.cls (storeUnits e (.stVs o)) s
def execStVs (o : LsOp) (s : State) : Out := issueOne (.stVs o) (semStVs o) s

/-- st.ring (R195): the slot at tail, before it is published. -/
def semStRing (o : RingOp) : Sem where
  rows e := lsRegRows e.x e.j o.file o.reg.toNat
  check e :=
    let g := e.c.ring o.ring.toNat
    (regTrap e (.stRing o) o.file o.reg).or
      (if !g.cfg || g.win.isSome || g.open_ == 0 then some (ringTrap e (.stRing o) o.ring.toNat)
       else memTrap e (.stRing o) [tailAddr e o] (ringWidth o) false)
  eff e s := putStores e o.cls (storeUnits e (.stRing o)) s
def execStRing (o : RingOp) (s : State) : Out := issueOne (.stRing o) (semStRing o) s

/-! ## Reads of an X slot (R241) -/

/-- The stores of a bundle. -/
def Env.storesOf (e : Env) (i : Instr) : List Store :=
  (((storeUnits e i).filter fun u => !e.c.offLimits u.1).map fun u =>
    { ctx := e.j, addr := u.1, data := u.2, cls := ((lsClass i).map (·.2)).getD 0, t := e.s.now })

/-- The core as an X slot of the bundle sees it: with the stores of its own bundle (R96, R241). -/
def Env.xCore (e : Env) : Core := { e.c with stq := e.c.stq ++ e.ins.flatMap e.storesOf }

/-- The class of the accesses of the bundle's X slot: a release mark orders them after those of every class
(R97, R100). -/
def Env.xClass (e : Env) : Nat :=
  ((e.ins.find? fun i => (encode i).slot.map (·.1) == some .x).map orderClass).getD 0

/-- Bytes that an X slot reads at issue. -/
def Env.xBytes (e : Env) (a n : Nat) : List Byte := e.xCore.ldBytes e.j e.xClass e.s.free a n

/-- The cause that an engine finds in the blocks and rows it reads at issue. -/
def Env.xFault (e : Env) (a n : Nat) : Nat := e.c.engFault a n

/-! ## Instruction-scratchpad store (R196) -/

/-- The rows of 8 bytes that `n` bytes at an address cover whole. -/
def fullRows (a n : Nat) : List Nat :=
  (List.range (n / 8)).map (fun i => (a + 7) / 8 + i) |>.filter fun r => decide (8 * r + 8 ≤ a + n)

/-- The width of a st.i (R196). -/
def stiWidth (o : LsOp) : Nat := match o.file with | .s => 8 | .a => 8 | _ => 128

/-- The instruction-scratchpad address: bits 63:16 are ignored (R196). -/
def stiAddr (x : Ctx) (o : LsOp) : Nat := lsAddr x o (stiWidth o) % 65536

/-- Whether a unit reaches the handler lines (R287). -/
def Core.handlerLine (c : Core) (a w : Nat) : Bool := decide (c.vec ≠ 0) && decide (c.vec < a + w)

/-- The bitmask of the resident contexts that run in a half (R289). -/
def Core.runners (c : Core) (half : Nat) : Nat :=
  ((c.residents.filter fun j => (c.ctx j).half == half).map fun j => 2 ^ j).sum

/-- st.i (R196): 0x02 for handler lines from U (R287), 0x14 for a running half (R139). -/
def semStI (o : LsOp) : Sem where
  rows e := addrRows e.j o.base o.idx ++ lsRegRows e.x e.j o.file o.reg.toNat
  priv e :=
    if !e.x.priv && e.c.handlerLine (stiAddr e.x o) (stiWidth o) then
      some (privileged .st (rawOf (.stI o)).toNat e.hdr)
    else none
  check e :=
    let a := stiAddr e.x o
    let m := e.c.runners (a / 0x8000)
    (regTrap e (.stI o) o.file o.reg).or
      (if m = 0 then none
       else some { cause := 0x14, slot := some 3, i0 := BitVec.ofNat 64 a, i1 := BitVec.ofNat 64 m })
  eff e s :=
    let a := stiAddr e.x o
    let bs := lsSource e o.file o.reg.toNat (stiWidth o)
    s.modCore e.k fun c =>
      let rows := fullRows a bs.length
      let c0 := c.freshRows (rows.map fun r => (5, r))
      let c1 := { c0 with iq := c0.iq ++ [({ ctx := e.j, addr := a, data := bs, t := s.now,
                                              was := rows.filter fun r => decide (2 ≤ c.rowFlips 5 r) } : IStore)] }
      c1.setCtx e.j ((c1.ctx e.j).crcStore a bs)
def execStI (o : LsOp) (s : State) : Out := issueOne (.stI o) (semStI o) s

/-! ## Address arithmetic (R197) -/

/-- The header bit of the slot of an address form. -/
def agBit : AgSlot → Nat
  | .ld => 2
  | .st => 3

/-- An address form: latency 1, into the a-file. -/
def semAg (slot : AgSlot) (d b i : BitVec 5) (f : (Nat → W64) → W64) : Sem where
  rows e := addrRows e.j b i
  eff e s := putRes e (.areg d.toNat) (f (e.x.softA e.s.free)) 1 (agBit slot) s

/-- ag.add (R197). -/
def semAgAdd (slot : AgSlot) (d b i : BitVec 5) : Sem :=
  semAg slot d b i fun a => a b.toNat + a i.toNat
def execAgAdd (slot : AgSlot) (d b i : BitVec 5) (s : State) : Out :=
  issueOne (.agAdd slot d b i) (semAgAdd slot d b i) s

/-- ag.addi (R197). -/
def semAgAddi (slot : AgSlot) (d b : BitVec 5) (off : BitVec 18) : Sem :=
  semAg slot d b 0 fun a => a b.toNat + off.signExtend 64
def execAgAddi (slot : AgSlot) (d b : BitVec 5) (off : BitVec 18) (s : State) : Out :=
  issueOne (.agAddi slot d b off) (semAgAddi slot d b off) s

/-- ag.mov (R197). -/
def semAgMov (slot : AgSlot) (d b : BitVec 5) : Sem := semAg slot d b 0 fun a => a b.toNat
def execAgMov (slot : AgSlot) (d b : BitVec 5) (s : State) : Out :=
  issueOne (.agMov slot d b) (semAgMov slot d b) s

/-- The circular step: one correction, unsigned compares (R197). -/
def wrapStep (buf x : W64) : W64 :=
  let st : W64 := (buf.extractLsb' 0 32).zeroExtend 64
  let en : W64 := (buf.extractLsb' 32 32).zeroExtend 64
  if st < en then
    if en ≤ x then x - (en - st) else if x < st then x + (en - st) else x
  else x

/-- ag.wrap (R197). -/
def semAgWrap (slot : AgSlot) (d b i : BitVec 5) (off : BitVec 18) : Sem :=
  semAg slot d b i fun a => wrapStep (a i.toNat) (a b.toNat + off.signExtend 64)
def execAgWrap (slot : AgSlot) (d b i : BitVec 5) (off : BitVec 18) (s : State) : Out :=
  issueOne (.agWrap slot d b i off) (semAgWrap slot d b i off) s

end Sys2Proof.Machine
end

