-- ==== Sys2Proof/Machine/Vector.lean ====
section
/-!
DEFINITION. The VA and VB slots (R199 to R224): one meaning per instruction over shared element-wise
forms. Every instruction is illegal in an exchange superstep (R38).
-/

namespace Sys2Proof.Machine

/-! ## Shared forms (R199) -/

/-- A vector instruction that writes a register of its own file with latency `lat`. -/
def semV (i : Instr) (o : VOp) (lat : Nat) (val : Env → VReg) : Sem where
  super := .compute
  check e := vFootprint e i
  rows e := vRows e i
  eff e s := putVec e o lat (activeLanes e o) (val e) (putHolds e i o s)

/-- The second and third sources. -/
def vsrc2 (e : Env) (o : VOp) : VReg := vsrc e o.unit o.fmt 2 o.s2.toNat
def vsrc3 (e : Env) (o : VOp) : VReg := vsrc e o.unit o.fmt 3 o.s3.toNat

/-- An operation on each element of one, two or three sources. -/
def map1 (i : Instr) (o : VOp) (f : Nat → Nat) (e : Env) : VReg :=
  let w := o.fmt.width
  let a := vsrc1 e i o
  ofElems w o.fmt.count fun x => f (elemOf w a x)

def map2 (i : Instr) (o : VOp) (f : Nat → Nat → Nat) (e : Env) : VReg :=
  let w := o.fmt.width
  let a := vsrc1 e i o
  let b := vsrc2 e o
  ofElems w o.fmt.count fun x => f (elemOf w a x) (elemOf w b x)

def map3 (i : Instr) (o : VOp) (f : Nat → Nat → Nat → Nat) (e : Env) : VReg :=
  let w := o.fmt.width
  let a := vsrc1 e i o
  let b := vsrc2 e o
  let c := vsrc3 e o
  ofElems w o.fmt.count fun x => f (elemOf w a x) (elemOf w b x) (elemOf w c x)

/-- The lane of an element. -/
def laneOf (f : Fmt) (x : Nat) : Nat := x / (f.count / 32)

/-- Whether an element lies in an active lane. -/
def elemOn (f : Fmt) (lanes : BitVec 32) (x : Nat) : Bool := lanes.getLsbD (laneOf f x)

/-- The elements of the active lanes of a register, in element order (R218). -/
def activeSet (f : Fmt) (lanes : BitVec 32) (v : VReg) : List Nat :=
  ((List.range f.count).filter (elemOn f lanes)).map (elemOf f.width v)

/-- An integer result: wrapped, or clamped under code 101 (R199, R209). -/
def intOut (f : Fmt) (r : Rnd) (v : Int) : Nat := if r = .sat then clampS f.width v else wrap f.width v

/-- The signed value of an element. -/
def sElem (f : Fmt) (x : Nat) : Int := sval f.width x

/-! ## Floating arithmetic (R202) -/

/-- The rounded sum of exact terms. -/
def sumOut (o : VOp) (vs : List Val) : Nat := o.fmt.round o.rnd (sumVals o.rnd vs)

/-- v.add (R202). -/
def semVAdd (o : VOp) : Sem := semV (.vAdd o) o 2 <| map2 (.vAdd o) o fun a b => sumOut o [o.fmt.val a, o.fmt.val b]
def execVAdd (o : VOp) (s : State) : Out := issueOne (.vAdd o) (semVAdd o) s

/-- v.sub (R202). -/
def semVSub (o : VOp) : Sem := semV (.vSub o) o 2 <| map2 (.vSub o) o fun a b => sumOut o [o.fmt.val a, (o.fmt.val b).neg]
def execVSub (o : VOp) (s : State) : Out := issueOne (.vSub o) (semVSub o) s

/-- v.mul (R202). -/
def semVMul (o : VOp) : Sem := semV (.vMul o) o 2 <| map2 (.vMul o) o fun a b => o.fmt.round o.rnd ((o.fmt.val a).mul (o.fmt.val b))
def execVMul (o : VOp) (s : State) : Out := issueOne (.vMul o) (semVMul o) s

/-- v.fma: one rounding (R202). -/
def semVFma (o : VOp) : Sem := semV (.vFma o) o 4 <| map3 (.vFma o) o fun a b c =>
  sumOut o [(o.fmt.val a).mul (o.fmt.val b), o.fmt.val c]
def execVFma (o : VOp) (s : State) : Out := issueOne (.vFma o) (semVFma o) s

/-- v.fms: one rounding (R202). -/
def semVFms (o : VOp) : Sem := semV (.vFms o) o 4 <| map3 (.vFms o) o fun a b c =>
  sumOut o [(o.fmt.val a).mul (o.fmt.val b), (o.fmt.val c).neg]
def execVFms (o : VOp) (s : State) : Out := issueOne (.vFms o) (semVFms o) s

/-- v.fnma: one rounding (R202). -/
def semVFnma (o : VOp) : Sem := semV (.vFnma o) o 4 <| map3 (.vFnma o) o fun a b c =>
  sumOut o [o.fmt.val c, ((o.fmt.val a).mul (o.fmt.val b)).neg]
def execVFnma (o : VOp) (s : State) : Out := issueOne (.vFnma o) (semVFnma o) s

/-! ## Selection (R203) -/

/-- The key of v.min, v.max and v.clamp: −0 below +0; integers compare unsigned (R203). -/
def pickKey (f : Fmt) (x : Nat) : Int := if f.isFloat then orderKey f x else x

/-- The smaller of two elements; NaN when either is NaN. -/
def minElem (f : Fmt) (a b : Nat) : Nat :=
  if elemNan f a || elemNan f b then f.nanCode else if pickKey f b < pickKey f a then b else a

/-- The larger of two elements; NaN when either is NaN. -/
def maxElem (f : Fmt) (a b : Nat) : Nat :=
  if elemNan f a || elemNan f b then f.nanCode else if pickKey f a < pickKey f b then b else a

/-- |a|: the sign cleared, or wrapping (R203). -/
def absElem (f : Fmt) (a : Nat) : Nat :=
  if f.isFloat then if f.isNan a then f.nanCode else f.magOf a else wrap f.width (sElem f a).natAbs

/-- −a: the sign inverted, or wrapping (R203). -/
def negElem (f : Fmt) (a : Nat) : Nat :=
  if f.isFloat then if f.isNan a then f.nanCode else f.join (!f.signOf a) (f.magOf a)
  else wrap f.width (-(sElem f a))

/-- v.min (R203). -/
def semVMin (o : VOp) : Sem := semV (.vMin o) o 2 <| map2 (.vMin o) o (minElem o.fmt)
def execVMin (o : VOp) (s : State) : Out := issueOne (.vMin o) (semVMin o) s

/-- v.max (R203). -/
def semVMax (o : VOp) : Sem := semV (.vMax o) o 2 <| map2 (.vMax o) o (maxElem o.fmt)
def execVMax (o : VOp) (s : State) : Out := issueOne (.vMax o) (semVMax o) s

/-- v.abs (R203). -/
def semVAbs (o : VOp) : Sem := semV (.vAbs o) o 2 <| map1 (.vAbs o) o (absElem o.fmt)
def execVAbs (o : VOp) (s : State) : Out := issueOne (.vAbs o) (semVAbs o) s

/-- v.neg (R203). -/
def semVNeg (o : VOp) : Sem := semV (.vNeg o) o 2 <| map1 (.vNeg o) o (negElem o.fmt)
def execVNeg (o : VOp) (s : State) : Out := issueOne (.vNeg o) (semVNeg o) s

/-- v.clamp: min(max(a, b), c) (R203). -/
def semVClamp (o : VOp) : Sem := semV (.vClamp o) o 2 <| map3 (.vClamp o) o fun a b c =>
  minElem o.fmt (maxElem o.fmt a b) c
def execVClamp (o : VOp) (s : State) : Out := issueOne (.vClamp o) (semVClamp o) s

/-! ## Functions (R204, R205) -/

/-- The result of a function: an infinite one is delivered as the table of R121 gives it, under every rounding code,
and a finite one is rounded once (log entry 27). -/
def fnRound (o : VOp) (v : Val) : Nat :=
  match v with
  | .inf neg => o.fmt.join neg o.fmt.infCode
  | v => o.fmt.round o.rnd v

/-- v.log2 of an element (R121). -/
def log2Elem (o : VOp) (a : Nat) : Nat := fnRound o (log2Val (o.fmt.val a))

/-- v.rcp (R205). -/
def semVRcp (o : VOp) : Sem := semV (.vRcp o) o 6 <| map1 (.vRcp o) o fun a => rcpCode o.fmt (o.fmt.val a)
def execVRcp (o : VOp) (s : State) : Out := issueOne (.vRcp o) (semVRcp o) s

/-- v.rsq (R205). -/
def semVRsq (o : VOp) : Sem := semV (.vRsq o) o 6 <| map1 (.vRsq o) o fun a => rsqCode o.fmt (o.fmt.val a)
def execVRsq (o : VOp) (s : State) : Out := issueOne (.vRsq o) (semVRsq o) s

/-- v.sqrt (R204). -/
def semVSqrt (o : VOp) : Sem := semV (.vSqrt o) o 6 <| map1 (.vSqrt o) o fun a => fnRound o (sqrtVal (o.fmt.val a))
def execVSqrt (o : VOp) (s : State) : Out := issueOne (.vSqrt o) (semVSqrt o) s

/-- v.exp2 (R204). -/
def semVExp2 (o : VOp) : Sem := semV (.vExp2 o) o 6 <| map1 (.vExp2 o) o fun a => fnRound o (exp2Val (o.fmt.val a))
def execVExp2 (o : VOp) (s : State) : Out := issueOne (.vExp2 o) (semVExp2 o) s

/-- v.log2 (R204). -/
def semVLog2 (o : VOp) : Sem := semV (.vLog2 o) o 6 <| map1 (.vLog2 o) o (log2Elem o)
def execVLog2 (o : VOp) (s : State) : Out := issueOne (.vLog2 o) (semVLog2 o) s

/-- v.rint (R204). -/
def semVRint (o : VOp) : Sem := semV (.vRint o) o 6 <| map1 (.vRint o) o fun a => o.fmt.round o.rnd (rintVal o.rnd (o.fmt.val a))
def execVRint (o : VOp) (s : State) : Out := issueOne (.vRint o) (semVRint o) s

/-! ## Comparison and masks (R206 to R208) -/

/-- A condition of R206; a NaN makes ne true and the ordered ones false. -/
def condHolds (f : Fmt) (cond a b : Nat) : Bool :=
  let nan := elemNan f a || elemNan f b
  let x := cmpKey f a
  let y := cmpKey f b
  match cond with
  | 0 => !nan && x == y
  | 1 => nan || x != y
  | 2 => !nan && decide (x < y)
  | 3 => !nan && decide (x ≤ y)
  | 4 => !nan && decide (y < x)
  | 5 => !nan && decide (y ≤ x)
  | _ => nan

/-- The mask of the active lanes that satisfy a predicate. -/
def maskOf (lanes : BitVec 32) (p : Nat → Bool) : W64 :=
  BitVec.ofNat 64 (((List.range 32).filter fun i => lanes.getLsbD i && p i).map fun i => 2 ^ i).sum

/-- A vector instruction that writes a mask or the s-file: the latches do not move. -/
def semVRes (i : Instr) (o : VOp) (d : Dest) (lat : Nat) (val : Env → W64) : Sem where
  super := .compute
  check e := vFootprint e i
  rows e := vRows e i
  eff e s := putRes e d (val e) lat (hbOf o.unit) (putHolds e i o s)

/-- The lanes in which the condition holds for every element (R206). -/
def cmpMask (o : VOp) (e : Env) : W64 :=
  let w := o.fmt.width
  let a := vsrc1 e (.vCmp o) o
  let b := vsrc2 e o
  let per := o.fmt.count / 32
  maskOf (activeLanes e o) fun i =>
    (List.range per).all fun q =>
      condHolds o.fmt o.sub.toNat (elemOf w a (i * per + q)) (elemOf w b (i * per + q))

/-- v.cmp (R206). -/
def semVCmp (o : VOp) : Sem := semVRes (.vCmp o) o (.vmask o.unit (o.d.toNat % 8)) 2 (cmpMask o)
def execVCmp (o : VOp) (s : State) : Out := issueOne (.vCmp o) (semVCmp o) s

/-- v.sel: whole lanes (R207). -/
def semVSel (o : VOp) : Sem := semV (.vSel o) o 2 <| fun e =>
  blend (e.x.rdK o.unit (o.sub.toNat % 8)) (vsrc1 e (.vSel o) o) (vsrc2 e o)
def execVSel (o : VOp) (s : State) : Out := issueOne (.vSel o) (semVSel o) s

/-- The operations of v.kop (R208). -/
def kopBits (op : Nat) (a b : W32) : W32 :=
  match op with
  | 0 => a &&& b
  | 1 => a ||| b
  | 2 => a ^^^ b
  | 3 => a &&& ~~~b
  | _ => ~~~a

/-- The result of v.kop: bits of inactive lanes are 0 (R208). -/
def kopMask (o : VOp) (e : Env) : W64 :=
  let a := e.x.rdK o.unit (o.s1.toNat % 8)
  let b := e.x.rdK o.unit (o.s2.toNat % 8)
  (kopBits o.sub.toNat a b &&& activeLanes e o).zeroExtend 64

/-- v.kop (R208). -/
def semVKop (o : VOp) : Sem := semVRes (.vKop o) o (.vmask o.unit (o.d.toNat % 8)) 2 (kopMask o)
def execVKop (o : VOp) (s : State) : Out := issueOne (.vKop o) (semVKop o) s

/-- v.kpop (R208). -/
def semVKpop (o : VOp) : Sem := semVRes (.vKpop o) o (.sreg o.d.toNat) 3 fun e =>
  BitVec.ofNat 64 (popN 32 (e.x.rdK o.unit (o.s1.toNat % 8) &&& activeLanes e o).toNat)
def execVKpop (o : VOp) (s : State) : Out := issueOne (.vKpop o) (semVKpop o) s

/-! ## Integer arithmetic (R209, R210) -/

/-- v.iadd (R209). -/
def semVIadd (o : VOp) : Sem := semV (.vIadd o) o 2 <| map2 (.vIadd o) o fun a b => intOut o.fmt o.rnd (sElem o.fmt a + sElem o.fmt b)
def execVIadd (o : VOp) (s : State) : Out := issueOne (.vIadd o) (semVIadd o) s

/-- v.isub (R209). -/
def semVIsub (o : VOp) : Sem := semV (.vIsub o) o 2 <| map2 (.vIsub o) o fun a b => intOut o.fmt o.rnd (sElem o.fmt a - sElem o.fmt b)
def execVIsub (o : VOp) (s : State) : Out := issueOne (.vIsub o) (semVIsub o) s

/-- v.imul (R209). -/
def semVImul (o : VOp) : Sem := semV (.vImul o) o 2 <| map2 (.vImul o) o fun a b => intOut o.fmt o.rnd (sElem o.fmt a * sElem o.fmt b)
def execVImul (o : VOp) (s : State) : Out := issueOne (.vImul o) (semVImul o) s

/-- v.imad: one wrap or clamp (R209). -/
def semVImad (o : VOp) : Sem := semV (.vImad o) o 2 <| map3 (.vImad o) o fun a b c =>
  intOut o.fmt o.rnd (sElem o.fmt a * sElem o.fmt b + sElem o.fmt c)
def execVImad (o : VOp) (s : State) : Out := issueOne (.vImad o) (semVImad o) s

/-- v.and (R210). -/
def semVAnd (o : VOp) : Sem := semV (.vAnd o) o 2 <| map2 (.vAnd o) o fun a b => a &&& b
def execVAnd (o : VOp) (s : State) : Out := issueOne (.vAnd o) (semVAnd o) s

/-- v.or (R210). -/
def semVOr (o : VOp) : Sem := semV (.vOr o) o 2 <| map2 (.vOr o) o fun a b => a ||| b
def execVOr (o : VOp) (s : State) : Out := issueOne (.vOr o) (semVOr o) s

/-- v.xor (R210). -/
def semVXor (o : VOp) : Sem := semV (.vXor o) o 2 <| map2 (.vXor o) o fun a b => a ^^^ b
def execVXor (o : VOp) (s : State) : Out := issueOne (.vXor o) (semVXor o) s

/-- v.shl (R210). -/
def semVShl (o : VOp) : Sem := semV (.vShl o) o 2 <| map2 (.vShl o) o fun a b =>
  a * 2 ^ (b % o.fmt.width) % 2 ^ o.fmt.width
def execVShl (o : VOp) (s : State) : Out := issueOne (.vShl o) (semVShl o) s

/-- v.shr (R210). -/
def semVShr (o : VOp) : Sem := semV (.vShr o) o 2 <| map2 (.vShr o) o fun a b => a / 2 ^ (b % o.fmt.width)
def execVShr (o : VOp) (s : State) : Out := issueOne (.vShr o) (semVShr o) s

/-- v.sra (R210). -/
def semVSra (o : VOp) : Sem := semV (.vSra o) o 2 <| map2 (.vSra o) o fun a b =>
  wrap o.fmt.width (sElem o.fmt a / 2 ^ (b % o.fmt.width))
def execVSra (o : VOp) (s : State) : Out := issueOne (.vSra o) (semVSra o) s

/-- v.pop (R210). -/
def semVPop (o : VOp) : Sem := semV (.vPop o) o 2 <| map1 (.vPop o) o fun a => popN o.fmt.width a
def execVPop (o : VOp) (s : State) : Out := issueOne (.vPop o) (semVPop o) s

/-- v.clz (R210). -/
def semVClz (o : VOp) : Sem := semV (.vClz o) o 2 <| map1 (.vClz o) o fun a => clzN o.fmt.width a
def execVClz (o : VOp) (s : State) : Out := issueOne (.vClz o) (semVClz o) s

/-- v.imin (R210). -/
def semVImin (o : VOp) : Sem := semV (.vImin o) o 2 <| map2 (.vImin o) o fun a b => if sElem o.fmt b < sElem o.fmt a then b else a
def execVImin (o : VOp) (s : State) : Out := issueOne (.vImin o) (semVImin o) s

/-- v.imax (R210). -/
def semVImax (o : VOp) : Sem := semV (.vImax o) o 2 <| map2 (.vImax o) o fun a b => if sElem o.fmt a < sElem o.fmt b then b else a
def execVImax (o : VOp) (s : State) : Out := issueOne (.vImax o) (semVImax o) s

/-! ## Conversions (R211 to R214) -/

/-- The elements of a source with the flag of the lane in which their result falls. -/
def convIn (f : Fmt) (tw : Nat) (lanes : BitVec 32) (v : VReg) (n : Nat) : List (Nat × Bool) :=
  (List.range n).map fun x => (elemOf f.width v x, lanes.getLsbD (x / (32 / tw)))

/-- The unsigned source value of the uint32 forms, shifted with sh fraction bits (R212). -/
def uintVal (o : VOp) (x : Nat) : Val :=
  if o.s2.getLsbD 8 then
    let sh := (o.s2.extractLsb' 0 5).toNat
    .dy (x / 2 ^ sh : Nat) ((sh : Int) - 32)
  else .dy x 0

/-- The target of a conversion; decoding admits codes 0 to 9 only. -/
def tgtOf (o : VOp) : Target := (Target.ofCode o.sub.toNat).getD (.fmt .f32)

/-- v.cvt: elements beyond the source's are 0 (R211, R212). -/
def cvtVal (o : VOp) (e : Env) : VReg :=
  let t := tgtOf o
  let v := vsrc1 e (.vCvt o) o
  if o.s2.getLsbD 9 then
    match t with
    | .fmt f => ofList f.width ((List.range 32).map fun x => f.round o.rnd (uintVal o (elemOf 32 v x)))
    | _ => 0
  else
    let n := min o.fmt.count (1024 / t.width)
    ofList t.width (convertAll o.fmt t o.rnd (convIn o.fmt t.width (activeLanes e o) v n))

/-- v.pack: the elements of s1, then those of s2 (R213). -/
def packVal (o : VOp) (e : Env) : VReg :=
  let t := tgtOf o
  let n := o.fmt.count
  let xs := elemsOf o.fmt.width (vsrc1 e (.vPack o) o) ++ elemsOf o.fmt.width (vsrc2 e o)
  let act := activeLanes e o
  ofList t.width (convertAll o.fmt t o.rnd
    ((List.range (2 * n)).map fun x => (xs.getD x 0, act.getLsbD (x / (32 / t.width)))))

/-- v.unpack: 32 elements widened exactly (R214). -/
def unpackVal (o : VOp) (e : Env) : VReg :=
  let v := vsrc1 e (.vUnpack o) o
  let t : Fmt := if o.fmt.isFloat then .f32 else .i32
  ofList 32 ((List.range 32).map fun x =>
    convert o.fmt (.fmt t) .rne (elemOf o.fmt.width v (32 * o.sub.toNat + x)))

/-- v.cvt (R211, R212). -/
def semVCvt (o : VOp) : Sem := semV (.vCvt o) o 4 <| cvtVal o
def execVCvt (o : VOp) (s : State) : Out := issueOne (.vCvt o) (semVCvt o) s

/-- v.pack (R213). -/
def semVPack (o : VOp) : Sem := semV (.vPack o) o 4 <| packVal o
def execVPack (o : VOp) (s : State) : Out := issueOne (.vPack o) (semVPack o) s

/-- v.unpack (R214). -/
def semVUnpack (o : VOp) : Sem := semV (.vUnpack o) o 2 <| unpackVal o
def execVUnpack (o : VOp) (s : State) : Out := issueOne (.vUnpack o) (semVUnpack o) s

/-! ## Lane movement (R215 to R217) -/

/-- Lane 0 of the second or third source, as an index. -/
def idx2 (e : Env) (o : VOp) : Nat := elemOf 32 (vsrc2 e o) 0
def idx3 (e : Env) (o : VOp) : Nat := elemOf 32 (vsrc3 e o) 0

/-- v.perm (R215). -/
def semVPerm (o : VOp) : Sem := semV (.vPerm o) o 2 <| fun e =>
  let a := vsrc1 e (.vPerm o) o
  let b := vsrc2 e o
  ofElems 32 32 fun i => elemOf 32 a (elemOf 32 b i % 32)
def execVPerm (o : VOp) (s : State) : Out := issueOne (.vPerm o) (semVPerm o) s

/-- v.rot (R215). -/
def semVRot (o : VOp) : Sem := semV (.vRot o) o 2 <| fun e =>
  let a := vsrc1 e (.vRot o) o
  let n := idx2 e o % 32
  ofElems 32 32 fun i => elemOf 32 a ((i + n) % 32)
def execVRot (o : VOp) (s : State) : Out := issueOne (.vRot o) (semVRot o) s

/-- v.zip of elements half·H onward (R216). -/
def zipVal (o : VOp) (e : Env) : VReg :=
  let w := o.fmt.width
  let a := vsrc1 e (.vZip o) o
  let b := vsrc2 e o
  let h := o.sub.toNat * (o.fmt.count / 2)
  ofElems w o.fmt.count fun x => if x % 2 = 0 then elemOf w a (h + x / 2) else elemOf w b (h + x / 2)

/-- v.unzip of every second element (R216). -/
def unzipVal (o : VOp) (e : Env) : VReg :=
  let w := o.fmt.width
  let n := o.fmt.count
  let a := vsrc1 e (.vUnzip o) o
  let b := vsrc2 e o
  ofElems w n fun x =>
    let q := 2 * x + o.sub.toNat
    if q < n then elemOf w a q else elemOf w b (q - n)

/-- v.zip (R216). -/
def semVZip (o : VOp) : Sem := semV (.vZip o) o 2 <| zipVal o
def execVZip (o : VOp) (s : State) : Out := issueOne (.vZip o) (semVZip o) s

/-- v.unzip (R216). -/
def semVUnzip (o : VOp) : Sem := semV (.vUnzip o) o 2 <| unzipVal o
def execVUnzip (o : VOp) (s : State) : Out := issueOne (.vUnzip o) (semVUnzip o) s

/-- v.splat (R215). -/
def semVSplat (o : VOp) : Sem := semV (.vSplat o) o 2 <| fun e =>
  splatW o.fmt.width (elemOf o.fmt.width (vsrc1 e (.vSplat o) o) (idx2 e o % o.fmt.count))
def execVSplat (o : VOp) (s : State) : Out := issueOne (.vSplat o) (semVSplat o) s

/-- v.ext (R217). -/
def semVExt (o : VOp) : Sem := semVRes (.vExt o) o (.sreg o.d.toNat) 3 fun e =>
  BitVec.ofNat 64 (elemOf o.fmt.width (vsrc1 e (.vExt o) o) (idx2 e o % o.fmt.count))
def execVExt (o : VOp) (s : State) : Out := issueOne (.vExt o) (semVExt o) s

/-- v.ins (R215). -/
def semVIns (o : VOp) : Sem := semV (.vIns o) o 2 <| fun e =>
  let w := o.fmt.width
  let a := vsrc1 e (.vIns o) o
  let n := idx3 e o % o.fmt.count
  ofElems w o.fmt.count fun x => if x = n then elemOf w (vsrc2 e o) 0 else elemOf w a x
def execVIns (o : VOp) (s : State) : Out := issueOne (.vIns o) (semVIns o) s

/-- v.iota: wrapping (R215). -/
def semVIota (o : VOp) : Sem := semV (.vIota o) o 2 <| fun e =>
  let w := o.fmt.width
  let b := elemOf w (vsrc1 e (.vIota o) o) 0
  ofElems w o.fmt.count fun x => b + x
def execVIota (o : VOp) (s : State) : Out := issueOne (.vIota o) (semVIota o) s

/-! ## Reductions and scans (R218 to R220) -/

/-- A reduction: nothing is written, and the latches stay, when no lane is active (R218). -/
def semRed (i : Instr) (o : VOp) (val : Env → VReg) : Sem :=
  { semV i o 2 val with
    eff := fun e s =>
      let s1 := putHolds e i o s
      if activeLanes e o = 0 then s1 else putVec e o 2 (activeLanes e o) (val e) s1 }

/-- The exact sum of elements, rounded once, wrapped or clamped (R218). -/
def sumElems (o : VOp) (xs : List Nat) : Nat :=
  if o.fmt.isFloat then sumOut o (xs.map o.fmt.val)
  else intOut o.fmt o.rnd (xs.map (sElem o.fmt)).sum

/-- The largest or smallest element: −0 below +0, NaN wins, integers signed (R218). -/
def maxOfElems (f : Fmt) (xs : List Nat) : Nat :=
  if xs.any (elemNan f) then f.nanCode
  else xs.foldl (fun m x => if orderKey f m < orderKey f x then x else m) (xs.headD 0)

def minOfElems (f : Fmt) (xs : List Nat) : Nat :=
  if xs.any (elemNan f) then f.nanCode
  else xs.foldl (fun m x => if orderKey f x < orderKey f m then x else m) (xs.headD 0)

/-- The set of a reduction. -/
def redSet (i : Instr) (o : VOp) (e : Env) : List Nat :=
  activeSet o.fmt (activeLanes e o) (vsrc1 e i o)

/-- v.rsum (R218). -/
def semVRsum (o : VOp) : Sem := semRed (.vRsum o) o fun e => splatW o.fmt.width (sumElems o (redSet (.vRsum o) o e))
def execVRsum (o : VOp) (s : State) : Out := issueOne (.vRsum o) (semVRsum o) s

/-- v.rmax (R218). -/
def semVRmax (o : VOp) : Sem := semRed (.vRmax o) o fun e =>
  splatW o.fmt.width (maxOfElems o.fmt (redSet (.vRmax o) o e))
def execVRmax (o : VOp) (s : State) : Out := issueOne (.vRmax o) (semVRmax o) s

/-- v.rmin (R218). -/
def semVRmin (o : VOp) : Sem := semRed (.vRmin o) o fun e =>
  splatW o.fmt.width (minOfElems o.fmt (redSet (.vRmin o) o e))
def execVRmin (o : VOp) (s : State) : Out := issueOne (.vRmin o) (semVRmin o) s

/-- Every prefix rounded once from its exact sum (R219). -/
def scanVal (o : VOp) (e : Env) : VReg :=
  let v := vsrc1 e (.vScan o) o
  let act := activeLanes e o
  ofElems o.fmt.width o.fmt.count fun x =>
    let n := if o.sub.toNat = 0 then x + 1 else x
    sumElems o (((List.range n).filter (elemOn o.fmt act)).map (elemOf o.fmt.width v))

/-- The index of the largest element, lowest first; the first NaN wins (R220). -/
def argmaxVal (o : VOp) (e : Env) : VReg :=
  let v := vsrc1 e (.vArgmax o) o
  let ks := (List.range o.fmt.count).filter (elemOn o.fmt (activeLanes e o))
  let key := fun x => orderKey o.fmt (elemOf o.fmt.width v x)
  splatW 32 (ks.foldl (fun m x => if key m < key x then x else m) (ks.headD 0))

/-- v.scan (R219). -/
def semVScan (o : VOp) : Sem := semV (.vScan o) o 4 <| scanVal o
def execVScan (o : VOp) (s : State) : Out := issueOne (.vScan o) (semVScan o) s

/-- v.argmax (R220). -/
def semVArgmax (o : VOp) : Sem := semRed (.vArgmax o) o (argmaxVal o)
def execVArgmax (o : VOp) (s : State) : Out := issueOne (.vArgmax o) (semVArgmax o) s

/-! ## Sort and merge (R221) -/

/-- An entry: key and payload. -/
abbrev SortEntry := Nat × Nat

/-- Before(x, y) of R221. -/
def sortBefore (f : Fmt) (down : Bool) (x y : SortEntry) : Bool :=
  if down then decide (orderKey f y.1 < orderKey f x.1) else decide (orderKey f x.1 < orderKey f y.1)

/-- Inserts an entry behind every entry that it does not precede. -/
def insertEntry (before : SortEntry → SortEntry → Bool) (x : SortEntry) : List SortEntry → List SortEntry
  | [] => [x]
  | y :: ys => if before x y then x :: y :: ys else y :: insertEntry before x ys

/-- A stable order: entries are inserted in list order. -/
def sortEntries (before : SortEntry → SortEntry → Bool) (xs : List SortEntry) : List SortEntry :=
  xs.foldl (fun acc x => insertEntry before x acc) []

/-- `n` steps of the merge of R221. -/
def mergeEntries (before : SortEntry → SortEntry → Bool) : Nat → List SortEntry → List SortEntry → List SortEntry
  | 0, _, _ => []
  | n + 1, x :: xs, y :: ys =>
    if before y x then y :: mergeEntries before n (x :: xs) ys
    else x :: mergeEntries before n xs (y :: ys)
  | n + 1, x :: xs, [] => x :: mergeEntries before n xs []
  | n + 1, [], y :: ys => y :: mergeEntries before n [] ys
  | _ + 1, [], [] => []

/-- The entries of a register pair. -/
def pairEntries (e : Env) (u : VUnit) (code : Nat) : List SortEntry :=
  let k := e.c.rdV e.j u code
  let p := e.c.rdV e.j u (code + 1)
  (List.range 32).map fun i => (elemOf 32 k i, elemOf 32 p i)

/-- A key as it is written: a NaN is canonical (R221). -/
def sortKey (f : Fmt) (k : Nat) : Nat := if elemNan f k then f.nanCode else k

/-- Writes 32 entries to d and d + 1 at t + 8; the latches take d (R221). -/
def semSort (i : Instr) (o : VOp) (list : Env → List SortEntry) : Sem where
  super := .compute
  check e := vFootprint e i
  rows e := vRows e i
  eff e s :=
    let es := list e
    let s1 := putVec e o 8 allLanes (ofList 32 (es.map fun x => sortKey o.fmt x.1)) s
    s1.modCore e.k fun c =>
      c.result s.now s.free e.j (.vreg o.unit (o.d.toNat + 1)) allLanes (ofList 32 (es.map (·.2))) 8
        (hbOf o.unit)

/-- The 32 first entries of 64 in order. -/
def sortList (o : VOp) (e : Env) : List SortEntry :=
  (sortEntries (sortBefore o.fmt (o.sub.getLsbD 0))
    (pairEntries e o.unit o.s1.toNat ++ pairEntries e o.unit o.s2.toNat)).take 32

/-- The first or last 32 entries of the merge. -/
def mergeList (o : VOp) (e : Env) : List SortEntry :=
  let all := mergeEntries (sortBefore o.fmt (o.sub.getLsbD 0)) 64
    (pairEntries e o.unit o.s1.toNat) (pairEntries e o.unit o.s2.toNat)
  if o.sub.getLsbD 1 then all.drop 32 else all.take 32

/-- v.sort (R221). -/
def semVSort (o : VOp) : Sem := semSort (.vSort o) o (sortList o)
def execVSort (o : VOp) (s : State) : Out := issueOne (.vSort o) (semVSort o) s

/-- v.merge (R221). -/
def semVMerge (o : VOp) : Sem := semSort (.vMerge o) o (mergeList o)
def execVMerge (o : VOp) (s : State) : Out := issueOne (.vMerge o) (semVMerge o) s

/-! ## Random numbers and moves (R222, R223) -/

/-- v.rng (R222). -/
def semVRng (o : VOp) : Sem := semV (.vRng o) o 3 <| fun e =>
  let a := vsrc1 e (.vRng o) o
  let key := e.port.extractLsb' 0 32
  ofElems 32 32 fun i => (kch32 (BitVec.ofNat 32 (elemOf 32 a i)) key).toNat
def execVRng (o : VOp) (s : State) : Out := issueOne (.vRng o) (semVRng o) s

/-- v.mov (R223). -/
def semVMov (o : VOp) : Sem := semV (.vMov o) o 2 <| fun e => vsrc1 e (.vMov o) o
def execVMov (o : VOp) (s : State) : Out := issueOne (.vMov o) (semVMov o) s

/-- Whether a slot of VA in the bundle is a v.xcp. -/
def Env.hasXcp (e : Env) : Bool :=
  e.ins.any fun i => match i with | .vXcp o => o.unit == .va | _ => false

/-- v.xcp: a second one in the bundle traps (R125, R223). -/
def semVXcp (o : VOp) : Sem := { semV (.vXcp o) o 2 (fun e => vsrc1 e (.vXcp o) o) with
  check := fun e => if o.unit = .vb ∧ e.hasXcp then some (ill e (.vXcp o)) else vFootprint e (.vXcp o) }
def execVXcp (o : VOp) (s : State) : Out := issueOne (.vXcp o) (semVXcp o) s

/-- The immediate of v.movi (R155): s1 above s2, in the element's width. -/
def moviImm (o : VOp) : Nat :=
  match o.fmt.width with
  | 32 => 
    let n := o.s1.toNat * 1024 + o.s2.toNat
    if o.fmt = .i32 then wrap 32 (sval 20 n) else n * 4096
  | 16 => o.s1.toNat % 64 * 1024 + o.s2.toNat
  | _ => o.s2.toNat % 256

/-- v.movi (R155, R223). -/
def semVMovi (o : VOp) : Sem := semV (.vMovi o) o 2 <| fun _ => splatW o.fmt.width (moviImm o)
def execVMovi (o : VOp) (s : State) : Out := issueOne (.vMovi o) (semVMovi o) s

/-! ## Parking (R137, R224) -/

/-- The column of a register in the spill map. -/
def Core.parked (c : Core) (j : Nat) (u : VUnit) (reg : Nat) : Option Parked :=
  c.spill.find? fun p => p.ctx == j && p.u == u && p.reg == reg

/-- The parked columns of a bank. -/
def Core.columns (c : Core) (b : Nat) : Nat := (c.spill.filter fun p => p.bank == b).length

/-- A bank with a free column for a context: one that it has reserved, else one that no context has been
granted or has reserved (R137). -/
def Core.parkBank (c : Core) (j : Nat) : Option Nat :=
  match (List.range 4).find? fun b => c.spill.any (fun p => p.ctx == j && p.bank == b) && decide (c.columns b < 32) with
  | some b => some b
  | none => (List.range 4).find? fun b =>
    c.columns b == 0 && c.residents.all fun i => !((c.ctx i).accMap.contains b)

/-- Parks a value; a parked register's column is overwritten. -/
def Core.park (c : Core) (now free j : Nat) (u : VUnit) (reg : Nat) (v : VReg) : Core :=
  match c.parked j u reg with
  | some p =>
    { c with spill := c.spill.map fun q => if q = p then { q with old := q.val, val := v, due := now + 2 } else q }
  | none => match c.parkBank j with
    | none => c
    | some b =>
      let p : Parked := { ctx := j, u := u, reg := reg, val := v, bank := b, due := now + 2,
                          old := BitVec.ofNat 1024 (Config.freeNat free reg) }
      { c with spill := c.spill ++ [p] }

/-- The core after the v.park of VA in the bundle, for the column that one of VB needs. -/
def Env.afterVaPark (e : Env) : Core :=
  match e.ins.find? fun i => match i with | .vPark o => o.unit == .va | _ => false with
  | some (.vPark o) => e.c.park e.s.now e.s.free e.j .va o.s1.toNat 0
  | _ => e.c

/-- v.park (R137, R224): 0x01 when no column is free. -/
def semVPark (o : VOp) : Sem where
  super := .compute
  check e :=
    let c := if o.unit = .vb then e.afterVaPark else e.c
    (vFootprint e (.vPark o)).or
      (if (c.parked e.j o.unit o.s1.toNat).isNone && (c.parkBank e.j).isNone then some (ill e (.vPark o))
       else none)
  rows e := vRows e (.vPark o)
  eff e s :=
    let v := e.c.rdV e.j o.unit o.s1.toNat
    (putHolds e (.vPark o) o s).modCore e.k fun c => c.park s.now s.free e.j o.unit o.s1.toNat v
def execVPark (o : VOp) (s : State) : Out := issueOne (.vPark o) (semVPark o) s

/-- v.unpark (R137, R224): the whole register; 0x01 when it is not parked. -/
def semVUnpark (o : VOp) : Sem where
  super := .compute
  check e :=
    (vFootprint e (.vUnpark o)).or
      (if (e.c.parked e.j o.unit o.d.toNat).isNone then some (ill e (.vUnpark o)) else none)
  eff e s :=
    match e.c.parked e.j o.unit o.d.toNat with
    | none => s
    | some p =>
      let v := if p.due ≤ s.now ∨ Config.freeBit s.free 5 then p.val else p.old
      (putVec e o 2 allLanes v s).modCore e.k fun c => { c with spill := c.spill.filter (· != p) }
def execVUnpark (o : VOp) (s : State) : Out := issueOne (.vUnpark o) (semVUnpark o) s

end Sys2Proof.Machine
end

