-- ==== Sys2Proof/Machine/Matrix.lean ====
section
/-!
DEFINITION. The M slot (R119, R120, R225 to R237): edge latches, beats, checksums, drains, and the
uncorrectable operands of the matrix array.
-/

namespace Sys2Proof.Machine

/-! ## Pairs (R119, R226) -/

/-- The depth K: k-rows of a beat. -/
def pairDepth : Pair → Nat
  | .bf16 => 1 | .f16 => 1 | .e4m3 => 2 | .e5m2 => 2 | .e4m3e5m2 => 2 | .i8 => 2 | .e4m3dp8 => 4
  | .bf16dp8 => 2

/-- The format of the A side. -/
def pairA : Pair → Fmt
  | .bf16 => .bf16 | .f16 => .f16 | .e4m3 => .e4m3 | .e5m2 => .e5m2 | .e4m3e5m2 => .e4m3 | .i8 => .i8
  | .e4m3dp8 => .e4m3 | .bf16dp8 => .bf16

/-- The format of the B side. -/
def pairB : Pair → Target
  | .bf16 => .fmt .bf16 | .f16 => .fmt .f16 | .e4m3 => .fmt .e4m3 | .e5m2 => .fmt .e5m2
  | .e4m3e5m2 => .fmt .e5m2 | .i8 => .fmt .i8 | .e4m3dp8 => .dp8 | .bf16dp8 => .dp8

/-- Whether the pair consumes block scales (R116). -/
def pairScaled (p : Pair) : Bool := pairB p == .dp8

/-- The element width of a side in bytes. -/
def sideWidth (p : Pair) (b : Bool) : Nat := if b then (pairB p).width / 8 else (pairA p).width / 8

/-- The bytes of a beat row of a side (R226). -/
def rowBytes (p : Pair) (b : Bool) : Nat := 32 * pairDepth p * sideWidth p b

/-! ## Reading a side (R226 to R228, R236) -/

/-- A side of a beat or a push: its ring, whether it pops, and its row. -/
structure Side where
  ring : Nat
  lr   : Bool
  b    : Bool
  row  : Nat

/-- The address of the beat row in the slot at head (R226). -/
def sideAddr (e : Env) (p : Pair) (sd : Side) : Nat :=
  (e.c.ring sd.ring).headSlot * 2048 + rowBytes p sd.b * sd.row % 2048

/-- Whether the 8-byte word of an address is uncorrectable. -/
def Core.badWord (c : Core) (a : Nat) : Bool :=
  (c.spRows a 1).any fun r => decide (2 ≤ c.rowFlips r.1 r.2)

/-- The byte of an element that is used as zero: DP8 has its zero at 0x77 (R110, R111, R236). -/
def zeroByte (p : Pair) (b : Bool) : Byte := if b && pairScaled p then 0x77 else 0

/-- The bytes of a beat row, read as a class-0 LD of the bundle reads; elements in an uncorrectable
word are zero (R236, R240). -/
def sideBytes (e : Env) (p : Pair) (sd : Side) : List Byte :=
  let a := sideAddr e p sd
  (List.range (rowBytes p sd.b)).map fun i =>
    if e.c.badWord (a + i) then zeroByte p sd.b else if e.c.offLimits (a + i) then 0 else e.c.ldByte e.j 0 e.s.free (a + i)

/-- The offset of the first element that reads an uncorrectable word. -/
def sideBad (e : Env) (p : Pair) (sd : Side) : Option Nat :=
  let w := sideWidth p sd.b
  let a := sideAddr e p sd
  ((List.range (rowBytes p sd.b / w)).map (· * w)).find? fun i => e.c.badWord (a + i)

/-- The image of mx.uecoord (R237). -/
def ueImage (e : Env) (p : Pair) (bank : Nat) (push : Bool) (sd : Side) (off : Nat) : W64 :=
  let w := sideWidth p sd.b
  let inSlot := (sideAddr e p sd + off) % 2048
  BitVec.ofNat 64 (bank + (if sd.b then 4 else 0) + (if push then 8 else 0) + inSlot / (32 * w) * 16 +
    inSlot / w % 32 * 1024 + sideAddr e p sd / 2048 * 2 ^ 15)

/-- The coordinate of the first uncorrectable operand element, A side first. -/
def firstUe (e : Env) (p : Pair) (bank : Nat) (push : Bool) (sds : List Side) : Option W64 :=
  sds.findSome? fun sd => (sideBad e p sd).map (ueImage e p bank push sd)

/-- A write of an edge latch ends its errors (R293). -/
def Core.freshEdge (c : Core) (j : Nat) (b : Bool) : Core :=
  if c.flips = [] then c else (edgeRows j b).foldl (fun c r => c.fresh r.1 r.2) c

/-- A read of an edge latch corrects its single errors (R293). -/
def Core.scrubEdge (c : Core) (j : Nat) (b : Bool) : Core :=
  if c.flips = [] then c else (edgeRows j b).foldl (fun c r => c.scrub r.1 r.2) c

/-- Whether the 8-byte word of an edge latch that holds byte `off` is uncorrectable. -/
def Core.badEdge (c : Core) (j : Nat) (b : Bool) (off : Nat) : Bool :=
  c.flips ≠ [] && decide (2 ≤ c.rowFlips 11 (j * 32 + (if b then 16 else 0) + off / 8))

/-- A beat row from an edge latch; elements in an uncorrectable word are zero (R229, R236, R293). -/
def edgeBytes (e : Env) (p : Pair) (b : Bool) : List Byte :=
  let bs := (vregBytes (if b then e.x.elb else e.x.ela)).take (rowBytes p b)
  (List.range bs.length).map fun i => if e.c.badEdge e.j b i then zeroByte p b else bs.getD i 0

/-- The coordinate of the first uncorrectable element of an edge latch. Which slot it names, no rule says: a free
value (log entry 33). -/
def edgeUe (e : Env) (p : Pair) (bank : Nat) (b : Bool) : Option W64 :=
  let w := sideWidth p b
  (((List.range (rowBytes p b / w)).map (· * w)).find? fun i => e.c.badEdge e.j b i).map fun off =>
    BitVec.ofNat 64 (bank + (if b then 4 else 0) + off / (32 * w) * 16 + off / w % 32 * 1024 +
      Config.freeNat e.s.free 12 % 640 * 2 ^ 15)

/-- The ring and operand checks of the sides that read a ring (R227, R53, R236). `ue` is the coordinate of the
first uncorrectable operand element. -/
def sideTrap (e : Env) (i : Instr) (sds : List Side) (p : Pair) (ue : Option W64) : Option Trap :=
  match sds.find? fun sd => !e.c.ringReady sd.ring with
  | some sd => some (ringTrap e i sd.ring)
  | none =>
    match sds.findSome? fun sd => memTrap e i [sideAddr e p sd] (rowBytes p sd.b) false with
    | some t => some t
    | none =>
      if !e.x.mxMode.getLsbD 0 then none
      else ue.map fun w =>
        { cause := 9, slot := some 6, i0 := 1, i1 := w, i2 := BitVec.ofNat 64 e.x.rewinds }

/-- The rows that sides read are corrected, touches are recorded, replaced elements are logged, and
marked rings are popped (R227, R236, R293). -/
def useSides (e : Env) (p : Pair) (ue : Option W64) (sds : List Side) (s : State) : State :=
  let s1 := s.modCore e.k fun c => sds.foldl (fun c sd =>
    (c.touchAll e.j [sideAddr e p sd] false).scrubMem [sideAddr e p sd] (rowBytes p sd.b)) c
  let s2 := match ue with
    | none => s1
    | some w => s1.modCtx e.k e.j fun x =>
      if x.mxStat.getLsbD 0 then x else { x with mxStat := x.mxStat ||| 1, mxCoord := w }
  sds.foldl (fun s sd => if sd.lr then popOnce e sd.ring s else s) s2

/-- The first M-slot check: a bank within the grant (R23, R225). -/
def bankTrap (e : Env) (i : Instr) (bank : BitVec 2) : Option Trap :=
  if bank.toNat < e.x.accMap.length then none else some (ill e i)

/-! ## m.push (R228) -/

/-- A beat row in the low bytes of a latch, zeros above. -/
def latchOf (bs : List Byte) : VReg := ofList 8 (bs.map (·.toNat))

/-- m.push (R228): the latch is read by a beat from t + 1. -/
def semMPush (pair : Pair) (side : Bool) (ring : BitVec 4) (row : BitVec 5) (lr : Bool) : Sem :=
  let i : Instr := .mPush pair side ring row lr
  let sd : Side := { ring := ring.toNat, lr := lr, b := side, row := row.toNat }
  { super := .compute
    check := fun e => sideTrap e i [sd] pair (firstUe e pair 0 true [sd])
    eff := fun e s =>
      let v := latchOf (sideBytes e pair sd)
      let s1 := (useSides e pair (firstUe e pair 0 true [sd]) [sd] s).modCtx e.k e.j fun x =>
        if side then { x with elb := v } else { x with ela := v }
      s1.modCore e.k fun c => c.freshEdge e.j side }
def execMPush (pair : Pair) (side : Bool) (ring : BitVec 4) (row : BitVec 5) (lr : Bool) (s : State) : Out :=
  issueOne (.mPush pair side ring row lr) (semMPush pair side ring row lr) s

/-! ## Accumulator banks -/

/-- The physical bank of a context's bank (R140). -/
def Ctx.physBank (x : Ctx) (bank : Nat) : Nat := x.accMap.getD bank 0

def Core.acc (c : Core) (j bank : Nat) : AccBank := AMap.get c.accs ((c.ctx j).physBank bank) {}

def Core.setAcc (c : Core) (j bank : Nat) (b : AccBank) : Core :=
  { c with accs := AMap.set c.accs ((c.ctx j).physBank bank) b }

/-- A bit of a cell that is wrong; the cell is marked (R332; log entry 33). -/
def AccBank.flip (b : AccBank) (i j bit : Nat) : AccBank :=
  let w : W32 := 1 <<< bit
  { b with cells := AMap.upd b.cells (32 * i + j) 0 fun v => v ^^^ w, marks := (32 * i + j) :: b.marks }

/-- A bank as the array reads it (R293): in each word of two cells a single error is corrected and counted, and
more are in the cells from then on, for the check to find (R235): a bank that holds some is not checked. -/
def Core.readAcc (c : Core) (j bank : Nat) : Core :=
  if c.flips = [] then c
  else
    let ph := (c.ctx j).physBank bank
    let here := c.flips.filter fun f => f.array == 10 && f.row / 512 == ph
    let (one, more) := here.partition fun f => c.rowFlips 10 f.row == 1
    { c with flips := c.flips.filter fun f => !here.contains f, fixed := c.fixed + one.length,
             accs := AMap.upd c.accs ph {} fun b => more.foldl (fun b f =>
               let n := f.row % 512 * 2 + f.bit / 32
               { b.flip (n / 32) (n % 32) (f.bit % 32) with checked := false }) b }

/-- A bank that is written whole holds no error (R293). -/
def Core.freshAcc (c : Core) (j bank : Nat) : Core :=
  if c.flips = [] then c
  else
    let ph := (c.ctx j).physBank bank
    { c with flips := c.flips.filter fun f => !(f.array == 10 && f.row / 512 == ph) }

/-- A cell. -/
def AccBank.cell (b : AccBank) (i j : Nat) : Nat := (AMap.get b.cells (32 * i + j) 0).toNat

/-- A table of words from a function; words that are zero are not listed. -/
def wordTable (n : Nat) (f : Nat → Nat) : AMap W32 :=
  ((List.range n).map fun k => (k, BitVec.ofNat 32 (f k))).filter fun e => e.2 != 0

/-- The rounded sum of FP32 codes (R231, R235). -/
def sumF32 (xs : List Nat) : Nat := Fmt.f32.round .rne (sumVals .rne (xs.map Fmt.f32.val))

/-- A row or column sum in the bank's kind: wrapped for INT32, rounded once for FP32. -/
def bankSum (int : Bool) (xs : List Nat) : Nat := if int then xs.sum % 2 ^ 32 else sumF32 xs

/-- The cells of a row and of a column. -/
def AccBank.row (b : AccBank) (i : Nat) : List Nat := (List.range 32).map fun j => b.cell i j
def AccBank.col (b : AccBank) (j : Nat) : List Nat := (List.range 32).map fun i => b.cell i j

/-! ## Beats (R119, R120, R229, R231) -/

/-- The operands of a beat: element i of k-row q on each side, and the scale of each column. -/
structure BeatOps where
  pair   : Pair
  dist   : Bool
  a      : List Byte
  b      : List Byte
  scales : List (BitVec 16)

/-- Element i of k-row q (R226). -/
def sideElem (bs : List Byte) (w q i : Nat) : Nat := leNat ((bs.drop (q * 32 * w + i * w)).take w)

def BeatOps.aVal (o : BeatOps) (i q : Nat) : Val :=
  (pairA o.pair).val (sideElem o.a (sideWidth o.pair false) q i)

/-- The weight of the B side, scaled for pairs 6 and 7 (R116). -/
def BeatOps.wVal (o : BeatOps) (q j : Nat) : Val :=
  let v := (pairB o.pair).val (sideElem o.b (sideWidth o.pair true) q j)
  if pairScaled o.pair then v.mul (Fmt.bf16.val (o.scales.getD j 0).toNat) else v

/-- The exact terms of a beat for a cell: products, or squared differences (R119, R120). -/
def BeatOps.terms (o : BeatOps) (a w : List Val) : List Val :=
  (a.zip w).map fun p =>
    if o.dist then
      let d := sumVals .rne [p.1, p.2.neg]
      d.mul d
    else p.1.mul p.2

/-- The integer of a value of pair 5. -/
def intOf (v : Val) : Int := match v with | .fin m e => m * 2 ^ e.toNat | _ => 0

/-- An accumulator word after a beat's terms: wrapped for pair 5, rounded once otherwise (R119). -/
def addTerms (int : Bool) (acc : Nat) (ts : List Val) : Nat :=
  if int then wrap 32 (sval 32 acc + (ts.map intOf).sum)
  else Fmt.f32.round .rne (sumVals .rne (Fmt.f32.val acc :: ts))

/-- The bank after a beat, with its checksums; it is unchecked (R119, R120, R231). -/
def AccBank.beat (b : AccBank) (o : BeatOps) : AccBank :=
  let int := o.pair == .i8
  let qs := List.range (pairDepth o.pair)
  let as := (List.range 32).map fun i => qs.map (o.aVal i)
  let ws := (List.range 32).map fun j => qs.map fun q => o.wVal q j
  let t := fun i j => o.terms (as.getD i []) (ws.getD j [])
  { cells := wordTable 1024 fun n => addTerms int (b.cell (n / 32) (n % 32)) (t (n / 32) (n % 32))
    ckr := wordTable 32 fun j =>
      addTerms int (AMap.get b.ckr j 0).toNat ((List.range 32).flatMap fun i => t i j)
    ckc := wordTable 32 fun i =>
      addTerms int (AMap.get b.ckc i 0).toNat ((List.range 32).flatMap fun j => t i j)
    checked := false
    marks := b.marks }

/-- Whether a beat is that of a member other than the leader of a standing gang (R230). -/
def isMember (e : Env) (o : BeatOp) : Bool :=
  o.gang && match e.s.gangOf e.k e.j with
    | some g => (g.members.headD (0, 0)).1 != e.k
    | none => false

/-- The sides of a beat that read a ring; a member ignores its B fields (R229, R230). -/
def beatSides (e : Env) (o : BeatOp) : List Side :=
  (if o.asrc then [] else [({ ring := o.aring.toNat, lr := o.alr, b := false, row := o.row.toNat } : Side)]) ++
  (if o.bsrc ∨ isMember e o then []
   else [({ ring := o.bring.toNat, lr := o.blr, b := true, row := o.row.toNat } : Side)])

/-- The coordinate of the first uncorrectable operand element of a beat, A side first. -/
def beatUe (e : Env) (o : BeatOp) : Option W64 :=
  let side := fun b (l : List Side) => firstUe e o.pair o.bank.toNat false (l.filter (·.b == b))
  (if o.asrc then edgeUe e o.pair o.bank.toNat false else side false (beatSides e o)).or
    (if o.bsrc && !isMember e o then edgeUe e o.pair o.bank.toNat true else side true (beatSides e o))

/-- The edge latches that a beat reads are corrected. -/
def useEdges (e : Env) (o : BeatOp) (s : State) : State :=
  s.modCore e.k fun c =>
    let c1 := if o.asrc then c.scrubEdge e.j false else c
    if o.bsrc && !isMember e o then c1.scrubEdge e.j true else c1

/-- Whether a beat reads and pops the context's own scale queue (R230, R238). -/
def usesScales (e : Env) (o : BeatOp) : Bool := pairScaled o.pair && !isMember e o

/-- Entries of scale loads that are still in flight (R238). -/
def ScaleQ.pending (q : ScaleQ) : Nat := (q.loads.map (·.vals.length)).sum

/-- 0x04 with the counts (R289). -/
def scaleTrap (e : Env) (i : Instr) : Trap :=
  let q := e.x.sq
  { cause := 4, slot := some (bitOf i),
    i0 := BitVec.ofNat 64 (q.landed.length + q.pending * 2 ^ 8 + q.staged.length * 2 ^ 16), i1 := rawOf i }

/-- Whether any entry of the queue is still to land (R118, R238). A q.ldt in flight counts: R239 lets its tile be
staged before any beat looks, and R118 has it count until it is (log entry 99). -/
def ScaleQ.coming (q : ScaleQ) : Bool := decide (q.pending + q.staged.length ≠ 0) || q.tile.isSome

/-- The checks of a beat: bank, gang, sides with their 0x0E and 0x09, scales (R225, R227, R230, R238; log entry 16). -/
def beatTrap (e : Env) (i : Instr) (o : BeatOp) : Option Trap :=
  if !decide (o.bank.toNat < e.x.accMap.length) then some (ill e i)
  else if o.gang && (e.s.gangOf e.k e.j).isNone && e.x.ltrap.isNone && e.x.gtrap.isNone then some (ill e i)
  else match sideTrap e i (beatSides e o) o.pair (beatUe e o) with
    | some t => some t
    | none =>
      if usesScales e o && decide (e.x.sq.landed.length < 32) && !e.x.sq.coming then some (scaleTrap e i)
      else none

/-- The scales of a beat: entry j for column j; a column whose entry has not landed uses it or +0
(R118; a free value). -/
def ScaleQ.scales (q : ScaleQ) (free : Nat) : List (BitVec 16) :=
  let rest := (q.loads.flatMap (·.vals) ++ q.staged ++ (q.tile.map (·.vals)).getD []).drop q.drop
  let all := q.landed ++ rest
  (List.range 32).map fun j =>
    if j < q.landed.length ∨ Config.freeBit free (64 + j) then all.getD j 0 else 0

/-- Removes the `n` oldest entries: landed ones at once, the others as they land (R238, R239). -/
def ScaleQ.remove (q : ScaleQ) (n : Nat) : ScaleQ :=
  let now := min n q.landed.length
  let more := q.pending + q.staged.length + (q.tile.map (·.vals.length)).getD 0
  { q with landed := q.landed.drop now, drop := min (q.drop + (n - now)) more }

/-- Whether a beat ends its K-block (R229). -/
def endsBlock (o : BeatOp) : Bool := pairDepth o.pair * (o.row.toNat + 1) % 32 == 0

/-- The last beat of a context is final in a cycle (R130, R225). -/
def Core.finalAt (c : Core) (j t : Nat) : Core := c.setCtx j { c.ctx j with mxDue := t }

/-- The effect of a beat (R229 to R231). A leader's B beat row and scales are kept for the members'
beats of the cycle. -/
def beatEff (e : Env) (o : BeatOp) (dist : Bool) (s : State) : State :=
  let member := isMember e o
  let gang := if o.gang then s.gangOf e.k e.j else none
  let aBytes := if o.asrc then edgeBytes e o.pair false
    else sideBytes e o.pair { ring := o.aring.toNat, lr := o.alr, b := false, row := o.row.toNat }
  let bBytes := if member then (gang.map (·.beatRow)).getD []
    else if o.bsrc then edgeBytes e o.pair true
    else sideBytes e o.pair { ring := o.bring.toNat, lr := o.blr, b := true, row := o.row.toNat }
  let scales := if member then (gang.map (·.scales)).getD []
    else if pairScaled o.pair then e.x.sq.scales e.s.free else []
  let ops : BeatOps := { pair := o.pair, dist := dist, a := aBytes, b := bBytes, scales := scales }
  let s1 := useEdges e o (useSides e o.pair (beatUe e o) (beatSides e o) s)
  let s2 := s1.modCore e.k fun c0 =>
    let c := c0.readAcc e.j o.bank.toNat
    (c.setAcc e.j o.bank.toNat ((c.acc e.j o.bank.toNat).beat ops)).finalAt e.j (s.now + 4)
  let s3 := if usesScales e o && endsBlock o then
      s2.modCtx e.k e.j fun x => { x with sq := x.sq.remove 32 } else s2
  match gang with
  | some g =>
    if member then s3
    else { s3 with gangs := s3.gangs.map fun h =>
      if h = g then { h with beatAt := some s.now, beatRow := bBytes, scales := scales } else h }
  | none => s3

/-- m.acc (R119, R229). -/
def semMAcc (o : BeatOp) : Sem where
  super := .compute
  check e := beatTrap e (.mAcc o) o
  eff e s := beatEff e o false s
def execMAcc (o : BeatOp) (s : State) : Out := issueOne (.mAcc o) (semMAcc o) s

/-- m.dist (R120, R229). -/
def semMDist (o : BeatOp) : Sem where
  super := .compute
  check e := beatTrap e (.mDist o) o
  eff e s := beatEff e o true s
def execMDist (o : BeatOp) (s : State) : Out := issueOne (.mDist o) (semMDist o) s

/-! ## m.shift and m.zero (R232) -/

/-- Row i + 1 goes to row i and row 0 to row 31; ckc rotates with the rows. -/
def AccBank.shift (b : AccBank) : AccBank :=
  { b with cells := wordTable 1024 fun n => b.cell ((n / 32 + 1) % 32) (n % 32)
           ckc := wordTable 32 fun i => (AMap.get b.ckc ((i + 1) % 32) 0).toNat
           marks := b.marks.map fun n => (n + 992) % 1024 }

/-- m.shift (R232). -/
def semMShift (bank : BitVec 2) : Sem where
  super := .compute
  check e := bankTrap e (.mShift bank) bank
  eff e s := s.modCore e.k fun c0 =>
    let c := c0.readAcc e.j bank.toNat
    c.setAcc e.j bank.toNat (c.acc e.j bank.toNat).shift
def execMShift (bank : BitVec 2) (s : State) : Out := issueOne (.mShift bank) (semMShift bank) s

/-- m.zero (R232). -/
def semMZero (bank : BitVec 2) : Sem where
  super := .compute
  check e := bankTrap e (.mZero bank) bank
  eff e s := s.modCore e.k fun c => (c.freshAcc e.j bank.toNat).setAcc e.j bank.toNat {}
def execMZero (bank : BitVec 2) (s : State) : Out := issueOne (.mZero bank) (semMZero bank) s

/-! ## The check (R235) -/

/-- Whether an FP32 code is finite. -/
def finite32 (x : Nat) : Bool := decide (Fmt.f32.magOf x ≤ Fmt.f32.maxCode)

/-- The exponent of ulp(x): 2^(this); ulp(0) = 2^−149 (R235). -/
def ulpExp (x : Nat) : Int := max 1 (Fmt.f32.magOf x / 2 ^ 23 : Nat) - 150

/-- |a − b| > tol · ulp(max(|a|, |b|)); not finite counts as a match (R235). -/
def mismatch32 (tol a b : Nat) : Bool :=
  if !finite32 a || !finite32 b then false
  else
    let m := max (Fmt.f32.magOf a) (Fmt.f32.magOf b)
    let y := (Fmt.f32.val b).dyadic
    let d := dyAdd (Fmt.f32.val a).dyadic (-y.1, y.2)
    let k := ulpExp m
    let lo := min d.2 k
    decide ((tol : Int) * 2 ^ (k - lo).toNat < d.1.natAbs * 2 ^ (d.2 - lo).toNat)

def mismatch (int : Bool) (tol a b : Nat) : Bool := if int then a != b else mismatch32 tol a b

/-- Whether a sum disagrees with its checksum, or holds a marked cell whose change its rounding may hide: with
tolerance 0 no soft error passes (R332; log entry 33). -/
def sumBad (int : Bool) (tol : Nat) (marked : Bool) (a b : Nat) : Bool :=
  mismatch int tol a b || (marked && tol == 0 && (int || (finite32 a && finite32 b)))

/-- The mismatched rows and columns of a bank. -/
def AccBank.misses (b : AccBank) (int : Bool) (tol : Nat) : List Nat × List Nat :=
  ((List.range 32).filter fun i => sumBad int tol (b.marks.any fun n => n / 32 == i)
     (bankSum int (b.row i)) (AMap.get b.ckc i 0).toNat,
   (List.range 32).filter fun j => sumBad int tol (b.marks.any fun n => n % 32 == j)
     (bankSum int (b.col j)) (AMap.get b.ckr j 0).toNat)

/-- The outcome of the check of a bank before its drain. -/
inductive CheckRes where
  | pass
  | fix (i j v : Nat)
  | fail (rows cols : Nat)
deriving DecidableEq, Repr

/-- The check of R235; none is made on a checked bank or with ckoff. -/
def AccBank.check (b : AccBank) (int : Bool) (mode : W64) : CheckRes :=
  if b.checked || mode.getLsbD 1 then .pass
  else match b.misses int (bitsOf mode 8 8) with
    | ([], []) => .pass
    | ([i], [j]) =>
      let others := ((List.range 32).filter (· != j)).map fun q => b.cell i q
      let ck := (AMap.get b.ckc i 0).toNat
      let v := if int then wrap 32 ((ck : Int) - (others.sum : Nat))
        else Fmt.f32.round .rne (sumVals .rne (Fmt.f32.val ck :: others.map fun x => (Fmt.f32.val x).neg))
      .fix i j v
    | (rs, cs) => .fail rs.length cs.length

/-- mx.status after a check that corrects or fails (R235, R237). -/
def mxAfter (st : W64) (bit bank rows cols corr : Nat) : W64 :=
  ((st &&& ~~~0xFFFFFFC0) ||| BitVec.ofNat 64 (2 ^ bit)) |||
    BitVec.ofNat 64 (bank * 64 + corr * 256 + rows * 65536 + cols * 2 ^ 24)

/-- The bank after a passed or correcting check. -/
def AccBank.fixed (b : AccBank) : CheckRes → AccBank
  | .fix i j v => { b with cells := AMap.set b.cells (32 * i + j) (BitVec.ofNat 32 v), marks := [] }
  | _ => b

/-- The bank after its bottom row has left: rows move down, checksums are recomputed (R233). -/
def AccBank.drained (b : AccBank) (int : Bool) : AccBank :=
  let b' : AccBank :=
    { b with cells := wordTable 1024 fun n => if n / 32 = 31 then 0 else b.cell (n / 32 + 1) (n % 32) }
  { b' with ckr := wordTable 32 fun j => bankSum int (b'.col j)
            ckc := wordTable 32 fun i => bankSum int (b'.row i)
            checked := true, marks := [] }

/-! ## m.drain and m.topk (R233, R234) -/

/-- A drain: the check, the value from the bottom row, and the shift. `int` tells an INT32 bank. -/
def semDrain (i : Instr) (pair : Pair) (bank : BitVec 2) (file : VUnit) (reg : BitVec 10)
    (val : AccBank → VReg) : Sem :=
  let int := pair == .i8
  let res := fun (e : Env) => ((e.c.readAcc e.j bank.toNat).acc e.j bank.toNat).check int e.x.mxMode
  { super := .compute
    check := fun e =>
      if !decide (bank.toNat < e.x.accMap.length) || beyond e.x file reg.toNat then some (ill e i)
      else match res e with
        | .fail rows cols =>
          some { cause := 9, slot := some 6, i0 := 0,
                 i1 := BitVec.ofNat 64 (bank.toNat + rows * 256 + cols * 65536),
                 i2 := BitVec.ofNat 64 e.x.rewinds }
        | _ => none
    fail := fun e t s =>
      match res e with
      | .fail rows cols =>
        if t.cause = 9 ∧ t.i0 = 0 then
          s.modCtx e.k e.j fun x =>
            { x with mxStat := mxAfter x.mxStat 2 bank.toNat rows cols (bitsOf x.mxStat 8 8) }
        else s
      | _ => s
    eff := fun e s =>
      let r := res e
      let s1 := match r with
        | .fix _ _ _ => s.modCtx e.k e.j fun x =>
          { x with mxStat := mxAfter x.mxStat 1 bank.toNat 1 1 (min 255 (bitsOf x.mxStat 8 8 + 1)) }
        | _ => s
      s1.modCore e.k fun c0 =>
        let c := c0.readAcc e.j bank.toNat
        let b := (c.acc e.j bank.toNat).fixed r
        (c.setAcc e.j bank.toNat (b.drained int)).result s.now s.free e.j (.vreg file reg.toNat) allLanes
          (val b) 6 6 }

/-- The bottom row converted, in the low elements (R233). -/
def drainVal (pair : Pair) (cvt : BitVec 4) (rnd : Rnd) (b : AccBank) : VReg :=
  let tgt := Fmt.ofCode cvt.toNat
  let src : Fmt := if pair = .i8 then .i32 else .f32
  ofList tgt.width ((b.row 0).map fun x => convert src (.fmt tgt) rnd x)

/-- m.drain (R233): latency 6, all lanes, no latch moves. -/
def semMDrain (pair : Pair) (bank : BitVec 2) (file : VUnit) (reg : BitVec 10) (cvt : BitVec 4) (rnd : Rnd) :
    Sem :=
  semDrain (.mDrain pair bank file reg cvt rnd) pair bank file reg (drainVal pair cvt rnd)
def execMDrain (pair : Pair) (bank : BitVec 2) (file : VUnit) (reg : BitVec 10) (cvt : BitVec 4) (rnd : Rnd)
    (s : State) : Out :=
  issueOne (.mDrain pair bank file reg cvt rnd) (semMDrain pair bank file reg cvt rnd) s

/-- The columns of the bottom row, best first, ties to the lower column (R234). -/
def topOrder (pair : Pair) (big : Bool) (b : AccBank) : List SortEntry :=
  let f : Fmt := if pair = .i8 then .i32 else .f32
  sortEntries (sortBefore f big) ((List.range 32).map fun j => (b.cell 0 j, j))

/-- Values in lanes 0 to k − 1, columns in lanes 8 to 8 + k − 1 (R234). -/
def topVal (pair : Pair) (k : Nat) (big : Bool) (b : AccBank) : VReg :=
  let es := topOrder pair big b
  ofElems 32 32 fun i =>
    if i < k then (es.getD i (0, 0)).1 else if 8 ≤ i ∧ i < 8 + k then (es.getD (i - 8) (0, 0)).2 else 0

/-- m.topk (R234). -/
def semMTopk (pair : Pair) (bank : BitVec 2) (file : VUnit) (reg : BitVec 10) (k : BitVec 3) (big : Bool) :
    Sem :=
  semDrain (.mTopk pair bank file reg k big) pair bank file reg (topVal pair k.toNat big)
def execMTopk (pair : Pair) (bank : BitVec 2) (file : VUnit) (reg : BitVec 10) (k : BitVec 3) (big : Bool)
    (s : State) : Out :=
  issueOne (.mTopk pair bank file reg k big) (semMTopk pair bank file reg k big) s

end Sys2Proof.Machine
end

