-- ==== Sys2Proof/Machine/ScaleQ.lean ====
section
/-!
DEFINITION. The Q slot and the scale queue (R116 to R118, R238, R239).
-/

namespace Sys2Proof.Machine

/-! ## Reading scales (R117, R239) -/

/-- The 64-byte line of a q.ld. -/
def qLine (e : Env) (base : BitVec 5) (off : BitVec 16) : Nat := qAddr e base off / 64 * 64

/-- `n` halfwords from an address, read as a class-0 LD of the bundle reads (R239). -/
def scaleWords (e : Env) (a n : Nat) : List (BitVec 16) :=
  (List.range n).map fun i =>
    BitVec.ofNat 16 (leNat (e.c.ldBytes e.j 0 e.s.free (a + 2 * i) 2))

/-- The halfword of group g and column j in a scale tile (R117). -/
def swizzle (g j : Nat) : Nat := 32 * g + (j ^^^ (2 * g % 32))

/-- A scale tile in group order, each group in column order (R117, R239). -/
def unswizzle (ws : List (BitVec 16)) : List (BitVec 16) :=
  (List.range 512).map fun n => ws.getD (swizzle (n / 32) (n % 32)) 0

/-- Touches and corrections of a Q load. -/
def useScales (e : Env) (a n : Nat) (s : State) : State :=
  s.modCore e.k fun c => (c.touchAll e.j [a] false).scrubMem [a] n

/-- q.nop (R239). -/
def semQNop : Sem where
  super := .compute
def execQNop (s : State) : Out := issueOne .qNop semQNop s

/-- The queue-imbalance conditions of q.ld (R239). -/
def ScaleQ.ldBad (q : ScaleQ) : Bool :=
  decide (64 < q.landed.length + q.pending + 32) || decide (q.staged ≠ []) || q.tile.isSome

/-- q.ld (R239): 32 entries land at t + 4. Its 0x04 goes before a 0x0E or 0x09 (log entry 16). -/
def semQLd (base : BitVec 5) (off : BitVec 16) : Sem where
  super := .compute
  rows e := addrRows e.j base 0
  check e :=
    if e.x.sq.ldBad then some (scaleTrap e (.qLd base off))
    else memTrap e (.qLd base off) [qLine e base off] 64 true
  eff e s :=
    let a := qLine e base off
    let l : ScaleLoad := { at_ := s.now + 4, due := s.now + 4, vals := scaleWords e a 32 }
    (useScales e a 64 s).modCtx e.k e.j fun x => { x with sq := { x.sq with loads := x.sq.loads ++ [l] } }
def execQLd (base : BitVec 5) (off : BitVec 16) (s : State) : Out := issueOne (.qLd base off) (semQLd base off) s

/-- q.ldt (R117, R118, R239): 16 groups, staged no later than t + 8. Its 0x04 goes before a
0x0E or 0x09 (log entry 16). -/
def semQLdt (base : BitVec 5) (off : BitVec 16) (count : BitVec 7) : Sem where
  super := .compute
  rows e := addrRows e.j base 0
  check e :=
    let a := qAddr e base off
    if a % 1024 ≠ 0 ∨ count ≠ 16 then
      some { cause := 5, slot := some 7, i0 := BitVec.ofNat 64 a, i1 := rawOf (.qLdt base off count) }
    else if e.x.sq.staged ≠ [] ∨ e.x.sq.tile.isSome then some (scaleTrap e (.qLdt base off count))
    else memTrap e (.qLdt base off count) ((List.range 16).map fun i => a + 64 * i) 64 true
  eff e s :=
    let a := qAddr e base off
    let l : ScaleLoad := { at_ := s.now + 1 + Config.early s.free 7 % 8, due := s.now + 8,
                           vals := unswizzle (scaleWords e a 512) }
    (useScales e a 1024 s).modCtx e.k e.j fun x => { x with sq := { x.sq with tile := some l } }
def execQLdt (base : BitVec 5) (off : BitVec 16) (count : BitVec 7) (s : State) : Out :=
  issueOne (.qLdt base off count) (semQLdt base off count) s

/-- q.skip (R239): removes the oldest entries. -/
def semQSkip (n : BitVec 7) : Sem where
  super := .compute
  check e :=
    let q := e.x.sq
    if q.landed.length + q.pending + q.staged.length < n.toNat then some (scaleTrap e (.qSkip n)) else none
  eff e s := s.modCtx e.k e.j fun x => { x with sq := x.sq.remove n.toNat }
def execQSkip (n : BitVec 7) (s : State) : Out := issueOne (.qSkip n) (semQSkip n) s

/-! ## The queue by itself (R238) -/

/-- Entries that land lose those that a pop or a q.skip has removed already. -/
def ScaleQ.land (q : ScaleQ) (vals : List (BitVec 16)) : ScaleQ :=
  let d := min q.drop vals.length
  { q with landed := q.landed ++ vals.drop d, drop := q.drop - d }

/-- The oldest scale load lands when its cycle has come. -/
def ScaleQ.landDue (q : ScaleQ) (now : Nat) : Bool := q.loads.any fun l => decide (l.at_ ≤ now)

def ScaleQ.landOne (q : ScaleQ) : ScaleQ :=
  match q.loads with
  | [] => q
  | l :: ls => { q with loads := ls }.land l.vals

/-- Whether the tile in flight reaches the stage now. -/
def ScaleQ.stageDue (q : ScaleQ) (now : Nat) : Bool := q.tile.any fun l => decide (l.at_ ≤ now)

def ScaleQ.stageTile (q : ScaleQ) : ScaleQ :=
  match q.tile with
  | none => q
  | some l => { q with tile := none, staged := q.staged ++ l.vals }

/-- Whether a staged group moves into the queue in this cycle, after its pops and landings. -/
def ScaleQ.moveDue (q : ScaleQ) (now : Nat) : Bool :=
  decide (q.landed.length + q.pending ≤ 32) && q.loads.isEmpty && decide (q.staged ≠ []) &&
    decide (q.moved ≠ some now)

def ScaleQ.moveGroup (q : ScaleQ) (now : Nat) : ScaleQ :=
  { ({ q with staged := q.staged.drop 32 }.land (q.staged.take 32)) with moved := some now }

/-- Changes the scale queue of a context. -/
def State.modSq (s : State) (k j : Nat) (f : ScaleQ → ScaleQ) : State :=
  s.modCtx k j fun x => { x with sq := f x.sq }

/-- An event: its next state when its condition holds; otherwise it does not happen. -/
@[inline] def happen (ok : Bool) (name : String) (s : State) : Out :=
  if ok then .next s else .refused (.notEnabled name)

/-- SCALE_LOAD_LAND (R238, R239). -/
def execScaleLoadLand (core ctx : Nat) (s : State) : Out :=
  happen ((s.ctx core ctx).sq.landDue s.now) "SCALE_LOAD_LAND" (s.modSq core ctx ScaleQ.landOne)

/-- SCALE_TILE_STAGE (R238, R239). -/
def execScaleTileStage (core ctx : Nat) (s : State) : Out :=
  happen ((s.ctx core ctx).sq.stageDue s.now) "SCALE_TILE_STAGE" (s.modSq core ctx ScaleQ.stageTile)

/-- SCALE_GROUP_MOVE (R238). -/
def execScaleGroupMove (core ctx : Nat) (s : State) : Out :=
  happen ((s.ctx core ctx).sq.moveDue s.now) "SCALE_GROUP_MOVE"
    (s.modSq core ctx fun q => q.moveGroup s.now)

end Sys2Proof.Machine
end

