-- ==== Sys2Proof/Machine/Engine.lean ====
section
/-!
DEFINITION. Counted commands in their engines: completion, stops and records (R241, R300 to R303), the
accesses that a command has still to perform, and when an access may be performed (R57, R60, R96 to
R102).
-/

namespace Sys2Proof.Machine

/-! ## Fields of an X slot (R149, R242) -/

def opOf (i : Instr) : Nat := bitsOf (rawOf i) 56 8
def ccOf (i : Instr) : Nat := bitsOf (rawOf i) 48 6

/-- Horizontal transfers (R1, R100, R104). -/
def horizontal (i : Instr) : Bool :=
  match i with
  | .xXchp .. | .xRst .. | .xColl .. => true
  | _ => false

/-- The value of operand A, B, C or D (0 to 3) at issue. -/
def Cmd.arg (m : Cmd) (n : Nat) : Nat := (m.args.getD n 0).toNat

/-! ## Commands of a context -/

def Ctx.cmd? (x : Ctx) (seq : Nat) : Option Cmd := x.cmds.find? (·.seq == seq)

def State.setCmd (s : State) (k j : Nat) (m : Cmd) : State :=
  s.modCtx k j fun x => { x with cmds := x.cmds.map fun p => if p.seq = m.seq then m else p }

/-- Whether a command is stopped, by a fault or by a refused claim (R300, R307). -/
def Cmd.stopped (m : Cmd) : Bool :=
  match m.status with
  | .stopped _ => true
  | _ => m.hold.isSome

/-- Whether the task of a context has ended for good: nothing is delivered to it any more (R303). -/
def Ctx.ended (x : Ctx) : Bool := x.inTrap && x.status == .halted

/-- Advances a completion counter; a gang counter in every member (R241, R31). -/
def State.advanceCc (s : State) (k j cc : Nat) : State :=
  let bump := fun x : Ctx => { x with cc := AMap.set x.cc cc (x.counter cc + 1) }
  match s.gangOf k j with
  | some g => if 48 ≤ cc then g.members.foldl (fun s m => s.modCtx m.1 m.2 bump) s else s.modCtx k j bump
  | none => s.modCtx k j bump

/-- A fault becomes pending (R286). A context that waits at a delivery point for it, in x.cwait on the
counter or after its x.halt, goes back to that bundle, which has had its effects (R290). -/
def Ctx.pushFault (x : Ctx) (now : Nat) (r : Record) : Ctx :=
  if x.ended then x
  else
    let x1 := { x with faults := x.faults ++ [r] }
    match x.status with
    | .halted => x1.putBack now
    | .blocked ws _ =>
      if !x.inTrap && ws.any (fun w => match w with | .cwait cc _ => r.cc == some cc | _ => false) then
        x1.putBack now
      else x1
    | _ => x1

/-- info0 of a record of R302. -/
def Cmd.info0 (m : Cmd) (cause : Nat) : Nat :=
  m.pc + ccOf m.ins * 2 ^ 16 + opOf m.ins * 2 ^ 24 + if cause = 9 then 4 * 2 ^ 32 else 0

/-- The slots of a ring from index `i` on that hold a block of level D. -/
def Core.toRetire (c : Core) (r i : Nat) : List Nat :=
  let g := c.ring r
  (List.range (g.len - i)).map (· + i) |>.filter fun d => (c.slotSb (g.base + d)).okind == 1

/-- info1 and info3 of a record: the element, or the cursor or ring, and the remaining extent (R302). -/
def Cmd.extent (m : Cmd) (c : Core) (addr : Nat) : Nat × Nat :=
  match m.ins with
  | .xWadv _ _ r _ => (((c.ring r.toNat).win.map (·.cursor)).getD 0, m.n - m.i)
  | .xWcls _ _ r => (r.toNat, (c.toRetire r.toNat m.i).length)
  | .xProbe .. | .xDisc .. => (0, m.arg 0 + m.arg 1 - addr)
  | .xRst .. => (0, m.n)
  | _ => (m.i, m.n - m.i)

/-- The record of a command that stops (R302). -/
def Cmd.record (m : Cmd) (c : Core) (cause addr : Nat) : Record :=
  { cause := cause, fatal := cause == 8, info0 := BitVec.ofNat 64 (m.info0 cause),
    info1 := BitVec.ofNat 64 (m.extent c addr).1, info2 := BitVec.ofNat 64 addr,
    info3 := BitVec.ofNat 64 (m.extent c addr).2, cc := some (ccOf m.ins), seq := m.seq }

/-- An x.mon that stops leaves the context without a monitor (R253). -/
def Ctx.monStop (x : Ctx) (m : Cmd) : Ctx :=
  match m.ins with
  | .xMon .. => if x.monSeq = m.seq then { x with mon := .none } else x
  | _ => x

/-- The cause of a stop: 0x08 where a resumed element fails again in the 64 KiB unit of its recorded address
with no probe since, whatever the causes (R303; log entry 18). -/
def Cmd.causeAt (m : Cmd) (cause addr : Nat) : Nat :=
  if m.bad.map (· / 65536) = some (addr / 65536) then 8 else cause

/-- The command stops at its element with a fault at an address (R300, R303). A stop of a task that has
ended drops the command. -/
def State.stopCmd (s : State) (k j : Nat) (m : Cmd) (cause addr : Nat) : State :=
  let r := m.record (s.core k) (m.causeAt cause addr) addr
  if (s.ctx k j).ended then s.modCtx k j fun x => { x with cmds := x.cmds.filter (·.seq != m.seq) }
  else
    let m' := { m with status := .stopped r, hold := none, bad := some addr, placed := 0 }
    (s.setCmd k j m').modCtx k j fun x => (x.monStop m).pushFault s.now r

/-- The command completes (R241): it leaves the outstanding ones, a fault of a poisoned transit buffer
becomes pending (R300), and its counter advances. -/
def State.finishCmd (s : State) (k j : Nat) (m : Cmd) : State :=
  let s1 := s.modCtx k j fun x =>
    { x.loadsBefore (orderClass m.ins) m.t with cmds := x.cmds.filter (·.seq != m.seq) }
  let s2 := match m.poison with
    | none => s1
    | some (e, a) =>
      let r : Record := { cause := 0x0E, fatal := false, info0 := BitVec.ofNat 64 (m.info0 0x0E),
                          info1 := BitVec.ofNat 64 e, info2 := BitVec.ofNat 64 a, info3 := 0,
                          cc := some (ccOf m.ins), seq := m.seq }
      s1.modCtx k j fun x => x.pushFault s.now r
  s2.advanceCc k j (ccOf m.ins)

/-- A command that a refused claim stopped resumes with the retry that succeeds (R307). -/
def Cmd.retried (m : Cmd) (next : Nat) : Cmd :=
  { m with hold := none, resumed := if m.hold.isSome then next else m.resumed }

/-- The command goes on to its next element, or completes after its last. The loads that its access is ordered after
have been performed (R96, R344). -/
def State.nextElem (s : State) (k j : Nat) (m : Cmd) : State :=
  let m' := { m with i := m.i + 1, status := .queued, bad := none, placed := m.placed - 8 }.retried (s.ctx k j).cmdSeq
  if m'.n ≤ m'.i then s.finishCmd k j m'
  else (s.modCtx k j fun x => x.loadsBefore (orderClass m.ins) m.t).setCmd k j m'

/-! ## Elements of a command -/

/-- Word `i` of the bytes read at issue. -/
def Cmd.word (m : Cmd) (w i : Nat) : Nat := leNat ((m.data.drop (w * i)).take w)

/-- The slot that a window fills next (R68). -/
def Ring.tailSlot (g : Ring) : Nat := g.base + g.tail % g.len

/-- The trade that the next row of an x.wadv needs, and whether it is the row's own (R68): first the
retirement of the slot's block of level D, then the row of the tensor. -/
def windowTrade (c : Core) (sub r : Nat) : Option (Bool × Nat × Nat) :=
  let g := c.ring r
  let k := g.tailSlot
  let sb := c.slotSb k
  if sub = 0 ∧ sb.okind = 1 then some (false, k, sb.origin.toNat * 2048)
  else if sub ≤ 1 then
    match g.win with
    | some w => if w.cursor < w.nrows then some (true, k, w.tbase + w.cursor * w.stride * 2048) else none
    | none => none
  else none

/-- Near and far location of the command's next trade (R61 to R63, R68, R243). -/
def Cmd.trade (m : Cmd) (k : Nat) (c : Core) : Option (Loc × Loc) :=
  if m.n ≤ m.i then none
  else match m.ins with
    | .xXch _ _ _ _ slot _ => some (.s k (slot.toNat + m.i), .d (m.arg 0 + 2048 * m.i))
    | .xXchp _ _ _ slot _ => some (.s k (slot.toNat + m.i), .p (clusterOf k) (m.arg 0 % 4096 + m.i))
    | .xXchn .. => let p := nestElem (wordsAt m.data 8) m.i; some (.s k p.1, .d p.2)
    | .xXchs .. => some (.s k ((m.arg 0 + 16 * m.i) / 2048), .d (m.arg 2 + 16 * m.word 4 m.i))
    | .xWadv _ _ r _ => (windowTrade c m.sub r.toNat).map fun t => (.s k t.2.1, .d t.2.2)
    | .xWcls _ _ r =>
      ((c.toRetire r.toNat m.i).head?).map fun d =>
        let sl := (c.ring r.toNat).base + d
        (.s k sl, .d ((c.slotSb sl).origin.toNat * 2048))
    | _ => none

/-- Whether the trades of a command are of granules (R63). -/
def Cmd.granular (m : Cmd) : Bool := match m.ins with | .xXchs .. => true | _ => false

/-- Whether a command is carried out by trades. -/
def Cmd.trades (m : Cmd) : Bool :=
  match m.ins with
  | .xXch .. | .xXchp .. | .xXchn .. | .xXchs .. | .xWadv .. | .xWcls .. => true
  | _ => false

/-! ## Accesses (R92) -/

/-- A run of bytes that an access touches: its space, the bytes, whether it reads and writes, and whether
it obeys the order of SO pages or lies on a UO page (R98, R102). -/
structure Span where
  space : Nat
  lo    : Nat
  n     : Nat
  rd    : Bool
  wr    : Bool
  so    : Bool
  uo    : Bool
deriving DecidableEq, Repr

/-- Numbers of the spaces: the scratchpads, the windows' vats, the pools and level D (MODEL). -/
def spaceS (core : Nat) : Nat := core
def spaceVat (core : Nat) : Nat := 1024 + core
def spaceP (cluster : Nat) : Nat := 2048 + cluster
def spaceD : Nat := 4096

/-- Two accesses touch a common byte and one of them writes (R97). -/
def Span.clash (a b : Span) : Bool :=
  a.space == b.space && decide (a.lo < b.lo + b.n) && decide (b.lo < a.lo + a.n) && (a.wr || b.wr)

/-- Where a byte of level D lies in device page space, and the kind of its page. -/
def State.spot (s : State) (vi addr : Nat) : Option (Nat × Nat) :=
  match s.translate vi addr false with
  | .ok p => some (p.die * 2 ^ 41 + dpsOf p.dfn p.blk + p.off, p.kind)
  | .error _ => none

/-- An access to level D: none where the address does not translate. -/
def State.spanD (s : State) (vi addr n : Nat) (rd wr cleat : Bool) : List Span :=
  match s.spot vi addr with
  | none => []
  | some (a, kind) =>
    [{ space := spaceD, lo := a, n := n, rd := rd, wr := wr, so := cleat || kind == 0,
       uo := !cleat && kind == 2 }]

/-- The accesses of a trade. -/
def State.spansOf (s : State) (vi : Nat) (gran : Option Nat) (near far : Loc) : List Span :=
  let n := if gran.isSome then 16 else 2048
  let f := match far with
    | .d a => s.spanD vi a n true true false
    | .p cl sl => [{ space := spaceP cl, lo := sl * 2048, n := n, rd := true, wr := true, so := false, uo := false }]
    | .s k sl => [{ space := spaceS k, lo := sl * 2048, n := n, rd := true, wr := true, so := false, uo := false }]
  let uo := f.any (·.uo)
  let nr := match near with
    | .s k sl => [{ space := spaceS k, lo := gran.getD (sl * 2048), n := n, rd := true, wr := true,
                    so := false, uo := uo : Span }]
    | _ => []
  nr ++ f

/-- Whether a function of x.amo writes (R250). -/
def amoWrites (fn : BitVec 4) : Bool := fn != 10

/-- The blocks of an x.disc from where it stands. -/
def Cmd.discards (m : Cmd) : List Nat := (List.range ((m.arg 1 - m.sub) / 2048)).map fun b => m.arg 0 + m.sub + 2048 * b

/-- The accesses of element `i` of a command (the next one of a window command). -/
def State.elemSpans (s : State) (k vi : Nat) (m : Cmd) (i : Nat) : List Span :=
  match m.ins with
  | .xAmo _ _ _ _ _ _ _ fn _ => s.spanD vi (m.arg 0) 8 true (amoWrites fn) true
  | .xAmov _ _ _ _ _ _ _ fn res _ =>
    s.spanD vi (m.arg 0 + 8 * m.word 4 i) 8 true (amoWrites fn) true ++
      (if res then [{ space := spaceS k, lo := m.arg 3 + 8 * i, n := 8, rd := false, wr := true, so := false,
                      uo := false }] else [])
  | .xRedm _ _ _ _ _ _ fmt _ =>
    let w := if fmt = 1 then 2 else 4
    s.spanD vi ((m.arg 0 + w * i) / 8 * 8) 8 true true true
  | .xMon .. => s.spanD vi (m.arg 0) 8 true false true
  | .xDisc .. => (m.discards.filter fun a => !m.parts.contains (a / 65536)).flatMap fun a =>
      s.spanD vi a 2048 false true false
  | .xColl .. =>
    let ws := wordsAt (m.data.take 64) 8
    let len := (ws.getD 3 0).toNat
    let all := bitsOf (ws.getD 0 0) 0 2 == 2
    let out := if all then len * bitsOf (ws.getD 0 0) 32 16 else len
    let left := fun n => (List.range n).filter fun b => !m.parts.contains b
    (if m.sub = 0 then (left (len / 2048)).flatMap fun b =>
        s.spanD vi ((ws.getD 1 0).toNat + 2048 * b) 2048 true false false else []) ++
    ((if m.sub = 0 then List.range (out / 2048) else left (out / 2048)).flatMap fun b =>
        s.spanD vi ((ws.getD 2 0).toNat + 2048 * b) 2048 false true false) ++
    s.spanD vi (ws.getD 5 0).toNat 8 false true false
  | .xRst .. => [{ space := spaceVat (m.arg 2 % 1024), lo := m.arg 1, n := 64 * m.n, rd := false,
                   wr := true, so := false, uo := false }]
  | _ =>
    match ({ m with i := i } : Cmd).trade k (s.core k) with
    | some (near, far) =>
      s.spansOf vi (if m.granular then some (m.arg 0 + 16 * i) else none) near far
    | none => []

/-- Whether a command is an x.wadv or x.wcls, whose trades depend on its ring. -/
def Cmd.stepwise (m : Cmd) : Bool :=
  match m.ins with
  | .xWadv .. | .xWcls .. => true
  | _ => false

/-- The trades that row `q` of an x.wadv, counted from the next one, has still to make, as the ring and its slots
stand (R68). The slot of a row beyond the ring's length holds, by then, the row placed there last. -/
def Core.rowTrades (c : Core) (r sub q : Nat) : List (Nat × Nat) :=
  let g := c.ring r
  let k := g.base + (g.tail + q) % g.len
  let row := fun n => g.win.bind fun w =>
    if w.cursor + n < w.nrows then some (w.tbase + (w.cursor + n) * w.stride * 2048) else none
  let old := if q < g.len then (if (c.slotSb k).okind = 1 then some ((c.slotSb k).origin.toNat * 2048) else none)
    else row (q - g.len)
  let sub := if q = 0 then sub else 0
  (if sub = 0 then (old.map fun a => (k, a)).toList else []) ++ (if sub ≤ 1 then ((row q).map fun a => (k, a)).toList else [])

/-- The rows that earlier x.wadv commands of the ring, in any context of the core, have still to place (R68, R244). -/
def Core.rowsAhead (c : Core) (t : Nat) (ring : BitVec 4) : Nat :=
  ((c.ctxs.flatMap (·.2.cmds)).map fun p => match p.ins with
    | .xWadv _ _ r _ => if r = ring ∧ p.t < t then p.n - p.i else 0
    | _ => 0).sum

/-- Whether an earlier command of the core closes the window of the ring (R68). -/
def Core.closesAhead (c : Core) (t : Nat) (ring : BitVec 4) : Bool :=
  c.ctxs.any fun jx => jx.2.cmds.any fun p => match p.ins with
    | .xWcls _ _ r => r == ring && decide (p.t < t)
    | _ => false

/-- The block of level D that slot `d` of a ring holds once `ahead` more rows are placed: its address. -/
def Core.heldAfter (c : Core) (r ahead d : Nat) : Option Nat :=
  let g := c.ring r
  match ((List.range ahead).filter fun q => (g.tail + q) % g.len == d).getLast? with
  | some q => g.win.bind fun w => if w.cursor + q < w.nrows then some (w.tbase + (w.cursor + q) * w.stride * 2048) else none
  | none =>
    let sb := c.slotSb (g.base + d)
    if sb.okind = 1 then some (sb.origin.toNat * 2048) else none

/-- The trades that a window command has still to make: slot and address, after those of the commands before it
(R68). -/
def Core.windowTrades (c : Core) (m : Cmd) : List (Nat × Nat) :=
  match m.ins with
  | .xWadv _ _ r _ =>
    if c.closesAhead m.t r then []
    else
      let ahead := c.rowsAhead m.t r
      (List.range (m.n - m.i)).flatMap fun q => c.rowTrades r.toNat m.sub (ahead + q)
  | .xWcls _ _ r =>
    let g := c.ring r.toNat
    (List.range (g.len - m.i)).filterMap fun d =>
      (c.heldAfter r.toNat (c.rowsAhead m.t r) (m.i + d)).map fun a => (g.base + (m.i + d), a)
  | _ => []

/-- Whether the slot of a window's next row is free (R68, R181). -/
def Cmd.slotOpen (m : Cmd) (c : Core) (now : Nat) : Bool :=
  match m.ins with
  | .xWadv _ _ r _ => decide (m.sub ≠ 0) || decide ((c.ring r.toNat).openAt now ≠ 0)
  | _ => true

/-- The accesses that a command has still to perform; none while it is stopped (R101, R300). -/
def State.rest (s : State) (k vi : Nat) (m : Cmd) : List Span :=
  if m.stopped then []
  else if m.stepwise then ((s.core k).windowTrades m).flatMap fun p => s.spansOf vi none (.s k p.1) (.d p.2)
  else (List.range (m.n - m.i)).flatMap fun d => s.elemSpans k vi m (m.i + d)

/-! ## When an access may be performed -/

/-- Whether a fence or a release mark `m` covers the remaining elements of an earlier command: not those of one that
has resumed since `m` was issued (R100, R101). -/
def Cmd.covered (p m : Cmd) : Bool := decide (p.resumed ≤ m.seq)

/-- Whether both commands are x.rst and every flit of the earlier one has its place in the token schedule, so that it
lands first (R42, R43). -/
def Cmd.landsFirst (p m : Cmd) : Bool :=
  match p.ins, m.ins with
  | .xRst .., .xRst .. => decide (p.n ≤ 4 * p.placed)
  | _, _ => false

/-- An earlier command of the context lets the accesses `es` of a later one go ahead: a fence (R101), the
marks (R100), the order of SO pages and of Cleat operations (R98, R102), coherence (R92). -/
def State.lets (s : State) (k vi : Nat) (p m : Cmd) (es : List Span) : Bool :=
  match p.ins with
  | .xFence _ kind _ => if kind = 1 then es.all (!·.wr) else es.isEmpty
  | _ =>
    let r := s.rest k vi p
    let free := indep (classOf p.ins) (classOf m.ins)
    let first := (List.range m.i).all fun i => (s.elemSpans k vi m i).all (·.uo)
    let marked := (p.covered m && markOf m.ins % 2 == 1 && first && !horizontal p.ins) || markOf p.ins / 2 == 1
    (!(marked && es.any (!·.uo)) || r.all (·.uo)) &&
      (free || !(es.any (·.so) && r.any (·.so))) &&
      (free || p.landsFirst m || !(es.any fun a => r.any a.clash))

/-- The stores of the context that the fork orders before a command have committed (R96, R97, R100). -/
def Core.forked (c : Core) (j : Nat) (m : Cmd) : Bool :=
  !(c.stq.any fun st => st.ctx == j && decide (st.t ≤ m.t) &&
    !indep st.cls (orderClass m.ins))

/-- The trades of the core in all its contexts that share a location, in issue order whatever their classes, as far as
they are known (R60). -/
def State.capstanLets (s : State) (k : Nat) (m : Cmd) (es : List Span) : Bool :=
  (List.range 4).all fun i => (s.ctx k i).cmds.all fun p =>
      !(p.trades && m.trades && decide (p.t < m.t)) ||
        !((s.rest k (s.ctx k i).vi p).any fun b => es.any b.clash)

/-- An access of a command may be performed now (R57, R60, R96 to R102, R307). -/
def State.mayStart (s : State) (k j : Nat) (m : Cmd) (es : List Span) : Bool :=
  let x := s.ctx k j
  decide (m.t < s.now) && decide (m.hold.getD 0 ≤ s.now) && (s.core k).forked j m &&
    ((x.cmds.filter (·.seq < m.seq)).all fun p => s.lets k x.vi p m es) &&
    s.capstanLets k m es

/-! ## Trades in flight -/

/-- The exchange entries of a core (R56). -/
def Core.entries (c : Core) : List Trade :=
  c.ctxs.flatMap fun jx => jx.2.cmds.filterMap fun m => match m.status with | .flight t => some t | _ => none

/-- The exchange entries of every core. -/
def State.entries (s : State) : List Trade := s.cores.flatMap fun kc => kc.2.entries

/-- Whether a trade in flight names a location: a slot, or a block of level D by die, frame and block. -/
def Trade.names (t : Trade) (l : Loc) (place : Option (Nat × Nat × Nat)) : Bool :=
  match l with
  | .d _ => match t.far with
    | .d _ => place == some (t.die, t.dfn, t.blk)
    | _ => false
  | l => t.near == l || t.far == l

/-- Die, frame and block of an address, where it translates. -/
def State.frameOf (s : State) (vi addr : Nat) : Option (Nat × Nat × Nat) :=
  match s.translate vi addr true with
  | .ok p => some (p.die, p.dfn, p.blk)
  | .error _ => none

/-- No trade in flight names a location of the trade (R57). -/
def State.unheld (s : State) (vi : Nat) (near far : Loc) : Bool :=
  let place := match far with | .d a => s.frameOf vi a | _ => none
  s.entries.all fun t => !t.names near none && !t.names far place

end Sys2Proof.Machine
end

