-- ==== Sys2Proof/Machine/Media.lean ====
section
/-!
DEFINITION. Pool slots, the media of level D under a trade (R59, R83, R88, R89, R313), corrected and
uncorrectable errors (R301, R311, R314), and claims on host pages (R307).
-/

namespace Sys2Proof.Machine

/-! ## Pool slots (R49) -/

def State.getPool (s : State) (cl sl : Nat) : Block :=
  let n := cl * 4096 + sl
  { sb := AMap.get s.psb n {}, bytes := s.pmem.slice (n * 2048) 2048 }

def State.putPool (s : State) (cl sl : Nat) (b : Block) : State :=
  let n := cl * 4096 + sl
  { s with psb := AMap.set s.psb n b.sb, pmem := s.pmem.paste (n * 2048) 2048 b.bytes,
           phard := s.phard.filter (· != n) }

/-! ## The hash of tier N (R88, R313) -/

/-- The channels of a group that the re-interleaved hash uses, ascending: those that were not retired when the
die switched to it (R312, R313). -/
def Die.live (d : Die) (g : Nat) : List Nat := (List.range 16).filter fun c => !d.out.contains (g, c)

/-- The width of a group after re-interleaving (R313). -/
def Die.width (d : Die) (g : Nat) : Nat := if (d.live g).length < 16 then 14 else 15

/-- The sum of the widths. -/
def Die.wide (d : Die) : Nat := ([0, 1, 2, 3].map d.width).sum

/-- The first group whose range holds `r`, with the place in it (R313). -/
def Die.groupAt (d : Die) : List Nat → Nat → Nat × Nat
  | [], r => (0, r)
  | g :: gs, r => if r < d.width g then (g, r) else d.groupAt gs (r - d.width g)

/-- Group, channel within it and stripe row of a tier N block (R88, R313). -/
def Die.hash (d : Die) (loc blk : Nat) : Nat × Nat × Nat :=
  let n := loc * 1024 + blk
  if d.rehash then
    let s := n / d.wide
    let (g, j) := d.groupAt [0, 1, 2, 3] (n % d.wide)
    if d.width g = 15 then
      let pc := s % 16
      (g, if j < pc then j else j + 1, s)
    else
      let pc := s % 15
      (g, (d.live g).getD (if j < pc then j else j + 1) 0, s)
  else
    let q := n / 4
    let s := q / 15
    let j := q % 15
    let pc := s % 16
    (n % 4, if j < pc then j else j + 1, s)

/-! ## Stripes and parity (R89, R312, R313) -/

/-- The data blocks of a stripe of a group, by number: loc · 1,024 + block (R88, R313). -/
def Die.stripe (d : Die) (g row : Nat) : List Nat :=
  if d.rehash then
    (List.range (d.width g)).map fun j => row * d.wide + (((List.range g).map d.width).sum + j)
  else (List.range 15).map fun j => (15 * row + j) * 4 + g

/-- The channel that holds the parity of a stripe (R88, R313). -/
def Die.parityChan (d : Die) (g row : Nat) : Nat :=
  if d.rehash && d.width g == 14 then (d.live g).getD (row % 15) 0 else row % 16

/-- The exclusive or of two runs of bytes. -/
def xorBytes (a b : List Byte) : List Byte := a.zipWith (· ^^^ ·) b

/-- The side-band word (R52). -/
def SideBand.word (b : SideBand) : W64 :=
  let st := match b.state with | .present => 0 | .empty => 1 | .absent => 2 | .poisoned => 3
  BitVec.ofNat 64 (st + b.size.toNat * 4 + (if b.clean then 16 else 0) + b.okind.toNat * 32 + b.origin.toNat * 128)

/-- The parity block of a stripe of tier N (R89). It is computed from the data blocks that the state holds: no
rule writes one without the other, so P' = P xor old xor new holds of it (log entry 97). -/
def State.parity (s : State) (die g row : Nat) : List Byte :=
  ((s.die die).stripe g row).foldl (fun p n => xorBytes p (s.dmem.bytes (blkKey die 0 0 n * 2048) 2048))
    (List.replicate 2048 0)

/-- The side-band word of the parity block (R89). -/
def State.paritySb (s : State) (die g row : Nat) : W64 :=
  ((s.die die).stripe g row).foldl (fun p n => p ^^^ (s.sbAt (blkKey die 0 0 n)).word) 0

/-! ## Errors of placement entries (R75, R306) -/

/-- The interfaces whose cached leaves name a frame. -/
def State.ownersOf (s : State) (die dfn : Nat) : List Nat :=
  ((s.die die).tlb.filter fun e => decide (bitsOf e.leaf 16 25 / 32 ≤ dfn) &&
    decide (dfn ≤ (bitsOf e.leaf 16 25 + e.n - 1) / 32)).map (·.vi) |>.eraseDups

/-- A placement entry as it is read: the owning copy (`bad0`), and the mirror only on an error. A single
flipped bit is corrected; an uncorrectable copy is rewritten from the other and reported; with both
uncorrectable the frame is poisoned and reported to the interfaces that own it, unless it is in a swap, whose slot
holds both locations; the location that it names, if any, is lost (R310). -/
def State.readEntry (s : State) (vi die dfn : Nat) : State :=
  let e := s.pent die dfn
  if e.bad0 = [] then s
  else if e.bad0.length = 1 then
    s.modDie die fun d => { d with map := AMap.set d.map dfn { e with bad0 := [] } }
  else if e.bad1.length < 2 then
    (s.setPent die dfn e).fault [0] 3 0 die (BitVec.ofNat 64 dfn) (BitVec.ofNat 64 (2 * die + dfn % 2)) 0
  else if e.state = 2 then s.setPent die dfn e
  else
    let vs := (if vi = 0 then [] else [vi]) ++ s.ownersOf die dfn
    ((s.setPent die dfn { e with tier := 0, loc := 0, state := 4 }).modDie die fun d =>
      { d with lost := if e.state = 1 ∨ e.state = 3 then d.lost ++ [(e.tier, e.loc)] else d.lost }).fault (0 :: vs) 2
      0x0D die (BitVec.ofNat 64 dfn) 0 (BitVec.ofNat 64 (vs.headD 0))

/-- Every entry of a die with an error is read (R306). -/
def State.seeMap (s : State) (die : Nat) : State :=
  ((s.die die).map.filter fun e => e.2.bad0 ≠ []).foldl (fun s e => s.readEntry 0 die e.1) s

/-! ## Errors of the media (R301, R311, R314) -/

/-- The channels of a group that have failed and that its hash still uses. -/
def Die.gone (d : Die) (g : Nat) : List Nat :=
  (List.range 16).filter fun c => (d.retired ++ d.dead).contains (g, c) && !d.out.contains (g, c)

/-- Whether the own media of a block give back its side-band word, and its data where `data` (R314). -/
def State.broken (s : State) (key : Nat) (data : Bool) : Bool :=
  s.mside.contains key || (data && s.mhard.contains key)

/-- Whether a block of tier N is read only by a rebuild: its own media fail, or its channel has (R301, R312). -/
def State.needsRebuild (s : State) (die loc blk : Nat) (data : Bool) : Bool :=
  let (g, c, _) := (s.die die).hash loc blk
  s.broken (blkKey die 0 loc blk) data || ((s.die die).gone g).contains c

/-- Whether a block cannot be read: on tier N where the rebuild from the rest of its stripe fails too (R301, R312
to R314). -/
def State.unreadable (s : State) (die tier loc blk : Nat) (data : Bool) : Bool :=
  if tier = 0 then
    let d := s.die die
    let (g, _, row) := d.hash loc blk
    s.needsRebuild die loc blk data &&
      (((d.gone g).contains (d.parityChan g row) && (d.stripe g row).contains (loc * 1024 + blk)) ||
        ((d.stripe g row).filter (· != loc * 1024 + blk)).any fun n => s.needsRebuild die (n / 1024) (n % 1024) data)
  else s.broken (blkKey die tier loc blk) data

/-- Whether the stored form of a block that is present fails decoding under a key (R314): a size code other than 00 on
tiers F and H; and where `data` is read on tiers N and C under a key that did not write it, whose bytes bear no
relation to what was written (R272; free values), a header or padding that R91 does not allow. A rebuild of tier N
gives back the same stored form. -/
def State.badForm (s : State) (key die tier loc blk : Nat) (data : Bool) : Bool :=
  let n := blkKey die tier loc blk
  let sb := s.sbAt n
  if 2 ≤ tier then sb.size != 0 && (tier == 3 || sb.state == .present)
  else data && sb.state == .present && sb.gen != s.keyId key &&
    (decodeForm sb.size.toNat ((List.range (512 * sb.size.toNat)).map fun i =>
      Config.freeByte (n + 2 ^ 60 * s.keyId key) (2048 + i))).isNone

/-- The row key K of R311. Where a block of tier C lies, and the bank of a row, no rule says: free values
of the location. -/
def State.rowKey (s : State) (die tier loc blk : Nat) : Nat :=
  let n := loc * 1024 + blk
  if tier = 0 then
    let (g, c, row) := (s.die die).hash loc blk
    (16 * g + c) * 2 ^ 26 + Config.freeNat n 100 % 64 * 2 ^ 20 + row % 2 ^ 20
  else tier * 2 ^ 32 + Config.freeNat n 101 % 2 ^ 32

/-- The three bit positions of a row key (R311). -/
def bloomBits (key : Nat) : List Nat :=
  [1, 2, 3].map fun i =>
    (kch32 (BitVec.ofNat 32 key) (kch32 (BitVec.ofNat 32 (key / 2 ^ 32)) (BitVec.ofNat 32 i))).toNat % 65536

/-- A read of a block, of its data where `data`, whose error is corrected, or that is rebuilt and rewritten: the die
counts it, enters its row in the Bloom filter and reports it (R311, R314); the devices of tier F keep their own logs. -/
def State.correct (s : State) (die tier loc blk : Nat) (data : Bool) : State :=
  let n := blkKey die tier loc blk
  let s0 := { s with mflips := s.mflips.filter (· != n), mside := s.mside.filter (· != n),
                     mhard := if data then s.mhard.filter (· != n) else s.mhard }
  if !s.mflips.contains n && !s.broken n data then s
  else if 2 ≤ tier then s0
  else
    let key := s.rowKey die tier loc blk
    let hs := bloomBits key
    let again := hs.all fun h => (s.die die).bloom.contains h
    let s1 := s0.modDie die fun d =>
      { d with corr := d.corr + 1, bloom := (d.bloom ++ hs).eraseDups,
               repeats := if again then (d.repeats ++ [key]).eraseDups else d.repeats }
    (s1.fault [0] (if again then 5 else 4) 0 die (BitVec.ofNat 64 key)
      (BitVec.ofNat 64 (Config.freeNat s.free 6)) (BitVec.ofNat 64 (s1.die die).corr)).fresh

/-- Sets the state of a block at its place and leaves its media as they are: a side-band write (R59, R301). Its clean,
okind and origin are zero, as at level D; a poisoned block of a save area keeps those that it came with (R52, R54). -/
def State.markAt (s : State) (die tier loc blk : Nat) (st : BlkState) : State :=
  let n := blkKey die tier loc blk
  let size := if tier < 2 ∧ st = .present then sizeCode (s.dmem.slice (n * 2048) 2048) else 0
  let sb := { s.sbAt n with state := st, size := size }
  { s.healed n false with
      dsb := AMap.set s.dsb n (if st = .poisoned then sb else { sb with clean := false, okind := 0, origin := 0 }) }

/-- A place of level D receives the poisoned state; host memory, which has none, is left with free bytes
(R301, R77). -/
def State.poisonAt (s : State) (die tier loc blk : Nat) : State :=
  if tier = 3 then
    { s.awaitHost (hostAddr loc blk) 2048 with
        hmem := s.hmem.writeBytes (hostAddr loc blk) ((List.range 2048).map (Config.freeByte s.free)) }
  else s.markAt die tier loc blk .poisoned

/-! ## What a walk reads (R71, R75, R301, R306) -/

/-- The walk reads a word of a table: the placement entry of its frame, and its block, which becomes poisoned where it
cannot be read (R301, R306, R314; log entry 59). -/
def State.seeWord (s0 : State) (vi die dps : Nat) : State :=
  let s := s0.readEntry vi die (dps / 2 ^ 21)
  let e := s.pent die (dps / 2 ^ 21)
  let blk := dps / 2048 % 1024
  let (t, l) := s.place die (dps / 2 ^ 21) blk
  if t = 3 ∨ !(e.state == 1 || e.state == 2) then s
  else if s.unreadable die t l blk true then
    if (s.sbAt (blkKey die t l blk)).state = .poisoned then s
    else (s.poisonAt die t l blk).fault [0, vi] 6 0 die (BitVec.ofNat 64 (dps / 2048 * 2048)) (BitVec.ofNat 64 t) 1
  else s.correct die t l blk true

/-- The words that a walk reads from a table at a level, as far as it goes (R71, R72). -/
def State.seeTables (vi die addr : Nat) : Nat → Nat → State → State
  | 0, tab, s => if tab % tableSize 0 ≠ 0 then s else s.seeWord vi die (tab + 8 * tableIndex addr 0)
  | l + 1, tab, s =>
    if tab % tableSize (l + 1) ≠ 0 then s
    else
      let s1 := s.seeWord vi die (tab + 8 * tableIndex addr (l + 1))
      match s1.dpsWord die (tab + 8 * tableIndex addr (l + 1)) with
      | none => s1
      | some w =>
        if !w.getLsbD 0 || malformed vi (l + 1) w || w.getLsbD 1 then s1
        else State.seeTables vi die addr l (bitsOf w 8 33 * 256) s1

/-- What a walk reads, nothing where the TLB holds the leaf (R73, R306). -/
def State.seeWalk (s : State) (vi addr : Nat) : State :=
  let die := dieOf addr
  let root := AMap.get (s.vi vi).root die 0
  if (s.tlbFind vi addr).isSome || !root.getLsbD 0 || decide (2 ^ 52 ≤ addr) then s
  else State.seeTables vi die addr 3 (bitsOf root 14 27 * 2 ^ 14) s

/-- The number of the frame of an address under its leaf (R74). -/
def TlbEnt.dfnOf (e : TlbEnt) (addr : Nat) : Nat :=
  (bitsOf e.leaf 16 25 + (addr % 2 ^ 50 / 2 ^ 16 - e.unit)) / 32 % 2 ^ 20

/-- Reads the placement entries that the translation of an address reads: those of its tables, and that of its
frame where its page has a leaf (R75, R306); a table block that cannot be read becomes poisoned. -/
def State.seeEntry (s0 : State) (vi addr : Nat) : State :=
  let s := s0.seeWalk vi addr
  match s.leafOf vi addr with
  | none => s
  | some e => s.readEntry vi (dieOf addr) (e.dfnOf addr)

/-- The rows of a slot: its bytes, and its side-band word. -/
def Core.slotRows (c : Core) (slot : Nat) : List (Nat × Nat) :=
  ((List.range 256).map fun i => c.spRow (slot * 2048 + 8 * i)) ++ [(13, slot)]

/-- Whether a slot holds a row with an uncorrectable error. -/
def Core.slotBad (c : Core) (slot : Nat) : Bool :=
  (c.flips ≠ [] || c.inject.getLsbD 0) && (c.slotRows slot).any fun r => decide (2 ≤ c.rowFlips r.1 r.2)

/-- Single errors of a slot are corrected as it is read (R293). -/
def Core.scrubSlot (c : Core) (slot : Nat) : Core :=
  if c.flips = [] ∧ !c.inject.getLsbD 0 then c else (c.slotRows slot).foldl (fun c r => c.scrub r.1 r.2) c

/-- A full write of a slot clears its errors (R293). -/
def Core.freshSlot (c : Core) (slot : Nat) : Core :=
  if c.flips = [] then c else (c.slotRows slot).foldl (fun c r => c.fresh r.1 r.2) c

/-- The block in a slot is written poisoned (R301). -/
def Core.poisonSlot (c : Core) (slot : Nat) : Core :=
  { c.freshSlot slot with sb := AMap.set c.sb slot { c.slotSb slot with state := .poisoned } }

/-! ## Discard (R86, R259) -/

/-- The empty side-band over one block; zeros in tier H (R86, R308). -/
def State.discardBlock (s : State) (p : Phys) : State :=
  let e := s.pent p.die p.dfn
  let s1 :=
    if e.state = 3 then s
    else
      let (t, l) := s.place p.die p.dfn p.blk
      if t = 3 then (s.putBlkAt p.key p.die 3 l p.blk false { sb := { touched := true } }).cost p.die 0 0 1
      else
        let n := blkKey p.die t l p.blk
        ({ s.healed n false with
            dsb := AMap.set s.dsb n { gen := s.keyId p.key, clean := false, touched := true } }).cost p.die 0 1 0
  s1.fire p.die (dpsOf p.dfn p.blk) 2048

/-- The addresses of the blocks of a range. -/
def blocksOf (addr n : Nat) : List Nat := (List.range (n / 2048)).map fun b => addr + 2048 * b

/-- The stable frames outside tier H of which all 1,024 blocks are among blocks that translate, by their addresses. -/
def State.wholeFrames (s : State) (vi : Nat) (as : List Nat) : List (Nat × Nat) :=
  let ps := as.filterMap fun a => (s.translate vi a true).toOption
  ((ps.map fun p => (p.die, p.dfn)).eraseDups).filter fun f =>
    (s.pent f.1 f.2).state == 1 && (s.pent f.1 f.2).tier != 3 &&
      (List.range 1024).all fun b => ps.any fun p => p.die == f.1 && p.dfn == f.2 && p.blk == b

/-- Discards blocks, by their addresses, which translate: every whole stable frame by its map entry, every other
block by its side-band (R86). -/
def State.discardBlocks (s : State) (vi : Nat) (as : List Nat) : State :=
  let ps := as.filterMap fun a => (s.translate vi a true).toOption
  let whole := s.wholeFrames vi as
  let s1 := whole.foldl (fun s f =>
    (s.setPent f.1 f.2 { s.pent f.1 f.2 with state := 3, revive := false, again := false }).fire f.1
      (dpsOf f.2 0) (2 ^ 21)) s
  ps.foldl (fun s p => if whole.contains (p.die, p.dfn) then s else s.discardBlock p) s1

/-- Discards the blocks of a range. -/
def State.discard (s : State) (vi addr n : Nat) : State := s.discardBlocks vi (blocksOf addr n)

/-! ## What a unit's read finds (R301, R306, R311) -/

/-- A block whose media cannot be read is found uncorrectable (R301, R314). -/
def State.lostBlock (s : State) (p : Phys) : Bool :=
  let (t, l) := s.place p.die p.dfn p.blk
  (s.pent p.die p.dfn).state != 3 &&
    ((t != 3 && s.unreadable p.die t l p.blk true) || s.badForm p.key p.die t l p.blk true)

/-- A read of a block that an error in it does not stop (R301, R311). -/
def State.correctAt (s : State) (p : Phys) : State :=
  let (t, l) := s.place p.die p.dfn p.blk
  if (s.pent p.die p.dfn).state = 3 ∨ t = 3 then s else s.correct p.die t l p.blk true

/-- A block that is found uncorrectable becomes poisoned, and is reported (R301, R310). -/
def State.loseBlock (s : State) (vi : Nat) (p : Phys) : State :=
  let (t, l) := s.place p.die p.dfn p.blk
  (s.poisonAt p.die t l p.blk).fault [0, vi] 6 0 p.die (BitVec.ofNat 64 (dpsOf p.dfn p.blk)) (BitVec.ofNat 64 t) 1

/-- What a read of a block by the device's units finds and mends on its way: errors of the placement entries, and of
the block, which becomes poisoned where it cannot be read (R75, R301, R306, R311, R314). -/
def State.seeBlock (s0 : State) (vi addr : Nat) : State :=
  let s := s0.seeEntry vi addr
  match s.translate vi addr false with
  | .error _ => s
  | .ok p =>
    let s1 := s.fillTlb vi addr
    if (s1.getBlk p.key p.die p.dfn p.blk).sb.state = .poisoned then s1
    else if s1.lostBlock p then s1.loseBlock vi p else s1.correctAt p

/-- Reads the blocks of a range so. -/
def State.seeBlocks (s : State) (vi addr n : Nat) : State :=
  if n = 0 then s
  else (List.range ((addr + n - 1) / 2048 - addr / 2048 + 1)).foldl
    (fun s b => s.seeBlock vi (if b = 0 then addr else (addr / 2048 + b) * 2048)) s

/-- Reads the placement entries of a range (R306). -/
def State.seePages (s : State) (vi addr n : Nat) : State :=
  (unitsOf addr n).foldl (fun s u => s.seeEntry vi u) s

/-! ## Claims (R307) -/

/-- The claim on the page of an address, whoever holds it: a page is a range of device pages. -/
def State.claimOn (s : State) (vi addr : Nat) : Option Claim :=
  match s.leafOf vi addr with
  | none => none
  | some e =>
    let u := bitsOf e.leaf 16 25 + (addr % 2 ^ 50 / 2 ^ 16 - e.unit)
    (s.die (dieOf addr)).claims.find? fun c => decide (c.dpn ≤ u) && decide (u < c.dpn + c.n)

/-- A new claim on the page of an address. One of the device runs the hand-over: the supervisor posts an acquire
request (R87, R307; log entry 83). -/
def State.claim (s : State) (vi addr : Nat) (host : Bool) (by_ : Option (Nat × Nat × Nat)) : State :=
  match s.leafOf vi addr with
  | none => s
  | some e =>
    let s1 := s.modDie (dieOf addr) fun d =>
      { d with claims := d.claims ++ [{ vi := vi, unit := e.unit, dpn := bitsOf e.leaf 16 25, n := e.n, host := host,
                                        at_ := s.now, by_ := by_ }] }
    if host then s1 else s1.event vi 5

def State.setClaim (s : State) (addr : Nat) (old new : Claim) : State :=
  s.modDie (dieOf addr) fun d => { d with claims := d.claims.map fun c => if c = old then new else c }

/-- The hold-down and the far retry last 64 µs (R301, R307). -/
def holdDown : Nat := 211200

/-! ## Translation faults of a command (R301, R303) -/

/-- Whether an address lies in a frame of tier H. -/
def State.inHost (s : State) (vi addr : Nat) : Bool :=
  match s.leafOf vi addr with
  | none => false
  | some e => (s.pent (dieOf addr) (e.dfnOf addr)).tier == 3

/-- A command meets an address that does not translate (R301, R303, R306, R307). -/
def State.noWay (s : State) (k j : Nat) (m : Cmd) (addr : Nat) (f : XFail) : State :=
  let vi := (s.ctx k j).vi
  match f with
  | .framePoisoned => s.stopCmd k j m 0x0D addr
  | .hostOwned =>
    if s.inHost vi addr then
      match s.claimOn vi addr with
      | none => (s.claim vi addr false (some (k, j, m.seq))).stopCmd k j m 7 addr
      | some c =>
        if c.host then s.setCmd k j { m with hold := some (s.now + holdDown) }
        else s.stopCmd k j m 7 addr
    else s.stopCmd k j m 7 addr
  | _ => s.stopCmd k j m 7 addr

end Sys2Proof.Machine
end

