-- ==== Sys2Proof/Machine/Trade.lean ====
section
/-!
DEFINITION. The events of a trade (R54 to R60, R63, R300, R301), of a window's rows (R68) and of a ring's
tail (R245). The blocks stay at their locations until the commit, which is the trade's one point in their
order; a write in flight is applied there and marks the block (R57).
-/

namespace Sys2Proof.Machine

/-! ## Phase A (R56, R301) -/

/-- Forgets the writes before a trade: `touched` marks those in flight (R54). -/
def SideBand.quiet (b : SideBand) : SideBand := { b with touched := false }

def Core.quietSlot (c : Core) (slot : Nat) : Core :=
  { c with sb := AMap.set c.sb slot (c.slotSb slot).quiet }

/-- The scratchpad slot of a trade. -/
def Loc.slot? : Loc → Option (Nat × Nat)
  | .s k sl => some (k, sl)
  | _ => none

/-- The level-D address of a trade, for its records: of a pool slot its number. -/
def Loc.addr : Loc → Nat
  | .d a => a
  | .p _ sl => sl
  | .s _ sl => sl

/-- The entry of the router tables for traffic to a core under a partition (R273). -/
def rtIndex (core part : Nat) : Nat := core * 64 + part

/-- The report of an uncorrectable entry of a router table, by the die whose router finds it (R320, R325). -/
def State.rtReport (s : State) (die idx : Nat) (shadow : Bool) : State :=
  s.fault [0] 13 0 die (BitVec.ofNat 64 idx) (if shadow then 1 else 0) 0

/-- The trade takes its exchange entry. -/
def State.fly (s : State) (k j : Nat) (m : Cmd) (t : Trade) : State :=
  s.setCmd k j ({ m with status := .flight t }.retried (s.ctx k j).cmdSeq)

/-- A near slot with an uncorrectable row: it is poisoned, and the command stops (R301). -/
def State.nearBad (s : State) (k j : Nat) (m : Cmd) (core slot addr : Nat) (at_ : Nat × Nat × Nat) : State :=
  let s1 := s.modCore core fun c => c.poisonSlot slot
  (s1.fault [0, (s.ctx k j).vi] 6 0 at_.1 (BitVec.ofNat 64 at_.2.1) (BitVec.ofNat 64 at_.2.2) 0).stopCmd
    k j m 9 addr

/-- Whether phase A reads the data of the far block (R59). -/
def readsFar (near far : SideBand) (discarded : Bool) (addr : Nat) : Bool :=
  if near.state = .empty then !discarded && far.state == .present
  else !(near.state == .present && near.clean && near.okind == 1 && near.origin.toNat * 2048 == addr &&
    far.state == .absent)

/-- Phase A of a trade with level D. -/
def State.phaseAD (s0 : State) (k j : Nat) (m : Cmd) (core slot addr : Nat) : State :=
  let x := s0.ctx k j
  let s := s0.seeEntry x.vi addr
  match s.translate x.vi addr true with
  | .error f => s.noWay k j m addr f
  | .ok p =>
    let s1 := s.fillTlb x.vi addr
    let (tier, loc) := s1.place p.die p.dfn p.blk
    let far := s1.getBlk p.key p.die p.dfn p.blk
    let near := (s1.core core).slotSb slot
    let discarded := (s1.pent p.die p.dfn).state == 3
    let data := readsFar near far.sb discarded addr || m.granular
    if near.state = .poisoned ∨ far.sb.state = .poisoned then s1.stopCmd k j m 0x0E addr
    else if (s1.core core).slotBad slot then
      s1.nearBad k j m core slot addr (p.die, dpsOf p.dfn p.blk, tier)
    else if !discarded &&
        ((decide (tier ≠ 3) && s1.unreadable p.die tier loc p.blk data) || s1.badForm p.key p.die tier loc p.blk data) then
      ((s1.poisonAt p.die tier loc p.blk).fault [0, x.vi] 6 0 p.die (BitVec.ofNat 64 (dpsOf p.dfn p.blk))
        (BitVec.ofNat 64 tier) 1).stopCmd k j m 9 addr
    else
      let idx := rtIndex k x.vi
      let dropped := s1.rtBad.contains idx
      let remote := p.die ≠ k / 256 ∨ 2 ≤ tier
      let link := dropped || (decide remote && Config.freeBit s.free 5)
      let s2 := if dropped then s1.rtReport (k / 256) idx false else s1
      let s3 := s2.modCore core fun c => (c.scrubSlot slot).quietSlot slot
      let s4 := if discarded then s3 else s3.correct p.die tier loc p.blk data
      let s5 := if discarded then s4 else
        { s4 with dsb := AMap.upd s4.dsb (blkKey p.die tier loc p.blk) farSb SideBand.quiet }
      (s5.fly k j m
        { near := .s core slot, far := .d addr, phase := .a, die := p.die, dfn := p.dfn, blk := p.blk,
          off := p.off, tier := tier, loc := loc, kind := p.kind, key := p.key, bad := false, link := link,
          upto := if link then some (s.now + holdDown) else none }).fresh

/-- Phase A of a trade with a pool slot. -/
def State.phaseAP (s : State) (k j : Nat) (m : Cmd) (core slot cl sl : Nat) : State :=
  let near := (s.core core).slotSb slot
  if near.state = .poisoned ∨ (s.getPool cl sl).sb.state = .poisoned then s.stopCmd k j m 0x0E sl
  else if (s.core core).slotBad slot then s.nearBad k j m core slot sl (core / 256, 0, 0)
  else if s.phard.contains (cl * 4096 + sl) then
    let b := s.getPool cl sl
    ((s.putPool cl sl { b with sb := { b.sb with state := .poisoned } }).fault [0, (s.ctx k j).vi] 6 0 (core / 256)
      0 0 1).stopCmd k j m 9 sl
  else
    let s1 := s.modCore core fun c => (c.scrubSlot slot).quietSlot slot
    let s2 := { s1 with psb := AMap.upd s1.psb (cl * 4096 + sl) {} SideBand.quiet }
    s2.fly k j { m with sent := 0 }
      { near := .s core slot, far := .p cl sl, phase := .a, die := 0, dfn := 0, blk := 0, off := 0, tier := 0,
        loc := 0, kind := 0, key := 0, bad := false, link := false, upto := none }

/-- Phase A of a command's next trade. -/
def State.phaseA (s : State) (k j : Nat) (m : Cmd) (near far : Loc) : State :=
  if m.src ≠ 0 then s.stopCmd k j m m.src far.addr
  else match near, far with
    | .s core slot, .d a => s.phaseAD k j m core slot a
    | .s core slot, .p cl sl => s.phaseAP k j m core slot cl sl
    | _, _ => s

/-- Earlier window commands of the ring in any context of the core have completed (R68, R244). -/
def State.ringTurn (s : State) (k : Nat) (m : Cmd) (ring : BitVec 4) : Bool :=
  (List.range 4).all fun i => (s.ctx k i).cmds.all fun p =>
    match p.ins with
    | .xWadv _ _ r _ => r != ring || decide (m.t ≤ p.t)
    | .xWcls _ _ r => r != ring || decide (m.t ≤ p.t)
    | _ => true

/-- Whether a window command has its turn on its ring, and a slot (R68). -/
def State.windowTurn (s : State) (k : Nat) (m : Cmd) : Bool :=
  match m.ins with
  | .xWadv _ _ r _ => s.ringTurn k m r && m.slotOpen (s.core k) s.now
  | .xWcls _ _ r => s.ringTurn k m r
  | _ => true

/-- Whether a command is queued. -/
def Cmd.queued (m : Cmd) : Bool := m.status == .queued

/-- The trade that a command starts now, when it may (R56 to R60). -/
def State.tradeDue (s : State) (k j : Nat) (m : Cmd) : Option (Loc × Loc) :=
  if m.queued && s.windowTurn k m then
    match m.trade k (s.core k) with
    | none => none
    | some (near, far) =>
      if s.mayStart k j m (s.elemSpans k (s.ctx k j).vi m m.i) && s.unheld (s.ctx k j).vi near far &&
          decide ((s.core k).entries.length < 128) then some (near, far) else none
  else none

/-- TRADE_PHASE_A (R56); the trades of an x.xchp start at token visits (R43, R60). -/
def execTradePhaseA (core ctx seq : Nat) (s : State) : Out :=
  match (s.ctx core ctx).cmd? seq with
  | none => .refused (.notEnabled "TRADE_PHASE_A")
  | some m => match s.tradeDue core ctx m with
    | none => .refused (.notEnabled "TRADE_PHASE_A")
    | some (near, far) => happen (!horizontal m.ins) "TRADE_PHASE_A" (s.phaseA core ctx m near far)

/-! ## Phase B and the far retry (R56, R301) -/

/-- The trade of a command in flight. -/
def State.flight (s : State) (k j seq : Nat) : Option (Cmd × Trade) :=
  match (s.ctx k j).cmd? seq with
  | none => none
  | some m => match m.status with
    | .flight t => some (m, t)
    | _ => none

/-- Phase B may begin: both blocks have been read, over a link that a far retry has brought back (R301). -/
def State.phaseBDue (s : State) (k j : Nat) (t : Trade) : Bool :=
  t.phase == .a && (match t.upto with | none => true | some u => decide (s.now < u)) &&
    !(t.link && s.rtBad.contains (rtIndex k (s.ctx k j).vi))

/-- Whether a command has a trade in phase A. -/
def Cmd.inPhaseA (m : Cmd) : Bool :=
  match m.status with
  | .flight t => t.phase == .a
  | _ => false

/-- Whether the home channel has carried the block of a horizontal trade: eight flits of 256 bytes (R43). -/
def Cmd.carried (m : Cmd) : Bool := !horizontal m.ins || decide (8 ≤ m.sent)

/-- TRADE_PHASE_B (R56). -/
def execTradePhaseB (core ctx seq : Nat) (s : State) : Out :=
  match s.flight core ctx seq with
  | none => .refused (.notEnabled "TRADE_PHASE_B")
  | some (m, t) =>
    happen (s.phaseBDue core ctx t && m.carried) "TRADE_PHASE_B"
      (s.fly core ctx m { t with phase := .b, upto := none })

/-- Whether a far retry of phase A has come to its end. -/
def State.retryOver (s : State) (t : Trade) : Bool :=
  t.phase == .a && match t.upto with | none => false | some u => decide (u ≤ s.now)

/-- FAR_RETRY_TIMEOUT (R301): both blocks stay, and the command stops with 0x09, source 4. -/
def execFarRetryTimeout (core ctx seq : Nat) (s : State) : Out :=
  match s.flight core ctx seq with
  | none => .refused (.notEnabled "FAR_RETRY_TIMEOUT")
  | some (m, t) =>
    happen (s.retryOver t) "FAR_RETRY_TIMEOUT"
      (s.stopCmd core ctx { m with status := .queued } 9 t.far.addr)

/-! ## Commit (R54, R57, R59, R60, R63) -/

/-- Ballast that enters a slot: its raw bytes are a free value (R53, log entry 8). -/
def ballast (tag : Nat) : Block := { sb := { stale := some tag }, bytes := [] }

/-- A block of level D as it enters a slot (R54). -/
def intoSlot (tag : Nat) (b : Block) (addr : Nat) : Block :=
  match b.sb.state with
  | .empty | .absent => ballast tag
  | _ => { b with sb := { b.sb with okind := 1, origin := BitVec.ofNat 41 (addr / 2048),
                                    clean := !b.sb.touched, touched := false } }

/-- A pool block as it enters a slot (R54). -/
def poolIntoSlot (tag : Nat) (b : Block) (cl sl : Nat) : Block :=
  match b.sb.state with
  | .empty | .absent => ballast tag
  | _ =>
    if b.sb.okind = 0 then
      { b with sb := { b.sb with okind := 2, origin := BitVec.ofNat 41 (sl + cl * 4096),
                                 clean := !b.sb.touched, touched := false } }
    else { b with sb := { b.sb with clean := b.sb.clean && !b.sb.touched, touched := false } }

/-- A block of a slot as it enters a pool slot: it keeps its way home (R54). -/
def intoPool (b : Block) : Block :=
  { b with sb := { b.sb with clean := b.sb.clean && !b.sb.touched, touched := false } }

/-- The effect at a level-D location of the block that leaves a slot, by the rows of R59 in order, with
their costs. -/
def State.intoD (s : State) (t : Trade) (addr : Nat) (near far : Block) : State :=
  let e := s.pent t.die t.dfn
  let full := fun s : State => s.cost t.die 1 0 1
  if e.state = 4 ∨ e.state = 0 then s
  else if t.tier = 3 then full (s.putBlkAt t.key t.die 3 t.loc t.blk false near)
  else if near.sb.state = .empty ∨ near.sb.state = .absent then
    if e.state = 3 then s
    else (s.markAt t.die t.tier t.loc t.blk .absent).cost t.die (if far.sb.state = .present then 1 else 0) 1 0
  else if near.sb.state = .present ∧ near.sb.clean ∧ near.sb.okind = 1 ∧
      near.sb.origin.toNat * 2048 = addr ∧ far.sb.state = .absent then
    (s.markAt t.die t.tier t.loc t.blk .present).cost t.die 0 1 0
  else if e.state = 3 then full (s.putBlk t.key t.die t.dfn t.blk false near)
  else full (s.putBlkAt t.key t.die t.tier t.loc t.blk false near)

/-- The block at the far location of a trade, as its key sees it. -/
def State.farBlock (s : State) (t : Trade) : Block :=
  if (s.pent t.die t.dfn).state = 3 then {} else s.getBlkAt t.key t.die t.tier t.loc t.blk

/-- A block trade between a slot and level D. -/
def State.swapD (s : State) (t : Trade) (core slot addr : Nat) : State :=
  let near := (s.core core).getSlot slot
  let far := s.farBlock t
  let s1 := s.modCore core fun c => (c.freshSlot slot).putSlot slot (intoSlot s.free far addr)
  ((s1.intoD t addr near far).heat t.die t.dfn).fire t.die (dpsOf t.dfn t.blk) 2048

/-- A granule trade (R63): as if both blocks had been written. -/
def State.swapGranule (s : State) (t : Trade) (core nearAddr : Nat) : State :=
  let c := s.core core
  let nb := c.getSlot (nearAddr / 2048)
  let far := s.farBlock t
  let out := (List.range 16).map fun i => nb.byte (nearAddr % 2048 + i)
  let inn := (List.range 16).map fun i => far.byte (t.off + i)
  let s1 := s.modCore core fun c =>
    let c1 := c.spWrite nearAddr inn
    (c1.fresh 0 (nearAddr / 8)).fresh 0 (nearAddr / 8 + 1)
  let s2 := if (s1.pent t.die t.dfn).state = 4 then s1 else s1.writeD t.key t.die t.dfn t.blk t.off out
  (s2.cost t.die 1 0 1).heat t.die t.dfn

/-- A block trade between a slot and a pool slot. -/
def State.swapP (s : State) (core slot cl sl : Nat) : State :=
  let near := (s.core core).getSlot slot
  let far := s.getPool cl sl
  (s.modCore core fun c => (c.freshSlot slot).putSlot slot (poolIntoSlot s.free far cl sl)).putPool cl sl (intoPool near)

/-- The far location of a trade receives the poisoned state. A discarded frame becomes stable with it (R86); where
the frame is unmapped or poisoned by now, nothing is left to write. -/
def State.poisonFar (s : State) (t : Trade) : State :=
  let e := s.pent t.die t.dfn
  if e.state = 4 ∨ e.state = 0 then s
  else if e.state = 3 then s.putBlk t.key t.die t.dfn t.blk false { sb := { state := .poisoned } }
  else s.poisonAt t.die t.tier t.loc t.blk

/-- An uncorrectable transit buffer: both locations receive the poisoned state, and it is reported (R301,
R310). -/
def State.swapBad (s : State) (k j : Nat) (m : Cmd) (t : Trade) (core slot : Nat) : State :=
  let s1 := s.modCore core fun c => c.poisonSlot slot
  let vis := [0, (s.ctx k j).vi]
  match t.far with
  | .d a =>
    let s2 := ((s1.poisonFar t).heat t.die t.dfn).fire t.die (dpsOf t.dfn t.blk) 2048
    let s3 := s2.fault vis 6 0 t.die (BitVec.ofNat 64 (dpsOf t.dfn t.blk)) (BitVec.ofNat 64 t.tier) 2
    s3.fault vis 7 0x0E t.die (BitVec.ofNat 64 a) (BitVec.ofNat 64 k) (BitVec.ofNat 64 m.pc)
  | .p cl sl =>
    let b := s1.getPool cl sl
    let s2 := (s1.putPool cl sl { b with sb := { b.sb with state := .poisoned } }).fault vis 6 0 (k / 256) 0 0 2
    s2.fault vis 7 0x0E (k / 256) (BitVec.ofNat 64 sl) (BitVec.ofNat 64 k) (BitVec.ofNat 64 m.pc)
  | .s _ _ => s1

/-- The trade of both blocks. -/
def State.swapBlocks (s : State) (k j : Nat) (m : Cmd) (t : Trade) : State :=
  match t.near with
  | .s core slot =>
    if t.bad then s.swapBad k j m t core slot
    else match t.far with
      | .d a => if m.granular then s.swapGranule t core (m.arg 0 + 16 * m.i) else s.swapD t core slot a
      | .p cl sl => s.swapP core slot cl sl
      | .s _ _ => s
  | _ => s

/-- The latest landing or commit that the barrier of a domain counts from (R39). -/
def State.barrierFrom (s : State) (d : Option Nat) : State :=
  match d with
  | none => s
  | some d => s.modDom d fun x => { x with latest := max x.latest s.now }

/-- Whether the barrier waits for a trade: an x.xchp, or a trade of a receive-window slot (R39). -/
def tradeBinds (near far : Loc) : Bool :=
  match near, far with
  | _, .p _ _ => true
  | .s _ sl, _ => decide (512 ≤ sl)
  | _, _ => false

/-- The ring of an x.wcls: its window closes, and head and free go to tail (R68). -/
def Ring.closed (g : Ring) : Ring := { g with win := none, head := g.tail, free := g.tail, held := [] }

/-- The command after the commit of its trade (R61, R68). -/
def State.afterTrade (s : State) (k j : Nat) (m : Cmd) (row : Bool) (idx : Nat) : State :=
  match m.ins with
  | .xWadv .. => s.setCmd k j { m with status := .queued, bad := none, sub := if row then 2 else 1 }
  | .xWcls _ _ r =>
    let m' := { m with status := .queued, bad := none, i := idx + 1, sub := m.sub + 1 }
    if (s.core k).toRetire r.toNat m'.i = [] then
      (s.modCore k fun c => c.setRing r.toNat (c.ring r.toNat).closed).finishCmd k j m'
    else s.setCmd k j m'
  | _ => s.nextElem k j m

/-- The commit of a trade. -/
def State.commitTrade (s : State) (k j : Nat) (m : Cmd) (t : Trade) : State :=
  let c := s.core k
  let row := match m.ins with
    | .xWadv _ _ r _ => ((windowTrade c m.sub r.toNat).map (·.1)).getD true
    | _ => false
  let idx := match m.ins with
    | .xWcls _ _ r => ((c.toRetire r.toNat m.i).head?).getD 0
    | _ => 0
  let at_ := match m.ins with
    | .xWcls .. => m.sub
    | _ => m.i
  let m' := if t.bad then { m with poison := m.poison <|> some (at_, t.far.addr) } else m
  let s1 := (s.swapBlocks k j m t).modCtx k j fun x => x.loadsBefore (orderClass m.ins) m.t
  let near := match t.near with
    | .s core slot => if m.granular then (core, m.arg 0 + 16 * m.i, 16) else (core, slot * 2048, 2048)
    | _ => (k, 0, 0)
  let s1 := s1.modCore near.1 fun c => c.overtake j s.free (orderClass m.ins) m.t near.2.1 near.2.2 (c.byteFor j s.free)
  let s2 := if tradeBinds t.near t.far then s1.barrierFrom (s.ctx k j).dom else s1
  (s2.afterTrade k j m' row idx).fresh

/-- Whether a held bank queues the write of a trade into its near slot (R69). -/
def State.bankHeld (s : State) (l : Loc) : Bool :=
  match l with
  | .s core slot => match (s.core core).lock with
    | some k => k.mask.getLsbD (slot % 32)
    | none => false
  | _ => false

/-- TRADE_COMMIT (R57, R69). -/
def execTradeCommit (core ctx seq : Nat) (s : State) : Out :=
  match s.flight core ctx seq with
  | none => .refused (.notEnabled "TRADE_COMMIT")
  | some (m, t) =>
    happen (t.phase == .b && !s.bankHeld t.near) "TRADE_COMMIT" (s.commitTrade core ctx m t)

/-! ## Window rows and ring tails -/

/-- Whether a row of a window has all its trades behind it, or an x.wcls finds nothing to retire. -/
def State.rowDue (s : State) (k : Nat) (m : Cmd) : Bool :=
  m.queued && decide (m.t < s.now) && s.windowTurn k m && (m.trade k (s.core k)).isNone && m.stepwise

/-- The row is placed: the cursor and the ring's tail advance (R68, R244). -/
def State.placeRow (s : State) (k j : Nat) (m : Cmd) : State :=
  match m.ins with
  | .xWadv _ _ r _ =>
    let s1 := s.modCore k fun c =>
      let g := c.ring r.toNat
      c.setRing r.toNat { g with tail := (g.tail + 1) % 65536,
                                 win := g.win.map fun w => { w with cursor := w.cursor + 1 } }
    s1.nextElem k j { m with sub := 0 }
  | .xWcls _ _ r => (s.modCore k fun c => c.setRing r.toNat (c.ring r.toNat).closed).finishCmd k j m
  | _ => s

/-- WINDOW_ROW_PLACE (R68): in the cycle in which the last trade of the row commits. -/
def execWindowRowPlace (core ctx seq : Nat) (s : State) : Out :=
  match (s.ctx core ctx).cmd? seq with
  | none => .refused (.notEnabled "WINDOW_ROW_PLACE")
  | some m => happen (s.rowDue core m) "WINDOW_ROW_PLACE" (s.placeRow core ctx m)

/-- The oldest x.rap of a ring whose tail move is due: after the stores that its fork orders before it
(R245), those of an st.ring of any class: an x.rap has class 00, which R97 orders with everything (log entry 116). -/
def Core.rapDue (c : Core) (now r : Nat) : Option (Nat × Nat × Nat) :=
  match (c.ring r).raps with
  | [] => none
  | p :: _ =>
    if p.1 ≤ now ∧ !(c.stq.any fun st => st.ctx == p.2.1 && decide (st.t + 2 ≤ p.1)) then some p else none

/-- The tail move. -/
def Core.moveTail (c : Core) (r n : Nat) : Core :=
  let g := c.ring r
  c.setRing r { g with tail := (g.tail + n) % 65536, raps := g.raps.drop 1 }

/-- RING_TAIL_MOVE (R245). -/
def execRingTailMove (core ring : Nat) (s : State) : Out :=
  match (s.core core).rapDue s.now ring with
  | none => .refused (.notEnabled "RING_TAIL_MOVE")
  | some p => .next (s.modCore core fun c => c.moveTail ring p.2.2)

end Sys2Proof.Machine
end

