-- ==== Sys2Proof/Machine/Exchange.lean ====
section
/-!
DEFINITION. The X slot: exchanges (R61 to R63, R243), windows and rings (R64 to R68, R244, R245).
-/

namespace Sys2Proof.Machine

/-- A counted command: legal in a superstep, with its operand check, its elements, and what it reads from
the scratchpad at issue (R241). -/
def semCounted (i : Instr) (super : Super) (regs : List (BitVec 6)) (bad : Env → Bool) (n : Env → Nat)
    (reads : Env → List (Nat × Nat)) : Sem where
  super := super
  rows e := xRows e.j regs
  check e := (countedTrap e i).or (if bad e then some (ill e i) else none)
  eff e s :=
    let rs := reads e
    pushCmd e i (n e) rs (rs.flatMap fun r => e.xBytes r.1 r.2) (firstFault (rs.map fun r => e.xFault r.1 r.2))
      (s.modCore e.k fun c => rs.foldl (fun c r => c.scrubMem [r.1] r.2) c)

/-- The value of an s-register operand. -/
def Env.sv (e : Env) (r : BitVec 6) : Nat := (e.x.rdS r.toNat).toNat

/-- Whether a run of slots holds a guard slot (R61). -/
def Env.holdsGuard (e : Env) (slot n : Nat) : Bool := (List.range n).any fun d => e.c.isGuardSlot (slot + d)

/-! ## Exchanges (R61 to R63, R243) -/

/-- x.xch (R61, R243). -/
def semXXch (cls : BitVec 2) (mark : Mark) (cc a : BitVec 6) (slot n1 : BitVec 10) : Sem :=
  semCounted (.xXch cls mark cc a slot n1) .compute [a]
    (fun e => decide (640 < slot.toNat + (n1.toNat + 1)) || decide (2 ^ 52 ≤ e.sv a) ||
      decide (e.sv a % 2048 ≠ 0) || e.holdsGuard slot.toNat (n1.toNat + 1))
    (fun _ => n1.toNat + 1) fun _ => []
def execXXch (cls : BitVec 2) (mark : Mark) (cc a : BitVec 6) (slot n1 : BitVec 10) (s : State) : Out :=
  issueOne (.xXch cls mark cc a slot n1) (semXXch cls mark cc a slot n1) s

/-- x.xchp (R61, R243): pool slots of the own cluster. -/
def semXXchp (cls : BitVec 2) (cc a : BitVec 6) (slot n1 : BitVec 10) : Sem :=
  semCounted (.xXchp cls cc a slot n1) .exchange [a]
    (fun e => decide (640 < slot.toNat + (n1.toNat + 1)) || decide (4096 < e.sv a + (n1.toNat + 1)) ||
      e.holdsGuard slot.toNat (n1.toNat + 1))
    (fun _ => n1.toNat + 1) fun _ => []
def execXXchp (cls : BitVec 2) (cc a : BitVec 6) (slot n1 : BitVec 10) (s : State) : Out :=
  issueOne (.xXchp cls cc a slot n1) (semXXchp cls cc a slot n1) s

/-- The words of an exchange-nest descriptor as the Capstan reads them at issue (R62, R241). -/
def nestDesc (e : Env) (a : BitVec 6) : List W64 := wordsAt (e.xBytes (e.sv a) 64) 8

/-- x.xchn (R62, R243). -/
def semXXchn (cls : BitVec 2) (mark : Mark) (cc a : BitVec 6) : Sem :=
  semCounted (.xXchn cls mark cc a) .compute [a]
    (fun e => !goodDesc (e.x.rdS a.toNat) 64 || nestIll e.c (nestDesc e a))
    (fun e => nestCount (nestDesc e a)) fun e => [(e.sv a, 64)]
def execXXchn (cls : BitVec 2) (mark : Mark) (cc a : BitVec 6) (s : State) : Out :=
  issueOne (.xXchn cls mark cc a) (semXXchn cls mark cc a) s

/-- x.xchs (R63, R243): buffer and index list in working slots, far base aligned to 2 KiB. -/
def semXXchs (cls : BitVec 2) (mark : Mark) (cc a b c : BitVec 6) (c1 : BitVec 5) : Sem :=
  semCounted (.xXchs cls mark cc a b c c1) .compute [a, b, c]
    (fun e => !goodDesc (e.x.rdS a.toNat) 512 || !goodDesc (e.x.rdS b.toNat) 128 ||
      decide (2 ^ 52 ≤ e.sv c) || decide (e.sv c % 2048 ≠ 0) || e.holdsGuard (e.sv a / 2048) 1)
    (fun _ => c1.toNat + 1) fun e => [(e.sv b, 128)]
def execXXchs (cls : BitVec 2) (mark : Mark) (cc a b c : BitVec 6) (c1 : BitVec 5) (s : State) : Out :=
  issueOne (.xXchs cls mark cc a b c c1) (semXXchs cls mark cc a b c c1) s

/-! ## Windows (R67, R68, R244) -/

/-- A change of a ring, seen from t + 1. -/
def onRing (e : Env) (r : Nat) (f : Ring → Ring) (s : State) : State :=
  s.modCore e.k fun c => c.setRing r (f (c.ring r))

/-- A field of the words of x.win beyond its limits (R67). -/
def winIll (v0 v1 : W64) : Bool :=
  bitsOf v0 0 11 ≠ 0 || bitsOf v0 52 12 ≠ 0 || bitsOf v1 0 32 == 0 || bitsOf v1 32 24 == 0 ||
    bitsOf v1 60 4 ≠ 0

/-- x.win (R67, R244). -/
def semXWin (a b : BitVec 6) : Sem where
  super := .compute
  rows e := xRows e.j [a, b]
  check e :=
    let v0 := e.x.rdS a.toNat
    let v1 := e.x.rdS b.toNat
    let r := bitsOf v1 56 4
    let g := e.c.ring r
    if winIll v0 v1 then some (ill e (.xWin a b))
    else if !g.cfg || g.win.isSome || g.tail != g.free then some (ringTrap e (.xWin a b) r) else none
  eff e s :=
    let v0 := e.x.rdS a.toNat
    let v1 := e.x.rdS b.toNat
    onRing e (bitsOf v1 56 4) (fun g =>
      { g with win := some { tbase := bitsOf v0 11 41 * 2048, nrows := bitsOf v1 0 32,
                             stride := bitsOf v1 32 24, cursor := 0 } }) s
def execXWin (a b : BitVec 6) (s : State) : Out := issueOne (.xWin a b) (semXWin a b) s

/-- A counted command on the open window of a ring: 0x10 where it has none at issue (R68); an x.wcls that is still
pending leaves it open (log entry 46). -/
def semWindow (i : Instr) (ring : BitVec 4) (n : Env → Nat) : Sem :=
  { semCounted i .compute [] (fun _ => false) n (fun _ => []) with
    check := fun e => (countedTrap e i).or
      (if (e.c.ring ring.toNat).win.isNone then some (ringTrap e i ring.toNat) else none) }

/-- x.wadv (R68, R244). -/
def semXWadv (cls : BitVec 2) (cc : BitVec 6) (ring : BitVec 4) (m : BitVec 16) : Sem :=
  semWindow (.xWadv cls cc ring m) ring fun _ => m.toNat
def execXWadv (cls : BitVec 2) (cc : BitVec 6) (ring : BitVec 4) (m : BitVec 16) (s : State) : Out :=
  issueOne (.xWadv cls cc ring m) (semXWadv cls cc ring m) s

/-- x.wcls (R68, R244): its elements are the slots of the ring. -/
def semXWcls (cls : BitVec 2) (cc : BitVec 6) (ring : BitVec 4) : Sem :=
  semWindow (.xWcls cls cc ring) ring fun e => (e.c.ring ring.toNat).len
def execXWcls (cls : BitVec 2) (cc : BitVec 6) (ring : BitVec 4) (s : State) : Out :=
  issueOne (.xWcls cls cc ring) (semXWcls cls cc ring) s

/-! ## Rings (R64 to R66, R245) -/

/-- A ring descriptor beyond its limits (R64). -/
def ringIll (v : W64) : Bool :=
  bitsOf v 21 3 ≠ 0 || bitsOf v 28 36 ≠ 0 || decide (511 < bitsOf v 0 10) || bitsOf v 10 10 == 0 ||
    decide (512 < bitsOf v 10 10) || decide (512 < bitsOf v 0 10 + bitsOf v 10 10 + bitsOf v 20 1)

/-- x.ring (R64, R245). -/
def semXRing (a : BitVec 6) : Sem where
  rows e := xRows e.j [a]
  check e :=
    let v := e.x.rdS a.toNat
    let r := bitsOf v 24 4
    if ringIll v || (e.c.ring r).win.isSome then some (ringTrap e (.xRing a) r) else none
  eff e s :=
    let v := e.x.rdS a.toNat
    onRing e (bitsOf v 24 4) (fun g =>
      { cfg := true, base := bitsOf v 0 10, len := bitsOf v 10 10, guard := v.getLsbD 20, tail := 0,
        head := 0, free := 0, win := none, held := [], raps := g.raps }) s
def execXRing (a : BitVec 6) (s : State) : Out := issueOne (.xRing a) (semXRing a) s

/-- A ring command with its own trap condition; 0x10 on a ring never configured (R65, R245). -/
def semRingCmd (i : Instr) (ring : BitVec 4) (bad : Ring → Bool) (eff : Env → Ring → Ring)
    (flow : Ring → Flow) : Sem where
  check e :=
    let g := e.c.ring ring.toNat
    if !g.cfg || bad g then some (ringTrap e i ring.toNat) else none
  eff e s := onRing e ring.toNat (eff e) s
  flow e := flow (e.c.ring ring.toNat)

/-- x.rwf (R65, R245): an engine wait for filled slots. -/
def semXRwf (ring : BitVec 4) (n : BitVec 10) : Sem :=
  semRingCmd (.xRwf ring n) ring (fun g => n == 0 || decide (g.len < n.toNat)) (fun _ g => g)
    fun g => if n.toNat ≤ g.filled then {} else { waits := [.rwf ring.toNat n.toNat] }
def execXRwf (ring : BitVec 4) (n : BitVec 10) (s : State) : Out := issueOne (.xRwf ring n) (semXRwf ring n) s

/-- x.rwe (R65, R245): an engine wait for slots open to producers. -/
def semXRwe (ring : BitVec 4) (n : BitVec 10) : Sem :=
  semRingCmd (.xRwe ring n) ring (fun g => n == 0 || decide (g.len < n.toNat)) (fun _ g => g)
    fun g => if n.toNat ≤ g.open_ then {} else { waits := [.rwe ring.toNat n.toNat] }
def execXRwe (ring : BitVec 4) (n : BitVec 10) (s : State) : Out := issueOne (.xRwe ring n) (semXRwe ring n) s

/-- x.rap (R65, R245): the tail moves in cycle t + 2, after its bundles: it is seen from t + 3. -/
def semXRap (ring : BitVec 4) (n : BitVec 10) : Sem :=
  semRingCmd (.xRap ring n) ring (fun g => decide (g.openLeft < n.toNat) || g.win.isSome)
    (fun e g => if n = 0 then g else { g with raps := g.raps ++ [(e.s.now + 2, e.j, n.toNat)] })
    fun _ => {}
def execXRap (ring : BitVec 4) (n : BitVec 10) (s : State) : Out := issueOne (.xRap ring n) (semXRap ring n) s

/-- x.rac (R65, R66, R245): pops n slots. -/
def semXRac (ring : BitVec 4) (n : BitVec 10) : Sem :=
  semRingCmd (.xRac ring n) ring (fun g => decide (g.filled < n.toNat))
    (fun e g => if n = 0 then g else g.pop e.j n.toNat e.x.inSeg) fun _ => {}
def execXRac (ring : BitVec 4) (n : BitVec 10) (s : State) : Out := issueOne (.xRac ring n) (semXRac ring n) s

end Sys2Proof.Machine
end

