-- ==== Sys2Proof/Machine/Phases.lean ====
section
/-!
DEFINITION. Supersteps: arrival, barriers and vats (R34 to R42, R247), stragglers (R45, R315),
pre-emption, save and resume (R46 to R48, R316, R317), rendezvous and gangs (R30, R248, R249).
-/

namespace Sys2Proof.Machine

/-! ## Members (R36) -/

/-- The contexts of the cores that the state lists: core, context, and the context's state. -/
def State.ctxList (s : State) : List (Nat × Nat × Ctx) :=
  s.cores.flatMap fun kc => kc.2.ctxs.map fun jx => (kc.1, jx.1, jx.2)

/-- The tasks of a domain, members or not yet. -/
def State.tasksOf (s : State) (d : Nat) : List (Nat × Nat × Ctx) :=
  s.ctxList.filter fun p => p.2.2.dom == some d && p.2.2.resident

/-- The members of a domain (R36). -/
def State.members (s : State) (d : Nat) : List (Nat × Nat × Ctx) :=
  (s.tasksOf d).filter fun p => p.2.2.status != .held

/-- Whether a member has arrived at the pending barrier (R39). -/
def Ctx.arrived (x : Ctx) : Bool :=
  match x.status with
  | .blocked ws _ => ws.contains .phase
  | _ => false

/-- Changes each context of a list. -/
def State.modAll (s : State) (ms : List (Nat × Nat × Ctx)) (f : Ctx → Ctx) : State :=
  ms.foldl (fun s m => s.modCtx m.1 m.2.1 f) s

/-- Freezes a context in a cycle, once (R46). -/
def Ctx.freeze (now : Nat) (x : Ctx) : Ctx :=
  match x.frozen with
  | some _ => x
  | none => { x with frozen := some now }

/-! ## Arrival (R39, R45, R46, R247) -/

/-- The arrival of a member at the barrier of its domain: the straggler count starts at the first one, and
a latched pre-emption freezes the member. -/
def State.arrive (s : State) (k j d : Nat) : State :=
  let x := s.dom d
  let first := !(s.members d).any fun m => m.2.2.arrived
  let s1 := s.modDom d fun x =>
    { x with latest := max x.latest s.now,
             count := if first ∧ x.strag ≠ 0 then some s.now else x.count }
  if x.pend then s1.modCtx k j (Ctx.freeze s.now) else s1

/-- x.phase (R39, R247): not in a loop body (R132), not by a boot context (R336). -/
def semXPhase : Sem where
  check e := if e.x.loop.isSome || e.x.dom.isNone then some (ill e .xPhase) else none
  post e s :=
    let s1 := s.modCore e.k fun c => c.commitSeg e.j s.now
    match e.x.dom with
    | some d => s1.arrive e.k e.j d
    | none => s1
  flow _ := { waits := [.phase] }
def execXPhase (s : State) : Out := issueOne .xPhase semXPhase s

/-- x.phq (R247): the value is read when the command completes. -/
def semXPhq (cc a : BitVec 6) : Sem := semCounted (.xPhq cc a) .both [] (fun _ => false) (fun _ => 0) fun _ => []
def execXPhq (cc a : BitVec 6) (s : State) : Out := issueOne (.xPhq cc a) (semXPhq cc a) s

/-- The word of x.phq (R247). -/
def State.phqWord (s : State) (d : Option Nat) : W64 :=
  match d with
  | none => 0
  | some d =>
    BitVec.ofNat 64 (((s.members d).filter (·.2.2.arrived)).length % 8192) ||| flag (s.dom d).pend 13 |||
      (((s.dom d).ctr.extractLsb' 0 32).zeroExtend 64 <<< 32)

/-! ## The vats (R41, R42) -/

/-- The granules of a window slot. -/
def slotGranules (slot : Nat) : List Nat := (List.range 32).map fun g => (slot - 512) * 32 + g

/-- The swap of one window slot whose written granules are `gs`. -/
def Core.swapSlot (c : Core) (slot : Nat) (gs : List Nat) : Core :=
  let b := c.getSlot slot
  let flip := fun c : Core => { c with sel := gs.foldl (fun m g => if g ∈ m then m.filter (· != g) else g :: m) c.sel }
  let mine := slotGranules slot
  let fill := fun c : Core => (mine.filter fun g => !gs.contains g).foldl (fun c g =>
    { c with sp := c.sp.clear (c.phys (0x100000 + 64 * g)) 64 }) c
  match b.sb.state with
  | .poisoned => flip c
  | .present =>
    let c1 := if b.sb.stale.isSome then c.putSlot slot b.solid else c
    let c2 := flip c1
    { c2 with sb := AMap.set c2.sb slot { c2.slotSb slot with clean := false, touched := true } }
  | _ =>
    let c1 := fill (flip c)
    { c1 with sb := AMap.set c1.sb slot { c1.slotSb slot with state := .present, stale := none, clean := false,
                                                              touched := true } }

/-- The swap of a core's vat: every written granule flips, and the written bits clear (R41). -/
def Core.swapVat (c : Core) : Core :=
  let gs := c.written.eraseDups.filter (· < 4096)
  let c1 := (gs.map fun g => 512 + g / 32).eraseDups.foldl (fun c sl =>
    c.swapSlot sl (gs.filter fun g => 512 + g / 32 == sl)) c
  { c1 with written := [] }

/-- Changes the cores of a set of clusters. -/
def State.modCluster (s : State) (cl : BitVec 128) (f : Core → Core) : State :=
  { s with cores := s.cores.map fun kc => if bmHas cl (kc.1 / 8) then (kc.1, f kc.2) else kc }

/-! ## The barrier (R36, R39, R40) -/

/-- Whether the barrier waits for a command: horizontal ones at the end of an exchange superstep, trades
of receive-window slots at the end of a compute superstep (R39). One that is stopped or held down does not hold it
(log entry 56). -/
def State.binds (s : State) (k : Nat) (odd : Bool) (m : Cmd) : Bool :=
  if m.stopped then false
  else match m.ins with
    | .xRst .. => odd
    | .xXchp .. => odd
    | .xColl .. => odd && m.sub == 0
    | _ => !odd && m.trades && (if m.stepwise then false else (List.range (m.n - m.i)).any fun d =>
        match ({ m with i := m.i + d } : Cmd).trade k (s.core k) with
        | some (.s _ sl, _) => decide (512 ≤ sl)
        | _ => false)

/-- Whether the barrier of a domain passes now (R36, R39). -/
def State.barrierDue (s : State) (d : Nat) : Bool :=
  let x := s.dom d
  let odd := x.ctr.getLsbD 0
  let ms := s.members d
  !x.saving && !x.saved && x.heldRt.isNone && (ms ≠ [] || odd) && ms.all (·.2.2.arrived) &&
    (ms.all fun m => m.2.2.cmds.all fun c => !s.binds m.1 odd c) && decide (x.latest + 31 ≤ s.now)

/-- The waits of a member that the barrier lets go: the rest of its bundle's waits stay. -/
def Ctx.released (x : Ctx) (ctr : W64) : Ctx :=
  match x.status with
  | .blocked ws on => { x with status := .blocked (ws.filter (· != .phase)) on, phase := ctr }
  | .held => { x with status := .blocked [] (.next x.pc true), phase := ctr }
  | _ => x

/-- A task that the pass to a compute superstep would have let in is frozen as if it had arrived (R36, R46). -/
def Ctx.heldFrozen (x : Ctx) (now : Nat) : Ctx :=
  match x.status with
  | .held => { x with status := .blocked [.phase] (.next x.pc true), frozen := some now }
  | _ => x

/-- What a pass does after its count: the vats swap when the counter has become even, gangs in which a
member has issued x.gend end (R249), a latched pre-emption is taken (R46), and otherwise the members
become ready in the next cycle (R39). -/
def State.passed (s : State) (d : Nat) : State :=
  let x := s.dom d
  let even := !x.ctr.getLsbD 0
  let s1 := if even then s.modCluster x.clusters Core.swapVat else s
  let s2 := { s1 with gangs := s1.gangs.filter fun g =>
    !(bmHas x.clusters (g.die * 32 + g.cluster) && !g.ended.isEmpty) }
  let s3 := s2.modDom d fun x => { x with count := none, failed := false }
  let ts := s3.tasksOf d
  if x.pend then
    (s3.modDom d fun x => { x with saving := true, forced := false }).modAll ts fun y =>
      if even then y.heldFrozen s.now else y.freeze s.now
  else s3.modAll ts fun y => if y.arrived || even then y.released x.ctr else y

/-- The barrier passes, or is held for a router swap (R39, R273). -/
def State.passBarrier (s : State) (d : Nat) : State :=
  let x := s.dom d
  if x.ctr.getLsbD 0 ∧ (s.rtMask.map fun m => m.getLsbD d) = some true then
    s.modDom d fun x => { x with heldRt := some s.now }
  else (s.modDom d fun x => { x with ctr := x.ctr + 1 }).passed d

/-- BARRIER_PASS (R39). -/
def execBarrierPass (dom : Nat) (s : State) : Out :=
  happen (s.barrierDue dom) "BARRIER_PASS" (s.passBarrier dom)

/-! ## Failed barriers and stragglers (R45, R315, R316) -/

/-- The bitmap of the cores with a member that has not arrived (R45). -/
def State.lateMap (s : State) (d : Nat) : List W64 :=
  let late := ((s.members d).filter fun m => !m.2.2.arrived).map (·.1)
  (List.range 16).map fun w => BitVec.ofNat 64
    (((List.range 64).filter fun b => late.contains (64 * w + b)).map fun b => 2 ^ b).sum

/-- A pre-emption request is taken at once: a forced save (R316). Members that have arrived are frozen;
the others freeze at their next bundle boundary outside loops and locks. -/
def State.forceSave (s : State) (d : Nat) : State :=
  (s.modDom d fun x => { x with saving := true, forced := true, count := none }).modAll
    ((s.tasksOf d).filter fun m => m.2.2.arrived || m.2.2.status == .held) (Ctx.freeze s.now)

/-- The pending barrier has failed: a request that is latched already becomes a forced save (R315, R316). -/
def State.failBarrier (s : State) (d : Nat) : State :=
  let s1 := s.modDom d fun x => { x with failed := true }
  if (s.dom d).pend && !(s.dom d).saving then s1.forceSave d else s1

/-- Whether the straggler count of a domain has run out (R45); it is suspended while a router swap holds
the domain (R273). -/
def State.stragDue (s : State) (d : Nat) : Bool :=
  let x := s.dom d
  x.heldRt.isNone && match x.count with
    | some c => decide (c + 2 ^ x.strag ≤ s.now)
    | none => false

/-- The straggler record, to the owner and to the privileged interface (R45, R266, R315). -/
def State.straggler (s : State) (d : Nat) : State :=
  let x := s.dom d
  let rec_ := [recW0 3 0x0B 0 0, BitVec.ofNat 64 d, x.ctr] ++ s.lateMap d
  let s1 := [x.owner, 0].eraseDups.foldl (fun s v => s.record v 1 rec_) s
  (s1.modDom d fun x => { x with count := none }).failBarrier d

/-- STRAGGLER_TIMEOUT (R45, R315). -/
def execStragglerTimeout (dom : Nat) (s : State) : Out :=
  happen (s.stragDue dom) "STRAGGLER_TIMEOUT" (s.straggler dom)

/-- Whether an interface sees the registers of a domain (R264). -/
def State.seesDomain (s : State) (vi d : Nat) : Bool := s.linkUp && decide (d < 16) && (vi == 0 || (s.dom d).owner == vi)

/-- Whether a barrier of a domain is pending at which a member has arrived. One that has passed and left its members
frozen for a save is not (R39, R46), nor one that counts as passed for a forced save, whose count a resume restarts
(R316, R317). -/
def State.barrierOpen (s : State) (d : Nat) : Bool :=
  !(s.dom d).saving && !(s.dom d).saved && (s.members d).any (·.2.2.arrived)

/-- A write of strag.exp: 0 stops the count, a valid value restarts it where a member has arrived (R44,
R45, R315). -/
def State.setStrag (s : State) (d v : Nat) : State :=
  if v = 0 then s.modDom d fun x => { x with strag := 0, count := none }
  else if 10 ≤ v ∧ v ≤ 40 then
    let any := s.barrierOpen d
    s.modDom d fun x => { x with strag := v, count := if any then some s.now else none }
  else s

/-- STRAG_EXP_WRITE (R45). -/
def execStragExpWrite (vi dom : Nat) (v : W64) (s : State) : Out :=
  .next (if s.seesDomain vi dom then s.setStrag dom (bitsOf v 0 6) else s)

/-- The report of subtype 11 (R325). -/
def State.barrierReport (s : State) (d reason : Nat) (tag : W32) : State :=
  s.fault [0, (s.dom d).owner] 11 0x0B 0 (BitVec.ofNat 64 d) (s.dom d).ctr
    (BitVec.ofNat 64 (reason + tag.toNat * 65536))

/-- BARRIER_NET_FAIL (R315): arrivals cannot be delivered after 16 retries. -/
def execBarrierNetFail (dom : Nat) (s : State) : Out :=
  happen ((s.members dom).any (·.2.2.arrived)) "BARRIER_NET_FAIL"
    ((s.barrierReport dom 1 0).failBarrier dom)

/-! ## Save (R46, R47, R316) -/

/-- The size of a saved cluster in bytes, and of its parts, in the order of the table: the pool image, the eight
core records, and the context records, four for each core (R47; log entry 19). -/
def poolBytes : Nat := 4096 * 2048
def coreBytes : Nat := 1602 * 1024
def ctxBytes : Nat := 256 * 1024
def clusterBytes : Nat := poolBytes + 8 * (coreBytes + 4 * ctxBytes)

/-- The clusters of a bitmap, ascending. -/
def clustersOf (b : BitVec 128) : List Nat := (List.range 128).filter (bmHas b)

/-- The block parts of a save area: address and slot, a pool slot as cluster, slot and a core's as core,
slot (R47). -/
def areaBlocks (base : Nat) (cls : List Nat) : List (Nat × Loc) :=
  (List.range cls.length).flatMap fun i =>
    let cl := cls.getD i 0
    let at_ := base + clusterBytes * i
    ((List.range 4096).map fun sl => (at_ + 2048 * sl, Loc.p cl sl)) ++
    (List.range 8).flatMap fun n =>
      (List.range 640).map fun sl => (at_ + poolBytes + coreBytes * n + 2048 * sl, Loc.s (cl * 8 + n) sl)

/-- The images of a save area that hold bytes of a core as they are: address and core (R47). -/
def areaImages (base : Nat) (cls : List Nat) : List (Nat × Nat) :=
  (List.range cls.length).flatMap fun i =>
    (List.range 8).map fun n =>
      (base + clusterBytes * i + poolBytes + coreBytes * n + 640 * 2048, cls.getD i 0 * 8 + n)

/-- The other records, whose layout no rule gives: core and context, none for the last 2 KiB of a core record, with
the blocks; there is one for each resident context (R47). -/
def State.areaRecords (s : State) (base : Nat) (cls : List Nat) : List (Nat × Option Nat × List Nat) :=
  (List.range cls.length).flatMap fun i =>
    let at_ := base + clusterBytes * i + poolBytes
    let core := fun n => cls.getD i 0 * 8 + n
    ((List.range 8).map fun n => (core n, none, [at_ + coreBytes * n + 800 * 2048])) ++
    (List.range 8).flatMap fun n => (List.range 4).filterMap fun j =>
      if (s.ctx (core n) j).resident then
        some (core n, some j, (List.range 128).map fun b => at_ + 8 * coreBytes + (4 * n + j) * ctxBytes + 2048 * b)
      else none

/-- Where the vat's copy of a granule stands: the one that is not selected (R41). -/
def Core.vatAddr (c : Core) (g : Nat) : Nat := 0x100000 + 64 * g + if g ∈ c.sel then 0 else 0x40000

/-- The instruction scratchpad with every store into it that has committed. -/
def Core.imemAll (c : Core) : Mem := c.iq.foldl (fun m st => m.writeBytes st.addr st.data) c.imem

/-- Block `b` of the images of a core: 128 blocks of its vat, then 32 of its instruction scratchpad (R47). -/
def Core.imageBlock (c : Core) (b : Nat) : List Byte :=
  if b < 128 then (List.range 32).flatMap fun i => c.sp.bytes (c.vatAddr (32 * b + i)) 64
  else c.imemAll.bytes (2048 * (b - 128)) 2048

/-- The rows of the arrays that block `b` of the images of a core stands in. -/
def Core.imageRows (c : Core) (b : Nat) : List (Nat × Nat) :=
  if b < 128 then (List.range 32).flatMap fun i =>
    (List.range 8).map fun w => (1, (c.vatAddr (32 * b + i) - 0x100000) / 8 + w)
  else (List.range 256).map fun w => (5, 256 * (b - 128) + w)

/-- The images of a core come back, over the errors of the rows that they are written into (R48, R293). -/
def Core.putImage (c0 : Core) (b : Nat) (bs : List Byte) : Core :=
  let c := if c0.flips = [] then c0 else c0.freshRows (c0.imageRows b)
  if b < 128 then
    { c with sp := (List.range 32).foldl (fun m i => m.writeBytes (c.vatAddr (32 * b + i)) ((bs.drop (64 * i)).take 64)) c.sp }
  else { c with imem := c.imem.writeBytes (2048 * (b - 128)) bs, iq := [] }

/-- The block in a slot of level S or P; one with an uncorrectable row counts as poisoned (R47). -/
def State.slotBlock (s : State) : Loc → Block
  | .s k sl =>
    let b := (s.core k).getSlot sl
    if (s.core k).slotBad sl then { b with sb := { b.sb with state := .poisoned } } else b
  | .p cl sl =>
    let b := s.getPool cl sl
    if s.phard.contains (cl * 4096 + sl) then { b with sb := { b.sb with state := .poisoned } } else b
  | .d _ => {}

def State.putSlotBlock (s : State) (b : Block) : Loc → State
  | .s k sl => s.modCore k fun c => (c.freshSlot sl).putSlot sl b
  | .p cl sl => s.putPool cl sl b
  | .d _ => s

/-- A trade of a save or a resume: side-band words go along unchanged; an empty block that leaves a slot
makes the location absent, or leaves a discarded frame as it is (R47, R48, R54, R59). -/
def State.areaTrade (s0 : State) (vi addr : Nat) (l : Loc) : State :=
  let s := s0.seeEntry vi addr
  match s.translate vi addr true with
  | .error _ => s
  | .ok p =>
    let near := s.slotBlock l
    let (t0, l0) := s.place p.die p.dfn p.blk
    let bad := (s.pent p.die p.dfn).state != 3 &&
      ((t0 != 3 && s.unreadable p.die t0 l0 p.blk true) || s.badForm p.key p.die t0 l0 p.blk true)
    let far0 := s.getBlk p.key p.die p.dfn p.blk
    let far := if bad then { far0 with sb := { far0.sb with state := .poisoned } } else far0
    let inn : Block := match far.sb.state with
      | .empty | .absent => ballast s.free
      | _ => far
    let s1 := s.putSlotBlock inn l
    let gone := near.sb.state == .empty || near.sb.state == .absent
    let s2 :=
      if !gone then (s1.putBlk p.key p.die p.dfn p.blk true near).cost p.die 1 0 1
      else if (s1.pent p.die p.dfn).state = 3 then s1
      else
        let (t, loc) := s1.place p.die p.dfn p.blk
        if t = 3 then (s1.putBlkAt p.key p.die 3 loc p.blk true {}).cost p.die 1 0 1
        else (s1.markAt p.die t loc p.blk .absent).cost p.die (if far.sb.state = .present then 1 else 0) 1 0
    (s2.heat p.die p.dfn).fire p.die (dpsOf p.dfn p.blk) 2048

/-- A block of a record is written (R47). -/
def State.writeRecord (s0 : State) (vi addr : Nat) (b : Block) : State :=
  let s := s0.seeEntry vi addr
  match s.translate vi addr true with
  | .error _ => s
  | .ok p => (s.putBlk p.key p.die p.dfn p.blk false b).fire p.die (dpsOf p.dfn p.blk) 2048

/-- The number of the free bytes of the record block at an address, of a save with number `tag`. -/
def recTagAt (tag addr : Nat) : Nat := tag + addr * 2 ^ 40

/-- A block whose layout no rule gives: its bytes are a free value (R47; log entry 19). -/
def State.recordBlock (s : State) (vi addr tag : Nat) : State :=
  s.writeRecord vi addr { sb := { state := .present, stale := some (recTagAt tag addr) } }

/-- Whether a block of a record reads, for the resume, as the save wrote it. -/
def State.recordKept (s : State) (vi addr tag : Nat) : Bool :=
  match s.translate vi addr false with
  | .error _ => false
  | .ok p =>
    let b := s.getBlk p.key p.die p.dfn p.blk
    b.sb.state != .poisoned && !s.lostBlock p &&
      (List.range 2048).all fun i => b.byte i == Config.freeByte (recTagAt tag addr) i

/-- The images of a core are written, or come back (R47, R48). -/
def State.saveImages (s : State) (vi addr core : Nat) : State :=
  (List.range 160).foldl (fun s b => s.writeRecord vi (addr + 2048 * b)
    { sb := { state := .present }, bytes := Mem.writeBytes [] 0 ((s.core core).imageBlock b) }) s

def State.loadImages (s : State) (vi addr core : Nat) : State :=
  (List.range 160).foldl (fun s b =>
    let s := s.seeBlock vi (addr + 2048 * b)
    match s.translate vi (addr + 2048 * b) false with
    | .error _ => s
    | .ok p =>
      let blk := s.getBlk p.key p.die p.dfn p.blk
      s.modCore core fun c => c.putImage b ((List.range 2048).map blk.byte)) s

/-- Whether a command has committed or handed off, as a save waits for (R47): stopped, taken by the
Shroud, waiting for a free slot of its ring, or, in a forced save, an x.rst, or an x.xchp whose next trade is not in
phase B (log entry 43). -/
def State.handedOff (s : State) (k : Nat) (forced : Bool) (m : Cmd) : Bool :=
  m.stopped ||
  match m.ins with
  | .xColl .. => m.sub != 0
  | .xRst .. => forced
  | .xXchp .. => forced && (m.queued || m.inPhaseA)
  | .xWadv .. => m.queued && !m.slotOpen (s.core k) s.now
  | _ => false

/-- Whether no trade in flight names a block of the save area of a domain: the trades of a save or a resume wait for
it, as any other does (R55, R57). -/
def State.areaFree (s : State) (d : Nat) : Bool :=
  let x := s.dom d
  s.entries.all fun t => match t.far with
    | .d _ => (areaBlocks (bitsOf x.save 11 53 * 2048) (clustersOf x.clusters)).all fun p =>
        s.frameOf x.owner p.1 != some (t.die, t.dfn, t.blk)
    | _ => true

/-- Whether the save of a domain can be written: every member frozen, its stores committed, its engine
operations committed or handed off, its beats and scale loads completed (R47, R240, R316). -/
def State.saveDue (s : State) (d : Nat) : Bool :=
  let x := s.dom d
  x.saving && s.areaFree d && (s.tasksOf d).all fun m =>
    m.2.2.frozen.isSome && (m.2.2.cmds.all fun c => s.handedOff m.1 x.forced c) && m.2.2.sq.loads.isEmpty &&
      m.2.2.sq.tile.isNone && decide (m.2.2.mxDue ≤ s.now) && !(s.core m.1).stq.any fun st => st.ctx == m.2.1

/-- x.rst commands saved on the way send every granule again after the resume, each flit at its place in the compiled
order (R317); a trade of an x.xchp starts again. -/
def Cmd.rewoundRst (m : Cmd) : Cmd :=
  match m.ins with
  | .xRst .. => { m with sent := 0, placed := if m.src = 0 then (m.n + 3) / 4 else 0 }
  | .xXchp .. =>
    let m' := { m with placed := 0 }
    if m.inPhaseA then { m' with status := .queued, sent := 0 } else m'
  | _ => m

/-! ## The token of a home channel (R43) -/

/-- The domain that a core's cluster belongs to. -/
def State.domainOf (s : State) (core : Nat) : Option Nat :=
  (List.range 16).find? fun d => bmHas (s.dom d).clusters (core / 8)

/-- The cores of a domain, ascending. -/
def State.domainCores (s : State) (d : Nat) : List Nat :=
  (clustersOf (s.dom d).clusters).flatMap fun cl => (List.range 8).map fun n => cl * 8 + n

/-- Where the rotation of a home channel of a domain stands in a cycle; no rule says (a free value). -/
def tokenPhase (d chan now : Nat) : Nat := now + Config.freeNat (16 * d + chan) 8

/-- Whether the token of a home channel of the core's domain visits it in this cycle: the domain's cores in
ascending order, two cycles each. -/
def State.tokenAt (s : State) (core chan : Nat) : Bool :=
  match s.domainOf core with
  | none => false
  | some d =>
    let l := s.domainCores d
    let ph := tokenPhase d chan s.now
    ph % 2 == 0 && l.getD (ph / 2 % l.length) 1024 == core

/-- The first cycle from `t` on in which the token of a home channel of the domain visits a core. -/
def State.nextVisit (s : State) (d chan core t : Nat) : Nat :=
  let l := s.domainCores d
  t + (2 * (l.idxOf core) + 2 * l.length - tokenPhase d chan t % (2 * l.length)) % (2 * l.length)

/-- The active entry by which traffic of a core's domain reaches a target (R273). -/
def State.route (s : State) (core target : Nat) : RtEnt :=
  let part := match s.domainOf core with | some d => (s.dom d).owner | none => 0
  AMap.get s.rtAct (rtIndex target part) {}

/-- The flits that a pending horizontal command has still to place, with the channel of each and, of an x.rst, its
first granule (R43). -/
def State.unplaced (s : State) (core j : Nat) (m : Cmd) : List (Nat × Option (Nat × Nat × Nat × Nat)) :=
  match m.ins with
  | .xRst .. =>
    if m.src ≠ 0 then []
    else (List.range ((m.n + 3) / 4 - m.placed)).map fun i =>
      ((s.route core (m.arg 2)).chan, some (core, j, m.seq, 4 * (m.placed + i)))
  | .xXchp .. => if m.stopped then [] else
      (List.range (8 * (m.n - m.i) - m.placed)).map fun _ => ((s.route core core).chan, none)
  | _ => []

/-- The visits that carry a list of flits of a core, from a cycle on, without a retry. -/
def State.visits (s : State) (d core : Nat) :
    Nat → List (Nat × Option (Nat × Nat × Nat × Nat)) → List (Nat × Nat × Nat × Nat × Nat)
  | _, [] => []
  | t, (chan, f) :: fs =>
    let v := s.nextVisit d chan core t
    (f.map fun f => (v, f)).toList ++ State.visits s d core (v + 2) fs

/-- A list in rising order of a number. -/
def sortBy {α : Type} (key : α → Nat) : List α → List α
  | [] => []
  | a :: as =>
    let l := sortBy key as
    l.takeWhile (fun b => decide (key b < key a)) ++ a :: l.dropWhile fun b => decide (key b < key a)

/-- The places that the compiled schedule gives to the flits of the x.rst commands that a forced save keeps, in the
order of their visits (R317; log entry 115). -/
def State.restOrder (s : State) (d : Nat) : List (Nat × Nat × Nat × Nat) :=
  let vs := (s.domainCores d).flatMap fun core =>
    let ms := sortBy (fun p : Nat × Cmd => p.2.t) ((List.range 4).flatMap fun j => (s.ctx core j).cmds.map fun m => (j, m))
    s.visits d core s.now (ms.flatMap fun p => s.unplaced core p.1 p.2)
  (sortBy (fun v : Nat × Nat × Nat × Nat × Nat => v.1) vs).map (·.2)

/-! ## Writing the save area (R47) -/

/-- The save of a domain (R47): the area's block parts are emptied, slots and pools are traded into them,
the records are written, and the PREEMPT commands complete. -/
def State.saveDomain (s : State) (d : Nat) : State :=
  let x := s.dom d
  let base := bitsOf x.save 11 53 * 2048
  let cls := clustersOf x.clusters
  let s1 := (List.range cls.length).foldl (fun s i =>
    let at_ := base + clusterBytes * i
    (List.range 8).foldl (fun s n => s.discard x.owner (at_ + poolBytes + coreBytes * n) (640 * 2048))
      (s.discard x.owner at_ poolBytes)) s
  let s2 := (areaBlocks base cls).foldl (fun s p => (s.areaTrade x.owner p.1 p.2).fresh) s1
  let s3 := ((s2.areaRecords base cls).flatMap fun r => r.2.2).foldl (fun s a => s.recordBlock x.owner a s2.free)
    ((areaImages base cls).foldl (fun s p => s.saveImages x.owner p.1 p.2) s2)
  let s4 := (s3.modAll (s3.tasksOf d) fun y =>
    { y with saved := true, cmds := y.cmds.map Cmd.rewoundRst }).modDom d fun y =>
      { y with saving := false, saved := true, pend := false, savedCl := y.clusters, waiters := [],
               flits := y.flits ++ s.restOrder d, recTag := s2.free }
  (x.waiters.foldl (fun s w => s.doneCmd w.1 w.2.1 w.2.2.1 w.2.2.2) s4).fresh

/-- PREEMPT_SAVE (R47). -/
def execPreemptSave (dom : Nat) (s : State) : Out :=
  happen (s.saveDue dom) "PREEMPT_SAVE" (s.saveDomain dom)

/-! ## Resume (R48, R317) -/

/-- Results in flight and latches of a frozen context, from its freeze cycle to the replay origin (R48). -/
def Ctx.replay (x : Ctx) (w : Nat) : Ctx :=
  match x.frozen with
  | none => x
  | some a =>
    let l := fun y : Latch => { y with due := if a < y.due then w + (y.due - a) else y.due }
    { x with pend := x.pend.map fun p => { p with due := w + (p.due - a), at_ := w + (p.due - a) },
             la0 := l x.la0, la1 := l x.la1, lb0 := l x.lb0, lb1 := l x.lb1, frozen := some w,
             mon := match x.mon with | .armed _ => .fired | m => m }

/-- A register that is restored from a record which is not as the save wrote it: where a field stands in the record, no
rule says, so its value is a free value (log entry 19). -/
def freeWord (tag n : Nat) : W64 := BitVec.ofNat 64 (Config.freeNat tag (1000 + n))

def freeVReg (tag n : Nat) : VReg := BitVec.ofNat 1024 (Config.freeNat tag (1000 + n))

/-- A context whose record is not as the save wrote it (R47, R48; log entry 19). -/
def Ctx.strange (x : Ctx) (tag : Nat) : Ctx :=
  { x with s := (List.range 64).map fun n => (n, freeWord tag n),
           a := (List.range 31).map fun n => (n + 1, freeWord tag (64 + n)),
           ka := (List.range 7).map fun n => (n + 1, (freeWord tag (96 + n)).extractLsb' 0 32),
           kb := (List.range 7).map fun n => (n + 1, (freeWord tag (104 + n)).extractLsb' 0 32),
           cc := (List.range 64).map fun n => (n, (freeWord tag (112 + n)).extractLsb' 0 32),
           oa := (List.range 32).map fun n => (n, freeVReg tag (176 + n)),
           ob := (List.range 32).map fun n => (n, freeVReg tag (208 + n)),
           pc := Config.freeNat tag 1240 % 65536, priv := Config.freeBit tag 1241, rot := Config.freeNat tag 1242 % 4,
           sq := { x.sq with landed := x.sq.landed.zipIdx.map fun p => (freeWord tag (256 + p.2)).extractLsb' 0 16 },
           pend := x.pend.zipIdx.map fun p => { p.1 with val := freeVReg tag (512 + p.2) } }

/-- The footprint of a context whose record is not as the save wrote it (R47, R48; log entry 19). -/
def Core.strangeFoot (c : Core) (x : Ctx) (tag : Nat) : Core :=
  let put := fun (m : AMap VReg) (banks : List Nat) (off : Nat) =>
    (banks.flatMap fun b => (List.range 64).map fun r => 64 * b + r).foldl
      (fun m e => AMap.set m e (freeVReg tag (off + e))) m
  let acc := fun (b : Nat) => ({ cells := (List.range 1024).map fun n =>
    (n, (freeWord tag (5120 + 1024 * b + n)).extractLsb' 0 32), checked := false } : AccBank)
  { c with va := put c.va x.vaMap 3072, vb := put c.vb x.vbMap 4096,
           accs := x.accMap.foldl (fun m b => AMap.set m b (acc b)) c.accs }

/-- A core whose own record is not as the save wrote it: ring pointers, select and written bits, spill map and segment
state (R47, R48; log entry 19). -/
def Core.strangeCore (c : Core) (tag : Nat) : Core :=
  { c with rings := c.rings.map fun r =>
             (r.1, { r.2 with tail := Config.freeNat tag (3 * r.1) % 65536, head := Config.freeNat tag (3 * r.1 + 1) % 65536,
                              free := Config.freeNat tag (3 * r.1 + 2) % 65536 }),
           sel := (List.range 4096).filter fun g => Config.freeBit tag (64 + g),
           written := (List.range 4096).filter fun g => Config.freeBit tag (8192 + g),
           spill := c.spill.zipIdx.map fun p => { p.1 with val := freeVReg tag (16384 + p.2) } }

/-- A record comes back (R48): as it was saved where the save area still holds what the save wrote. -/
def State.loadRecord (s : State) (vi tag : Nat) (r : Nat × Option Nat × List Nat) : State :=
  if r.2.2.all fun a => s.recordKept vi a tag then s
  else match r.2.1 with
    | some j => s.modCore r.1 fun c => (c.strangeFoot (c.ctx j) (s.free + 8 * r.1 + j)).setCtx j
        ((c.ctx j).strange (s.free + 8 * r.1 + j))
    | none => s.modCore r.1 fun c => c.strangeCore (s.free + 8 * r.1 + 4)

/-- The resume of a domain (R48): blocks and records come back, and the replay origin W is set. -/
def State.resumeDomain (s : State) (d : Nat) : State :=
  let x := s.dom d
  let base := bitsOf x.save 11 53 * 2048
  let cls := clustersOf x.clusters
  let s0 := (areaBlocks base cls).foldl (fun s p => (s.areaTrade x.owner p.1 p.2).fresh) s
  let s1 := (s0.areaRecords base cls).foldl (fun s r => s.loadRecord x.owner x.recTag r)
    ((areaImages base cls).foldl (fun s p => s.loadImages x.owner p.1 p.2) s0)
  let w := s.now + 1 + Config.freeNat s1.free 7
  ((s1.modAll (s1.tasksOf d) fun y => y.replay w).modDom d fun y =>
    { y with origin := some w, resuming := false }).fresh

/-- A refused resume (R48, R266). -/
def State.refuseResume (s : State) (d : Nat) : State :=
  s.record (s.dom d).owner 1 [recW0 2 2 0 0, BitVec.ofNat 64 d, 1]

/-- A write of 1 to resume (R44, R48). It waits while a trade in flight names a block of the area (R57); while the
resume is under way it does nothing (log entry 94). -/
def State.resumeGo (s : State) (d : Nat) : State :=
  let x := s.dom d
  if !x.saved ∨ x.clusters ≠ x.savedCl then (s.modDom d fun y => { y with resuming := false }).refuseResume d
  else if x.origin.isSome then s
  else if s.areaFree d then s.resumeDomain d
  else s.modDom d fun y => { y with resuming := true }

/-- DOM_RESUME (R44, R48). -/
def execDomResume (vi dom : Nat) (s : State) : Out :=
  .next (if s.seesDomain vi dom then s.resumeGo dom else s)

/-- Whether the barrier of a resume is due, at W + 31. -/
def State.resumeDue (s : State) (d : Nat) : Bool :=
  match (s.dom d).origin with
  | some w => decide (w + 31 ≤ s.now)
  | none => false

/-- A member after a resume: the barrier lets it go; after a forced save a member that had arrived waits
on, and any other issues again from its saved bundle (R48, R317). A task that is no member yet waits for the next
compute superstep (R36). -/
def Ctx.resumed (x : Ctx) (forced : Bool) (ctr : W64) (now : Nat) : Ctx :=
  let y := { x with saved := false, frozen := none, since := now }
  if x.status = .held then y
  else if !forced then y.released ctr
  else if x.arrived then y
  else match x.status with
    | .blocked ws _ =>
      if !x.standing then y
      else { y.putBack now with rdvs := if ws.any (fun w => match w with | .rdv _ _ => true | _ => false)
                                              then y.rdvs - 1 else y.rdvs }
    | _ => y

/-- RESUME_BARRIER (R48, R317): the counter does not change. -/
def execResumeBarrier (dom : Nat) (s : State) : Out :=
  happen (s.resumeDue dom) "RESUME_BARRIER"
    (let x := s.dom dom
     (s.modAll (s.tasksOf dom) fun y => y.resumed x.forced x.ctr s.now).modDom dom fun y =>
       { y with saved := false, origin := none, forced := false, latest := max y.latest s.now,
                count := if x.forced ∧ x.strag ≠ 0 then some s.now else none })

/-! ## Rendezvous (R248, R295) -/

/-- The identifier with which a context waits in its n-th x.rdv. -/
def Ctx.rdvId (x : Ctx) (n : Nat) : Option Nat :=
  match x.status with
  | .blocked ws _ => ws.findSome? fun w => match w with
    | .rdv id k => if k = n then some id else none
    | _ => none
  | _ => none

/-- Whether the x.rdv of a bundle is the last of its partners', and they differ in its identifier. -/
def rdvClash (e : Env) (id : Nat) : Bool :=
  let n := e.x.rdvs + 1
  let ids := (e.s.partners e.k e.j).map fun p => (e.s.ctx p.1 p.2).rdvId n
  ids ≠ [] && ids.all (·.isSome) && ids.any fun i => i != some id

/-- The other partners of a rendezvous whose identifiers differ take the trap at their x.rdv, and a gang is
dissolved (R248). -/
def State.rdvBreak (s : State) (k j : Nat) : State :=
  match s.gangOf k j with
  | some g => (s.gangBreak g 0).modCtx k j fun x => { x with gtrap := none, ltrap := none }
  | none => s

/-- x.rdv (R248, R295): commits an open segment, then waits for the partners. -/
def semXRdv (id : BitVec 8) : Sem where
  check e :=
    if rdvClash e id.toNat then
      match e.s.gangOf e.k e.j with
      | some g => some { cause := 0x16, slot := some 1, i0 := BitVec.ofNat 64 g.mask.toNat }
      | none => none
    else none
  fail e _ s := s.rdvBreak e.k e.j
  post e s :=
    let s1 := s.modCore e.k fun c => c.commitSeg e.j s.now
    if (e.s.partners e.k e.j).isEmpty then s1 else s1.modCtx e.k e.j fun x => { x with rdvs := x.rdvs + 1 }
  flow e := if (e.s.partners e.k e.j).isEmpty then {} else { waits := [.rdv id.toNat (e.x.rdvs + 1)] }
def execXRdv (id : BitVec 8) (s : State) : Out := issueOne (.xRdv id) (semXRdv id) s

/-! ## Gangs (R30, R249) -/

/-- The contexts of a cluster that wait in x.gang, with their masks; those whose gang has formed in this cycle
wait no more. -/
def State.gangWaiters (s : State) (cl : Nat) : List (Nat × Nat × BitVec 8) :=
  (List.range 8).flatMap fun n => (List.range 4).filterMap fun j =>
    match (s.ctx (cl * 8 + n) j).status with
    | .blocked ws _ =>
      if (s.gangOf (cl * 8 + n) j).isSome then none
      else ws.findSome? fun w => match w with | .gang m => some (cl * 8 + n, j, m) | _ => none
    | _ => none

/-- The number of cores in a mask. -/
def maskSize (m : BitVec 8) : Nat := popN 8 m.toNat

/-- The checks of x.gang (R30, R249). -/
def gangIll (e : Env) (mask : BitVec 8) : Bool :=
  let ws := e.s.gangWaiters (clusterOf e.k)
  decide (maskSize mask < 2) || decide (4 < maskSize mask) || !mask.getLsbD (e.k % 8) ||
    (e.s.gangs.any fun g => g.members.any (·.1 == e.k)) || ws.any fun w => w.1 == e.k || w.2.2 != mask

/-- The gang forms when its last member issues x.gang: the waiting members and the issuer (R30). -/
def State.joinGang (s : State) (k j : Nat) (mask : BitVec 8) : State :=
  let ws := s.gangWaiters (clusterOf k)
  if ws.length + 1 < maskSize mask then s
  else
    let ms := ((ws.map fun w => (w.1, w.2.1)).filter (·.1 < k)) ++ [(k, j)] ++
      ((ws.map fun w => (w.1, w.2.1)).filter fun m => k < m.1)
    let g : Gang := { die := k / 256, cluster := clusterOf k % 32, mask := mask, members := ms, ended := [],
                      beatAt := none, beatRow := [], scales := [], seen := none, peers := [] }
    ms.foldl (fun s m => s.modCtx m.1 m.2 fun x => { x with rdvs := 0, ltrap := none })
      { s with gangs := s.gangs ++ [g] }

/-- x.gang (R30, R249). -/
def semXGang (mask : BitVec 8) : Sem where
  super := .exchange
  check e := if gangIll e mask then some (ill e (.xGang mask)) else none
  post e s := s.joinGang e.k e.j mask
  flow _ := { waits := [.gang mask] }
def execXGang (mask : BitVec 8) (s : State) : Out := issueOne (.xGang mask) (semXGang mask) s

/-- x.gend (R249): the gang is dissolved with its last member's x.gend. -/
def State.endGang (s : State) (k j pc : Nat) : State :=
  match s.gangOf k j with
  | none => s
  | some g =>
    let g' := { g with ended := if g.hasEnded k then g.ended else g.ended ++ [(k, s.now, pc)] }
    let rest := s.gangs.filter (· != g)
    { s with gangs := if g'.members.all fun m => g'.hasEnded m.1 then rest else rest ++ [g'] }

/-- x.gend (R249). -/
def semXGend : Sem where
  super := .exchange
  post e s := s.endGang e.k e.j e.pc
def execXGend (s : State) : Out := issueOne .xGend semXGend s

end Sys2Proof.Machine
end

