-- ==== Sys2Proof/Machine/Horizontal.lean ====
section
/-!
DEFINITION. Remote stores (R41 to R43, R246) and their landing, the failures of home channels (R319, R320), and the
counter commands and fences of the X slot (R101, R256).
-/

namespace Sys2Proof.Machine

/-! ## x.rst (R246) -/

/-- The operands of x.rst beyond their limits (R246). -/
def rstIll (e : Env) (a b c : BitVec 6) (g : Nat) : Bool :=
  let src := e.sv a
  let tgt := e.sv b
  let core := e.sv c
  let clusters := match e.x.dom with | some d => (e.s.dom d).clusters | none => 0
  decide (1024 ≤ core) || !bmHas clusters (core / 8) || decide (src % 64 ≠ 0) || decide (tgt % 64 ≠ 0) ||
    decide (spEnd < src + 64 * g) || decide (tgt < 0x100000) || decide (spEnd < tgt + 64 * g)

/-- x.rst (R246): the granules are read at issue. -/
def semXRst (cls : BitVec 2) (cc a b c : BitVec 6) (g1 : BitVec 5) : Sem :=
  semCounted (.xRst cls cc a b c g1) .exchange [a, b, c] (fun e => rstIll e a b c (g1.toNat + 1))
    (fun _ => g1.toNat + 1) fun e => [(e.sv a, 64 * (g1.toNat + 1))]
def execXRst (cls : BitVec 2) (cc a b c : BitVec 6) (g1 : BitVec 5) (s : State) : Out :=
  issueOne (.xRst cls cc a b c g1) (semXRst cls cc a b c g1) s

/-! ## The home channels and their failures (R43, R319, R320) -/

/-- Whether that entry is uncorrectable (R320). -/
def State.routeBad (s : State) (core target : Nat) : Bool :=
  let part := match s.domainOf core with | some d => (s.dom d).owner | none => 0
  s.rtBad.contains (rtIndex target part)

/-- Another home channel of a domain on a die, of those in its routes that have not failed. -/
def State.spareChan (s : State) (d die chan : Nat) : Option Nat :=
  (List.find? (fun e : Nat × RtEnt => e.2.valid && e.2.dom == d && e.1 / 64 / 256 == die &&
    e.2.chan != chan && !s.badChan.contains e.2.chan) s.rtAct).map (·.2.chan)

/-- A home channel fails: its traffic moves to another of the domain on the die, or the pending barrier has
failed (R319, R325). -/
def State.chanFail (s : State) (core d chan : Nat) : State :=
  let owner := (s.dom d).owner
  let s1 := { s with badChan := s.badChan ++ [chan] }
  let rep := fun (s : State) (w : Nat) =>
    s.fault [0, owner] 12 0 (core / 256) (BitVec.ofNat 64 chan) (BitVec.ofNat 64 d) (BitVec.ofNat 64 w)
  match s.spareChan d (core / 256) chan with
  | some c =>
    rep { s1 with rtAct := s1.rtAct.map fun e =>
      if e.2.dom = d ∧ e.2.chan = chan then (e.1, { e.2 with chan := c }) else e } 0
  | none => ((rep s1 1).barrierReport d 2 0).failBarrier d

/-- The core that a horizontal transfer goes to: the target of an x.rst; a pool slot, which is no core's, by the
own core's entry (log entry 43). -/
def Cmd.target (m : Cmd) (core : Nat) : Nat :=
  match m.ins with
  | .xRst .. => m.arg 2
  | _ => core

/-- The flit that a core has in turn fails once more: the sixteenth failure fails the channel. One that meets an uncorrectable entry is dropped and reported (R319, R320). -/
def State.flitFails (s : State) (core d target : Nat) : State :=
  let s1 := if s.routeBad core target then s.fresh.rtReport (core / 256) (rtIndex target (s.dom d).owner) false
    else s.fresh
  let fails := (s.core core).fails
  let s2 := s1.modCore core fun c => { c with fails := if 15 ≤ fails then 0 else fails + 1 }
  if 15 ≤ fails then s2.chanFail core d (s.route core target).chan else s2

/-! ## Landing (R41, R42, R319) -/

/-- A granule lands in the vat, the copy that is not selected, and sets its written bit (R41). -/
def Core.landGranule (c : Core) (a : Nat) (bs : List Byte) : Core :=
  let g := (a - 0x100000) / 64
  let vat := if g ∈ c.sel then a else a + 0x40000
  let c1 := (List.range 8).foldl (fun c i => c.fresh 1 ((vat - 0x100000) / 8 + i)) c
  { c1 with sp := c1.sp.writeBytes vat bs, written := if g ∈ c1.written then c1.written else g :: c1.written }

/-- The command of a flit that has been sent. -/
def State.flitSent (s : State) (f : Nat × Nat × Nat × Nat) : Option Cmd :=
  ((s.ctx f.1 f.2.1).cmd? f.2.2.1).filter fun m => decide (f.2.2.2 < 4 * m.sent)

/-- Whether two flits carry a granule of one core in common. -/
def State.sameGranule (s : State) (f g : Nat × Nat × Nat × Nat) : Bool :=
  match (s.ctx f.1 f.2.1).cmd? f.2.2.1, (s.ctx g.1 g.2.1).cmd? g.2.2.1 with
  | some p, some m =>
    let a := p.arg 1 / 64 + f.2.2.2
    let b := m.arg 1 / 64 + g.2.2.2
    p.arg 2 == m.arg 2 && decide (a < b + min 4 (m.n - g.2.2.2)) && decide (b < a + min 4 (p.n - f.2.2.2))
  | _, _ => false

/-- The first of a list of flits that may land: it has been sent to the core, and of those before it in the compiled
schedule none that the same core has sent, and none with a granule in common, is still to land (R42, R319). -/
def State.landFirst (s : State) (core : Nat) (before : List (Nat × Nat × Nat × Nat)) :
    List (Nat × Nat × Nat × Nat) → Option ((Nat × Nat × Nat × Nat) × Cmd)
  | [] => none
  | f :: fs => match (s.flitSent f).filter fun m =>
      m.arg 2 == core && before.all fun g => !(g.1 == f.1 && (s.flitSent g).isSome) && !s.sameGranule g f with
    | some m => some (f, m)
    | none => State.landFirst s core (before ++ [f]) fs

/-- The flit that lands next at a core: landings of one sender follow its order, and those of a granule that of the
compiled schedule, whatever had to be sent again (R42, R319). -/
def State.landNext (s : State) (core : Nat) : Option (Nat × (Nat × Nat × Nat × Nat) × Cmd) :=
  (s.domainOf core).bind fun d => (s.landFirst core [] (s.dom d).flits).map fun p => (d, p.1, p.2)

/-- The landing of a flit: up to four granules; the command completes with its last (R246). -/
def State.land (s : State) (core d : Nat) (f : Nat × Nat × Nat × Nat) (m : Cmd) : State :=
  let n := min 4 (m.n - f.2.2.2)
  let s1 := s.modCore core fun c => (List.range n).foldl (fun c i =>
    let q := f.2.2.2 + i
    c.landGranule (m.arg 1 + 64 * q) ((m.data.drop (64 * q)).take 64)) c
  let s2 := (s1.modDom d fun x => { x with flits := x.flits.erase f }).barrierFrom (some d)
  let m' := { m with i := m.i + n }
  let s2 := s2.modCtx f.1 f.2.1 fun x => x.loadsBefore (orderClass m.ins) m.t
  if m'.n ≤ m'.i then s2.finishCmd f.1 f.2.1 m' else s2.setCmd f.1 f.2.1 m'

/-- Whether a bank lock of the target queues a landing (R69). -/
def Core.landHeld (c : Core) (f : Nat × Nat × Nat × Nat) (m : Cmd) : Bool :=
  match c.lock with
  | none => false
  | some l => (List.range (min 4 (m.n - f.2.2.2))).any fun i =>
      l.mask.getLsbD ((m.arg 1 + 64 * (f.2.2.2 + i)) / 2048 % 32)

/-- RST_LANDING (R41, R69, R319). -/
def execRstLanding (core : Nat) (s : State) : Out :=
  match s.landNext core with
  | none => .refused (.notEnabled "RST_LANDING")
  | some (d, f, m) => happen (!(s.core core).landHeld f m) "RST_LANDING" (s.land core d f m)

/-! ## Completion counters (R256) -/

/-- x.cwait (R256): an engine wait. -/
def semXCwait (cc : BitVec 6) (n : BitVec 24) : Sem where
  flow e := if n.toNat ≤ (e.x.counter cc.toNat).toNat then {} else { waits := [.cwait cc.toNat n.toNat] }
def execXCwait (cc : BitVec 6) (n : BitVec 24) (s : State) : Out := issueOne (.xCwait cc n) (semXCwait cc n) s

/-- x.cpoll (R256): latency 2. -/
def semXCpoll (cc a : BitVec 6) (n : BitVec 24) : Sem where
  eff e s := putRes e (.sreg a.toNat) (boolW (decide (n.toNat ≤ (e.x.counter cc.toNat).toNat))) 2 1 s
def execXCpoll (cc a : BitVec 6) (n : BitVec 24) (s : State) : Out := issueOne (.xCpoll cc a n) (semXCpoll cc a n) s

/-- Sets a counter; a gang counter in every member (R256, R241). -/
def State.setCc (s : State) (k j cc : Nat) (v : W32) : State :=
  let put := fun x : Ctx => { x with cc := AMap.set x.cc cc v }
  match s.gangOf k j with
  | some g => if 48 ≤ cc then g.members.foldl (fun s m => s.modCtx m.1 m.2 put) s else s.modCtx k j put
  | none => s.modCtx k j put

/-- x.cset (R256): seen from t + 1. -/
def semXCset (cc : BitVec 6) (v : BitVec 24) : Sem where
  post e s := s.setCc e.k e.j cc.toNat (v.zeroExtend 32)
def execXCset (cc : BitVec 6) (v : BitVec 24) (s : State) : Out := issueOne (.xCset cc v) (semXCset cc v) s

/-! ## x.fence (R101) -/

/-- x.fence (R101): it never blocks the context. Its loads, of every class, are performed with it. -/
def semXFence (cc : BitVec 6) (kind : BitVec 2) (scope : BitVec 3) : Sem :=
  let q := semCounted (.xFence cc kind scope) .both [] (fun _ => false) (fun _ => 0) fun _ => []
  { q with post := fun e s => s.modCtx e.k e.j Ctx.loadsDone }
def execXFence (cc : BitVec 6) (kind : BitVec 2) (scope : BitVec 3) (s : State) : Out :=
  issueOne (.xFence cc kind scope) (semXFence cc kind scope) s

/-- Whether the condition of a fence holds for the earlier accesses: every one, or every read, performed
at the scope (R94, R101). -/
def State.fenced (s : State) (k j : Nat) (m : Cmd) (kind : BitVec 2) (scope : BitVec 3) : Bool :=
  let x := s.ctx k j
  let acq := kind == 2
  decide (m.t < s.now) &&
    ((x.cmds.filter fun p => decide (p.seq < m.seq) && p.covered m).all fun p => (s.rest k x.vi p).all fun a => acq && !a.rd) &&
    (acq || !((s.core k).stq.any fun st => st.ctx == j && decide (st.t ≤ m.t))) &&
    (acq || scope != 5 || s.unacc.isEmpty)

end Sys2Proof.Machine
end

