-- ==== Sys2Proof/Machine/Tasks.lean ====
section
/-!
DEFINITION. Tasks on a core: admission and release (R20 to R23, R261, R347), readiness and the selector
(R25 to R27), the tile dispenser (R28, R29, R257), x.yield and x.halt, and the delivery of stores and
results (R95, R131).
-/

namespace Sys2Proof.Machine

/-! ## Yield, halt and next tile -/

/-- x.yield (R26, R261). -/
def semXYield : Sem where
  flow _ := { yield := true }
def execXYield (s : State) : Out := issueOne .xYield semXYield s

/-- x.halt (R261, R303): in a handler it drops the stopped commands. -/
def semXHalt : Sem where
  post e s := s.haltCtx e.k e.j e.x.inTrap
  flow _ := { halt := true }
def execXHalt (s : State) : Out := issueOne .xHalt semXHalt s

/-- x.ntile (R29, R257): the rotation register gets the coordinate for bundle b + 12. -/
def semXNtile : Sem where
  check e := if !e.x.persist || decide (4 ≤ e.x.ntiles.length) then some (ill e .xNtile) else none
  eff e s := s.modCtx e.k e.j fun x =>
    { x with rot := (x.rot + 1) % 4,
             ntiles := x.ntiles ++ [{ reg := 56 + x.rot, bundle := x.bundles, asked := s.now, val := none,
                                      here := false }] }
def execXNtile (s : State) : Out := issueOne .xNtile semXNtile s

/-- The coordinate of a linear index of a grid; the null coordinate beyond it (R19, R28). -/
def tileAt (l : Launch) (n : Nat) : W64 :=
  if n < l.gx * l.gy * l.gz then
    BitVec.ofNat 64 (n % l.gx + n / l.gx % l.gy * 65536 + n / l.gx / l.gy * 2 ^ 32)
  else BitVec.allOnes 64

/-- The first request of a context that the dispenser has not served. -/
def Ctx.unserved (x : Ctx) (now : Nat) : Bool := x.ntiles.any fun t => t.val.isNone && decide (t.asked < now)

/-- Answers the first unserved request. -/
def answer (v : W64) : List Ntile → List Ntile
  | [] => []
  | t :: ts => if t.val.isNone then { t with val := some v } :: ts else t :: answer v ts

/-- Whether the dispenser of a launch serves a context next: its oldest request arrived before, or with and from a
lower core or context than, any other (R28). A request arrives in the cycle of its x.ntile (log entry 98). -/
def State.firstAsked (s : State) (k j : Nat) : Bool :=
  let oldest := fun x : Ctx => (x.ntiles.find? (·.val.isNone)).map (·.asked)
  match oldest (s.ctx k j) with
  | none => false
  | some t => s.ctxList.all fun p =>
      p.2.2.launch != (s.ctx k j).launch || match oldest p.2.2 with
        | none => true
        | some u => decide (t < u) || (t == u && (decide (k < p.1) || (k == p.1 && decide (j ≤ p.2.1))))

/-- The dispenser serves the oldest request of a context (R28). -/
def State.dispense (s : State) (k j : Nat) : State :=
  match AMap.find? s.launches (s.ctx k j).launch with
  | none => s.modCtx k j fun x => { x with ntiles := answer (BitVec.allOnes 64) x.ntiles }
  | some l =>
    ({ s with launches := AMap.set s.launches (s.ctx k j).launch { l with next := l.next + 1 } }).modCtx k j
      fun x => { x with ntiles := answer (tileAt l l.next) x.ntiles }

/-- Serves the requests of a launch in their order until a context has none left, each step one request (R28). -/
def State.serveUpTo (s : State) (k j : Nat) : Nat → State
  | 0 => s
  | n + 1 =>
    if !(s.ctx k j).ntiles.any (·.val.isNone) then s
    else match s.ctxList.find? fun p => p.2.2.launch == (s.ctx k j).launch && s.firstAsked p.1 p.2.1 with
      | none => s
      | some p => State.serveUpTo (s.dispense p.1 p.2.1) k j n

/-- NTILE_DISPENSE (R28). -/
def execNtileDispense (core ctx : Nat) (s : State) : Out :=
  happen ((s.ctx core ctx).unserved s.now && s.firstAsked core ctx) "NTILE_DISPENSE" (s.dispense core ctx)

/-- The first answer that has not reached the core reaches it. -/
def arriveTile : List Ntile → List Ntile
  | [] => []
  | t :: ts => if t.val.isSome && !t.here then { t with here := true } :: ts else t :: arriveTile ts

/-- NTILE_DELIVER (R29). -/
def execNtileDeliver (core ctx : Nat) (s : State) : Out :=
  happen ((s.ctx core ctx).ntiles.any fun t => t.val.isSome && !t.here) "NTILE_DELIVER"
    (s.modCtx core ctx fun x => { x with ntiles := arriveTile x.ntiles })

/-! ## Stores and results -/

/-- Whether the oldest store of a core has committed (R95). In test mode the raw port, the only reader that can
tell, sees it from the cycle after (R338; log entry 111). -/
def Core.storeDue (c : Core) (now : Nat) : Option Store :=
  match c.stq with
  | [] => none
  | st :: _ => if st.t + (if c.smode = 2 then 3 else 2) ≤ now then some st else none

/-- Full writes of 8-byte words end their errors (R293). -/
def Core.freshMem (c : Core) (a n : Nat) : Core :=
  (List.range (n / 8)).foldl (fun c i => let r := c.spRow (a + 8 * i); c.fresh r.1 r.2) c

/-- The commit of a store: it drops out of the store queue and its bytes go into the block (R54, R95,
R293). -/
def Core.commitStore (c : Core) (st : Store) : Core :=
  let c1 := { c with stq := c.stq.drop 1 }
  if c1.poisoned (st.addr / 2048) then c1
  else (c1.spWrite st.addr st.data).freshMem st.addr st.data.length

/-- Whether an X command of the context that is independent of a store, of its bundle or a later one, may yet come
before it: the store then commits in its cycle, in no fixed order with the engines' steps (R97; log entry 110). -/
def Core.defers (c : Core) (st : Store) : Bool :=
  (c.ctx st.ctx).cmds.any fun m => decide (st.t ≤ m.t) && indep st.cls (orderClass m.ins)

/-- STORE_COMMIT (R95). -/
def execStoreCommit (core : Nat) (s : State) : Out :=
  match (s.core core).storeDue s.now with
  | none => .refused (.notEnabled "STORE_COMMIT")
  | some st => .next (s.modCore core fun c => c.commitStore st)

/-- The result of a context that is delivered next: of those whose cycle has come, the one with the least
t + L, in issue order (R131). -/
def Ctx.resultDue (x : Ctx) (now : Nat) : Option Pend :=
  match x.pend.filter fun p => decide (p.at_ ≤ now) with
  | [] => none
  | p :: ps => some (ps.foldl (fun m q => if q.due < m.due ∨ (q.due = m.due ∧ q.ord < m.ord) then q else m) p)

/-- Whether results of a context stay in its snapshot buffer: from its freeze to a resume (R46, R48). -/
def State.snapped (s : State) (x : Ctx) : Bool :=
  x.frozen.isSome && match x.dom with
    | some d => (s.dom d).origin.isNone
    | none => true

/-- RESULT_DELIVER (R131). -/
def execResultDeliver (core ctx : Nat) (s : State) : Out :=
  match (if s.snapped (s.ctx core ctx) then none else (s.ctx core ctx).resultDue s.now) with
  | none => .refused (.notEnabled "RESULT_DELIVER")
  | some p => .next (s.modCore core fun c => c.deliver ctx s.now p)

/-! ## Admission (R20 to R22, R347) -/

/-- Banks that no resident context holds, lowest first (R20, R140: which ones, a program cannot see). -/
def freeBanks (c : Core) (n : Nat) (f : Ctx → List Nat) : List Nat :=
  let used := c.residents.flatMap fun j => f (c.ctx j)
  (List.range n).filter fun b => !used.contains b

/-- Accumulator banks that no resident context holds: one that parked registers reserve counts as granted
(R137). -/
def freeAccs (c : Core) : List Nat :=
  (freeBanks c 4 (·.accMap)).filter fun b => !c.spill.any fun p => p.bank == b

/-- Whether a task's context and footprint fit beside the resident tasks (R20, conditions 1 and 2). -/
def Core.fits (c : Core) (t : Task) : Bool :=
  !(c.ctx t.ctx).resident &&
    decide (t.va ≤ (freeBanks c 16 (·.vaMap)).length) && decide (t.vb ≤ (freeBanks c 16 (·.vbMap)).length) &&
    decide (t.acc ≤ (freeAccs c).length)

/-- The interface and image of a launch. -/
def State.imageOf (s : State) (l : Nat) : Nat × Nat :=
  match AMap.find? s.launches l with
  | some x => (x.vi, x.image)
  | none => (0, 0)

/-- Whether the head of a core's queue meets the conditions of R20 and its domain admits tasks (R46, R47); no
other context joins one in test mode (R337). -/
def State.headFits (s : State) (core : Nat) : Option Task :=
  let c := s.core core
  match c.queue with
  | [] => none
  | t :: _ =>
    let d := (AMap.find? s.launches t.launch).map (·.dom)
    let x := s.dom (d.getD 0)
    if c.fits t && (c.residents = [] || (c.image == some (s.imageOf t.launch) && !t.pair)) &&
        !x.pend && !x.saving && !x.saved && !c.heldB && c.smode != 2 then some t else none

/-- Whether a core admits its next task; the tasks of a pair are admitted together (R22). -/
def State.admitDue (s : State) (core : Nat) : Option Task :=
  match s.headFits core with
  | none => none
  | some t =>
    if !t.pair then some t
    else match s.headFits t.partner with
      | some u => if u.launch = t.launch ∧ u.partner = core then some t else none
      | none => none

/-- The bytes of an image, or the first block that cannot be read (R21, R22, R347). -/
def State.imageBytes (s : State) (vi addr : Nat) : Nat → Except Nat (List Byte)
  | 0 => .ok []
  | n + 1 =>
    match s.translate vi addr false with
    | .error _ => .error addr
    | .ok p =>
      let b := s.getBlk p.key p.die p.dfn p.blk
      if b.sb.state = .poisoned ∨ s.lostBlock p then .error addr
      else match State.imageBytes s vi (addr + 2048) n with
        | .ok bs => .ok ((List.range 2048).map b.byte ++ bs)
        | .error a => .error a

/-- A core on which an image cannot be loaded: every task of the launch there is released without issuing,
with a report (R347). -/
def State.barTasks (s : State) (core l addr : Nat) : State :=
  match AMap.find? s.launches l with
  | none => s
  | some x =>
    let c := s.core core
    let n := (c.queue.filter (·.launch == l)).length
    let s1 := s.setCore core { c with queue := c.queue.filter (·.launch != l) }
    let x' := { x with left := x.left - n, barred := x.barred ++ [core] }
    let s2 := { s1 with launches := AMap.set s1.launches l x' }
    s2.record x.vi 1 [recW0 4 0x0E 0 x.tag, BitVec.ofNat 64 core, BitVec.ofNat 64 addr]

/-- The instruction scratchpad with an image in half I0 and, where the interface has one, its handler
(R21, R22). -/
def Core.loadImage (c : Core) (i0 h : List Byte) (vec : Nat) (t : Task) (img : Nat × Nat) : Core :=
  let m0 := c.iq.foldl (fun m st => m.writeBytes st.addr st.data) c.imem
  let m1 := (m0.clear 0 0x8000).writeBytes 0 i0
  let m2 := if vec = 0 then m1 else (m1.clear vec (0x10000 - vec)).writeBytes vec h
  let lost := fun f : Flip => f.array == 5 && (decide (f.row < 4096) || (decide (vec ≠ 0) && decide (vec / 8 ≤ f.row)))
  { c with imem := m2, iq := [], vec := vec, pair := t.pair, partner := if t.pair then t.partner else 0,
           image := some img, flips := c.flips.filter fun f => !lost f }

/-- The start of a task (R21, R36). -/
def startCtx (l : Launch) (t : Task) (va vb acc : List Nat) (dom : Domain) (now : Nat) : Ctx :=
  { status := if dom.ctr.getLsbD 0 then .held else .ready, since := now, pc := t.entry, lastHdr := t.entry,
    priv := false,
    s := (([(56, if t.persist then BitVec.allOnes 64 else t.coord), (57, BitVec.allOnes 64),
            (58, BitVec.allOnes 64), (59, BitVec.allOnes 64)] : List (Nat × W64)).foldl
              (fun m p => AMap.set m p.1 p.2) [(0, l.arg)]),
    vaMap := va, vbMap := vb, accMap := acc, persist := t.persist, phase := dom.ctr, dom := some l.dom,
    launch := t.launch, tag := l.tag, vi := l.vi }

/-- Registers and banks of a footprint start at zero (R21). -/
def Core.zeroFoot (c : Core) (va vb acc : List Nat) : Core :=
  let has := fun (bs : List Nat) (e : Nat × VReg) => !bs.contains (e.1 / 64)
  { c with va := c.va.filter (has va), vb := c.vb.filter (has vb),
           accs := acc.foldl (fun m b => AMap.set m b {}) c.accs,
           flips := c.flips.filter fun f =>
             !((f.array == 2 && va.contains (f.row / 1024)) || (f.array == 3 && vb.contains (f.row / 1024)) ||
               (f.array == 10 && acc.contains (f.row / 512))) }

/-- Puts a task into its context. -/
def State.placeTask (s : State) (core : Nat) (t : Task) : State :=
  match AMap.find? s.launches t.launch with
  | none => s.modCore core fun c => { c with queue := c.queue.drop 1 }
  | some l =>
    s.modCore core fun c =>
      let va := (freeBanks c 16 (·.vaMap)).take t.va
      let vb := (freeBanks c 16 (·.vbMap)).take t.vb
      let acc := (freeAccs c).take t.acc
      let c1 := { c.zeroFoot va vb acc with
        queue := c.queue.drop 1,
        flips := (c.zeroFoot va vb acc).flips.filter fun f =>
          !((f.array == 6 && f.row / 64 == t.ctx) || (f.array == 7 && f.row / 32 == t.ctx) ||
            ((f.array == 8 || f.array == 9) && f.row / 1024 == t.ctx) || (f.array == 11 && f.row / 32 == t.ctx) ||
            (f.array == 12 && f.row / 16 == t.ctx)) }
      let idle := c.residents.isEmpty
      (if idle then { c1 with run := some t.ctx, issueAt := max c1.issueAt (s.now + 1) } else c1).setCtx t.ctx
        (startCtx l t va vb acc (s.dom l.dom) s.now)

/-- Admits a task on a core: the images of the first one are loaded before it issues (R21, R22, R347), and again
where a later one finds the core without a resident context (log entry 102). -/
def State.admitOn (s : State) (core : Nat) (t : Task) : State :=
  match AMap.find? s.launches t.launch with
  | none => s.placeTask core t
  | some l =>
    if (s.core core).residents ≠ [] then s.placeTask core t
    else
      let v := s.vi l.vi
      let vec := bitsOf v.hdVec 0 16
      let s := s.seeBlocks l.vi l.image 32768
      match s.imageBytes l.vi l.image 16 with
      | .error a => s.barTasks core t.launch a
      | .ok i0 =>
        if vec = 0 then (s.modCore core fun c => c.loadImage i0 [] 0 t (l.vi, l.image)).placeTask core t
        else
          let off := vec - 0x8000
          let first := off / 2048
          let s := s.seeBlocks 0 (v.hdBase.toNat + off) (0x8000 - off)
          match s.imageBytes 0 (v.hdBase.toNat + first * 2048) (16 - first) with
          | .error a => s.barTasks core t.launch a
          | .ok h =>
            (s.modCore core fun c => c.loadImage i0 (h.drop (off % 2048)) vec t (l.vi, l.image)).placeTask core t

/-- TASK_ADMIT (R20, R22). -/
def execTaskAdmit (core : Nat) (s : State) : Out :=
  match s.admitDue core with
  | none => .refused (.notEnabled "TASK_ADMIT")
  | some t =>
    .next (
      let s1 := s.admitOn core t
      if t.pair then
        match (s1.core t.partner).queue with
        | u :: _ => s1.admitOn t.partner u
        | [] => s1
      else s1)

/-! ## Release (R13, R261) -/

/-- Whether a halted context has nothing outstanding (R261). -/
def State.releaseDue (s : State) (k j : Nat) : Bool :=
  let x := s.ctx k j
  x.status == .halted && x.cmds.isEmpty && x.pend.isEmpty && x.frozen.isNone && decide (x.mxDue ≤ s.now) &&
    !(s.core k).stq.any fun st => st.ctx == j

/-- One task of a launch fewer. -/
def State.lessTask (s : State) (l : Nat) : State :=
  match AMap.find? s.launches l with
  | none => s
  | some x => { s with launches := AMap.set s.launches l { x with left := x.left - 1 } }

/-- Frees a context: its monitor is disarmed and its coordinates are discarded (R261); requests that the
dispenser has not served are served to nobody, in their turn (R28, R257; log entry 57). The release counts in T (R39; log entry 106). -/
def State.freeCtx (s : State) (k j : Nat) : State :=
  let x := s.ctx k j
  let s1 := if x.ntiles = [] then s else s.serveUpTo k j (s.ctxList.map fun p => p.2.2.ntiles.length).sum
  let s2 := (s1.loseMember k j).modCore k fun c =>
    let c1 : Core := { c with spill := c.spill.filter (fun p => p.ctx != j),
                              lock := if c.lock.map (fun l => l.ctx) = some j then none else c.lock,
                              run := if c.run = some j ∧ !c.othersReady j then none else c.run,
                              leave := c.leave && !(decide (c.run = some j) && !c.othersReady j) }
    c1.setCtx j {}
  (s2.lessTask x.launch).barrierFrom x.dom

/-- The boot contexts that are still to halt (R334). -/
def State.bootLeft (s : State) : Bool :=
  (s.coreDef.ctx 0).resident && decide (s.cores.length < 1024) ||
    s.ctxList.any fun p => p.2.2.dom.isNone && p.2.2.resident

/-- The clusters that hold a core whose status word counts an unrepaired extent (R334, R341). -/
def State.badClusters (s : State) : BitVec 128 :=
  (List.range 1024).foldl (fun b k =>
    let w := BitVec.ofNat 64 (leNat ((List.range 8).map fun i => (s.core k).spByte (0xFFFF8 + i)))
    if bitsOf w 32 8 ≠ 0 then b ||| (1 <<< (k / 8)) else b) 0

/-- Step 8 of R334: clusters that failed are left out of every grant, and the host link opens. -/
def State.openLink (s : State) : State :=
  let bad := s.badClusters
  { s with vis := s.vis.map fun v => (v.1, { v.2 with grant := v.2.grant &&& ~~~bad }), stage := 2 }

/-- TASK_RELEASE (R13, R36, R261, R334). -/
def execTaskRelease (core ctx : Nat) (s : State) : Out :=
  happen (s.releaseDue core ctx) "TASK_RELEASE"
    (let s1 := s.freeCtx core ctx
     if s1.stage = 1 ∧ !s1.bootLeft then s1.openLink else s1)

/-- LAUNCH_COMPLETE (R15): every task of the launch has been released. -/
def State.launchDue (s : State) (l : Nat) : Bool :=
  match AMap.find? s.launches l with
  | some x => x.left == 0
  | none => false

def State.completeLaunch (s : State) (l : Nat) : State :=
  match AMap.find? s.launches l with
  | none => s
  | some x => { s with launches := AMap.erase s.launches l }.doneCmd x.vi x.stream x.tag x.notify

/-- LAUNCH_COMPLETE (R15). -/
def execLaunchComplete (launch : Nat) (s : State) : Out :=
  happen (s.launchDue launch) "LAUNCH_COMPLETE" (s.completeLaunch launch)

/-! ## Readiness and the selector (R25, R26, R296) -/

/-- Whether the condition of an engine wait holds (R25). -/
def State.waitMet (s : State) (k j : Nat) (w : Wait) : Bool :=
  let c := s.core k
  let x := c.ctx j
  match w with
  | .rwe r n => decide (n ≤ (c.ring r).open_)
  | .rwf r n => decide (n ≤ (c.ring r).filled)
  | .mwait => match x.mon with
    | .none => true
    | .fired => true
    | _ => false
  | .cwait cc n => decide (n ≤ (x.counter cc).toNat)
  | .cycle t => decide (t ≤ s.now)
  | .phase => false
  | .rdv _ n => (s.partners k j).all fun p => decide (n ≤ (s.ctx p.1 p.2).rdvs)
  | .gang mask => match s.gangOf k j with
    | some g => g.mask == mask
    | none => false
  | .ntile => (x.ntileDue x.bundles).isSome
  | .mates ms => ms.all fun m => ((s.ctx m.1 m.2).ntileDue (s.ctx m.1 m.2).bundles).isSome

/-- The waits of a context that are over at the end of a cycle fall away; passing x.mwait consumes the
monitor (R253). -/
def State.checkWaits (s : State) (k j : Nat) (x : Ctx) : Ctx :=
  match x.status with
  | .blocked ws on =>
    if x.frozen.isSome then x
    else
      let left := ws.filter fun w => !s.waitMet k j w
      let mon := if ws.contains .mwait && !left.contains .mwait then .none else x.mon
      { x with status := .blocked left on, mon := mon }
  | _ => x

/-- Whether a context has no wait left. -/
def Ctx.waitless (x : Ctx) : Bool :=
  match x.status with
  | .blocked ws _ => ws.isEmpty && x.frozen.isNone
  | .ready => x.frozen.isNone
  | _ => false

/-- Contexts whose waits are over become ready in the next cycle; a redundant pair only together. -/
def State.markWake (s : State) (k j : Nat) (x : Ctx) : Ctx :=
  let mate := match s.pairOf k j with
    | some p => (s.ctx p.1 p.2).waitless
    | none => true
  { x with wake := x.waitless && !x.isReady && mate }

/-- Maps every listed context. -/
def State.mapCtxs (s : State) (f : Nat → Nat → Ctx → Ctx) : State :=
  { s with cores := s.cores.map fun kc =>
      (kc.1, { kc.2 with ctxs := kc.2.ctxs.map fun jx => (jx.1, f kc.1 jx.1 jx.2) }) }

/-- CONTEXT_READY (R25). -/
def execContextReady (core ctx : Nat) (s : State) : Out :=
  happen (s.ctx core ctx).wake "CONTEXT_READY"
    (s.modCore core fun c =>
      let x := c.ctx ctx
      match x.status with
      | .blocked _ on => (c.setCtx ctx { (x.goOn on) with wake := false, since := s.now }).freshRows (x.goRows ctx on)
      | _ => c.setCtx ctx { x with wake := false })

/-- Whether a context can be selected. -/
def Ctx.selectable (x : Ctx) : Bool := x.isReady && x.frozen.isNone

/-- The ready context that has been ready the longest, other than the one leaving; ties go to the lower
number (R26). -/
def Core.choose (c : Core) : Option Nat :=
  match (List.range 4).filter fun i => c.run != some i && (c.ctx i).selectable with
  | [] => none
  | i :: is => some (is.foldl (fun a b => if (c.ctx b).since < (c.ctx a).since then b else a) i)

/-- Whether the running context must leave because it is not ready or has yielded. -/
def Core.mustLeave (c : Core) : Bool :=
  c.leave || match c.run with
    | none => true
    | some j => !(c.ctx j).selectable

/-- Whether the running context has issued 4,096 bundles beside another ready one, and holds no lock (R26). -/
def Core.overdue (c : Core) : Bool :=
  match c.run with
  | none => false
  | some j => decide (4096 ≤ (c.ctx j).counted) && (c.lock.map (·.ctx)) != some j

/-- The switch: two cycles without a bundle; the leaving context is the youngest of the ready ones (R26). -/
def Core.switch (c : Core) (now : Nat) : Core :=
  match c.choose with
  | none => { c with swap := false }
  | some j =>
    let c1 := match c.run with
      | some i => if (c.ctx i).isReady then c.setCtx i { c.ctx i with since := now } else c
      | none => c
    let c2 := c1.setCtx j { c1.ctx j with counted := 0 }
    { c2 with run := some j, leave := false, swap := false, issueAt := max c.issueAt (now + 2) }

/-- CONTEXT_SWITCH (R26). -/
def execContextSwitch (core : Nat) (s : State) : Out :=
  let c := s.core core
  happen (c.swap && c.mustLeave && c.choose.isSome) "CONTEXT_SWITCH" (s.setCore core (c.switch s.now))

/-- FORCED_SWITCH (R26). -/
def execForcedSwitch (core : Nat) (s : State) : Out :=
  let c := s.core core
  happen (c.swap && !c.mustLeave && c.overdue && c.choose.isSome) "FORCED_SWITCH"
    (s.setCore core (c.switch s.now))

/-- Whether the selector acts at the start of the next cycle: not in cycles that a transfer, a fence or the entry
of a handler loses (R182, R287). -/
def Core.markSwap (c : Core) (next : Nat) : Core :=
  let soon := fun i => (c.ctx i).selectable || (c.ctx i).wake
  let others := (List.range 4).any fun i => c.run != some i && soon i
  let stays := !c.leave && match c.run with
    | some j => soon j
    | none => false
  { c with swap := others && (!stays || c.overdue) && decide (c.issueAt ≤ next), leave := c.leave && others }

/-- Members of a forced save that have not arrived freeze at a bundle boundary outside loops and locks
(R316). -/
def State.freezeLate (s : State) (k j : Nat) (x : Ctx) : Ctx :=
  match x.dom with
  | none => x
  | some d =>
    if (s.dom d).saving && (s.dom d).forced && x.resident && x.loop.isNone &&
        ((s.core k).lock.map (·.ctx)) != some j then x.freeze s.now
    else x

/-- The end of a cycle: waits that are over, freezes that are due, and what the next cycle starts with. -/
def State.tick (s : State) : State :=
  let s1 := s.mapCtxs s.checkWaits
  let s2 := s1.mapCtxs s1.freezeLate
  let s3 := s2.mapCtxs s2.markWake
  { s3 with cores := s3.cores.map fun kc => (kc.1, kc.2.markSwap (s.now + 1)), now := s.now + 1,
            gangs := s3.gangs.filter (·.members ≠ []) }

end Sys2Proof.Machine
end

