-- ==== Sys2Proof/Machine/Cleat.lean ====
section
/-!
DEFINITION. The Cleat: atomics, vector atomics, reductions and monitors (R102, R103, R250 to R253, R304).
-/

namespace Sys2Proof.Machine

/-! ## The commands at issue -/

/-- x.amo (R250). -/
def semXAmo (cls : BitVec 2) (mark : Mark) (cc a b c d : BitVec 6) (fn : BitVec 4) (res : Bool) : Sem :=
  semCounted (.xAmo cls mark cc a b c d fn res) .both (if fn = 9 then [a, b, c] else if fn = 10 then [a] else [a, b])
    (fun e => decide (e.sv a % 8 ≠ 0) || decide (2 ^ 52 ≤ e.sv a)) (fun _ => 1) fun _ => []
def execXAmo (cls : BitVec 2) (mark : Mark) (cc a b c d : BitVec 6) (fn : BitVec 4) (res : Bool) (s : State) : Out :=
  issueOne (.xAmo cls mark cc a b c d fn res) (semXAmo cls mark cc a b c d fn res) s

/-- x.amov (R251): list, operands and results lie in working slots. -/
def semXAmov (cls : BitVec 2) (mark : Mark) (cc a b c d : BitVec 6) (fn : BitVec 4) (res : Bool) (c1 : BitVec 5) : Sem :=
  semCounted (.xAmov cls mark cc a b c d fn res c1) .both
    ([a, b] ++ (if fn = 10 then [] else [c]) ++ (if res then [d] else []))
    (fun e => decide (e.sv a % 8 ≠ 0) || decide (2 ^ 52 ≤ e.sv a) || !goodDesc (e.x.rdS b.toNat) 128 ||
      (fn != 10 && !goodDesc (e.x.rdS c.toNat) 256) || (res && !goodDesc (e.x.rdS d.toNat) 256))
    (fun _ => c1.toNat + 1)
    fun e => (e.sv b, 128) :: (if fn = 10 then [] else [(e.sv c, 256)])
def execXAmov (cls : BitVec 2) (mark : Mark) (cc a b c d : BitVec 6) (fn : BitVec 4) (res : Bool) (c1 : BitVec 5)
    (s : State) : Out :=
  issueOne (.xAmov cls mark cc a b c d fn res c1) (semXAmov cls mark cc a b c d fn res c1) s

/-- The element width of x.redm (R252). -/
def redWidth (fmt : BitVec 3) : Nat := if fmt = 1 then 2 else 4

/-- x.redm (R252): the source is read at issue. -/
def semXRedm (cls : BitVec 2) (mark : Mark) (cc a b : BitVec 6) (op : BitVec 2) (fmt : BitVec 3) (n1 : BitVec 10) : Sem :=
  let w := redWidth fmt
  semCounted (.xRedm cls mark cc a b op fmt n1) .both [a, b]
    (fun e => decide (e.sv a % w ≠ 0) || decide (2 ^ 52 ≤ e.sv a) || decide (e.sv b % w ≠ 0) ||
      decide (spEnd < e.sv b + w * (n1.toNat + 1)))
    (fun _ => n1.toNat + 1) fun e => [(e.sv b, w * (n1.toNat + 1))]
def execXRedm (cls : BitVec 2) (mark : Mark) (cc a b : BitVec 6) (op : BitVec 2) (fmt : BitVec 3) (n1 : BitVec 10)
    (s : State) : Out :=
  issueOne (.xRedm cls mark cc a b op fmt n1) (semXRedm cls mark cc a b op fmt n1) s

/-- x.mon (R253): it disarms the previous monitor at issue. -/
def semXMon (cls : BitVec 2) (mark : Mark) (cc a b : BitVec 6) : Sem :=
  let q := semCounted (.xMon cls mark cc a b) .both [a, b]
    (fun e => decide (e.sv a % 8 ≠ 0) || decide (2 ^ 52 ≤ e.sv a)) (fun _ => 1) fun _ => []
  { q with eff := fun e s =>
      (q.eff e s).modCtx e.k e.j fun x => { x with mon := .waiting, monSeq := e.x.cmdSeq } }
def execXMon (cls : BitVec 2) (mark : Mark) (cc a b : BitVec 6) (s : State) : Out :=
  issueOne (.xMon cls mark cc a b) (semXMon cls mark cc a b) s

/-- x.mwait (R253): passing consumes the monitor; a context that waits passes when it has fired. -/
def semXMwait : Sem where
  post e s := s.modCtx e.k e.j fun x => if x.mon = .fired then { x with mon := .none } else x
  flow e := if e.x.mon = .none ∨ e.x.mon = .fired then {} else { waits := [.mwait] }
def execXMwait (s : State) : Out := issueOne .xMwait semXMwait s

/-! ## One word (R102, R250) -/

/-- The value that an atomic writes; none when it writes nothing (R250). -/
def amoNew (fn : Nat) (old v c : W64) : Option W64 :=
  match fn with
  | 0 => some (old + v)
  | 1 => some (old &&& v)
  | 2 => some (old ||| v)
  | 3 => some (old ^^^ v)
  | 4 => some (if v.slt old then v else old)
  | 5 => some (if old.slt v then v else old)
  | 6 => some (if v < old then v else old)
  | 7 => some (if old < v then v else old)
  | 8 => some v
  | 9 => if old = c then some v else none
  | 10 => none
  | _ => some v

/-- The step of a Cleat operation at a translated word. An address that does not translate, a poisoned
block, and what the command read poisoned at issue stop it (R300, R301). -/
def State.cleatStep (s0 : State) (k j : Nat) (m : Cmd) (addr : Nat) (write : Bool)
    (act : State → Phys → Block → State) : State :=
  let vi := (s0.ctx k j).vi
  let s := s0.seeEntry vi addr
  if m.src ≠ 0 then s.stopCmd k j m m.src addr
  else match s.translate vi addr write with
    | .error f => s.noWay k j m addr f
    | .ok p =>
      let s1 := s.fillTlb vi addr
      let b := s1.getBlk p.key p.die p.dfn p.blk
      if b.sb.state = .poisoned then s1.stopCmd k j m 0x0E addr
      else if s1.lostBlock p then (s1.loseBlock vi p).stopCmd k j m 0x0E addr
      else
        (act (s1.correctAt p) p b).heat p.die p.dfn

/-- The word of a block that holds a byte. -/
def wordOf (b : Block) (off : Nat) : W64 :=
  BitVec.ofNat 64 (leNat ((List.range 8).map fun i => b.byte (off / 8 * 8 + i)))

/-! ## x.amo and x.amov (R250, R251, R304) -/

/-- Function, address, operand, compare value and whether there is a result, of the element of an atomic
command. -/
def Cmd.atom (m : Cmd) : Option (Nat × Nat × W64 × W64 × Bool) :=
  match m.ins with
  | .xAmo _ _ _ _ _ _ _ fn res => some (fn.toNat, m.arg 0, m.args.getD 1 0, m.args.getD 2 0, res)
  | .xAmov _ _ _ _ _ _ _ fn res _ =>
    some (fn.toNat, m.arg 0 + 8 * m.word 4 m.i,
          BitVec.ofNat 64 (leNat ((m.data.drop (128 + 8 * m.i)).take 8)), 0, res)
  | _ => none

/-- The result of an element: S[D], or an engine store at S[D] + 8e, also into a guard slot (R70; log entry 108). -/
def State.atomRes (s : State) (k j : Nat) (m : Cmd) (old : W64) : State :=
  match m.ins with
  | .xAmo _ _ _ _ _ _ d _ _ => s.modCore k fun c => c.wrDest j (.sreg d.toNat) allLanes (old.zeroExtend 1024)
  | .xAmov .. => s.modCore k fun c =>
      let c1 := (c.spWrite (m.arg 3 + 8 * m.i) (leBytes 8 old.toNat)).freshMem (m.arg 3 + 8 * m.i) 8
      c1.overtake j s.free (orderClass m.ins) m.t (m.arg 3 + 8 * m.i) 8 (c1.byteFor j s.free)
  | _ => s

/-- The element of an atomic command. -/
def State.doAtom (s : State) (k j : Nat) (m : Cmd) (fn addr : Nat) (v c : W64) (res : Bool) : State :=
  s.cleatStep k j m addr (fn != 10) fun s p b =>
    let old := wordOf b p.off
    let s1 := match amoNew fn old v c with
      | some w => s.writeD p.key p.die p.dfn p.blk p.off (leBytes 8 w.toNat)
      | none => s
    (if res then s1.atomRes k j m old else s1).nextElem k j m

/-- Whether a bank lock queues the result store of an element (R69). -/
def State.atomHeld (s : State) (k : Nat) (m : Cmd) : Bool :=
  match m.ins with
  | .xAmov _ _ _ _ _ _ _ _ res _ => res && s.bankHeld (.s k ((m.arg 3 + 8 * m.i) / 2048))
  | _ => false

/-- Whether the element of a queued Cleat command may be performed now. -/
def State.cleatDue (s : State) (k j : Nat) (m : Cmd) : Bool :=
  m.queued && s.mayStart k j m (s.elemSpans k (s.ctx k j).vi m m.i)

/-- CLEAT_ATOMIC (R102). -/
def execCleatAtomic (core ctx seq : Nat) (s : State) : Out :=
  match (s.ctx core ctx).cmd? seq with
  | none => .refused (.notEnabled "CLEAT_ATOMIC")
  | some m => match m.atom with
    | none => .refused (.notEnabled "CLEAT_ATOMIC")
    | some (fn, addr, v, c, res) =>
      happen (s.cleatDue core ctx m && !s.atomHeld core m) "CLEAT_ATOMIC"
        (s.doAtom core ctx m fn addr v c res)

/-! ## x.redm (R252) -/

/-- One step of a fold: add rounded once under code 000, minimum, or maximum (R252, R255). -/
def foldStep (op : Nat) (f : Fmt) (m x : Nat) : Nat :=
  if f.isFloat then
    match op with
    | 0 => f.round .rne (sumVals .rne [f.val m, f.val x])
    | 1 => minElem f m x
    | _ => maxElem f m x
  else
    match op with
    | 0 => wrap 32 (m + x)
    | 1 => if sval 32 x < sval 32 m then x else m
    | _ => if sval 32 m < sval 32 x then x else m

/-- The format of a code (R252, R254). -/
def redFmt (code : Nat) : Fmt := match code with | 0 => .f32 | 1 => .bf16 | _ => .i32

/-- Element `i` of a reduction: address, width and value. -/
def Cmd.redElem (m : Cmd) : Option (Nat × Nat × Fmt × Nat) :=
  match m.ins with
  | .xRedm _ _ _ _ _ op fmt _ => some (m.arg 0 + redWidth fmt * m.i, redWidth fmt, redFmt fmt.toNat, op.toNat)
  | _ => none

/-- The element of a reduction. -/
def State.doReduce (s : State) (k j : Nat) (m : Cmd) (addr w : Nat) (f : Fmt) (op : Nat) : State :=
  s.cleatStep k j m addr true fun s p b =>
    let old := leNat ((List.range w).map fun i => b.byte (p.off + i))
    let new := foldStep op f old (m.word w m.i)
    (s.writeD p.key p.die p.dfn p.blk p.off (leBytes w new)).nextElem k j m

/-- The element of a queued read-modify-write command, performed. -/
def State.rmwStep (s : State) (k j : Nat) (m : Cmd) : State :=
  match m.atom, m.redElem with
  | some (fn, addr, v, c, res), _ => s.doAtom k j m fn addr v c res
  | none, some (addr, w, f, op) => s.doReduce k j m addr w f op
  | none, none => s

/-- The place that the element of a Cleat command may read and write now: it may be performed, nothing stops it,
and it writes (R102, R105). -/
def State.rmwNow (s : State) (k j : Nat) (m : Cmd) : Option Phys :=
  if m.src ≠ 0 ∨ !s.cleatDue k j m ∨ s.atomHeld k m then none
  else match m.atom.map (·.2.1) <|> m.redElem.map (·.1) with
    | none => none
    | some addr => match s.translate (s.ctx k j).vi addr true with
      | .error _ => none
      | .ok q =>
        let b := s.getBlk q.key q.die q.dfn q.blk
        let writes := match m.atom with
          | some (fn, _, v, c, _) => (amoNew fn (wordOf b q.off) v c).isSome
          | none => true
        if b.sb.state = .poisoned ∨ s.lostBlock q ∨ !writes then none else some q

/-- CLEAT_REDUCE (R252). -/
def execCleatReduce (core ctx seq : Nat) (s : State) : Out :=
  match (s.ctx core ctx).cmd? seq with
  | none => .refused (.notEnabled "CLEAT_REDUCE")
  | some m => match m.redElem with
    | none => .refused (.notEnabled "CLEAT_REDUCE")
    | some (addr, w, f, op) =>
      happen (s.cleatDue core ctx m) "CLEAT_REDUCE" (s.doReduce core ctx m addr w f op)

/-! ## Monitors (R103, R253) -/

/-- The monitor after the compare-and-arm step of the last x.mon of a context. -/
def Ctx.armed (x : Ctx) (m : Cmd) (addr : Nat) (equal : Bool) : Ctx :=
  if x.monSeq = m.seq then { x with mon := if equal then .armed addr else .fired } else x

/-- The compare-and-arm step (R103). -/
def State.armMon (s : State) (k j : Nat) (m : Cmd) : State :=
  s.cleatStep k j m (m.arg 0) false fun s p b =>
    (s.modCtx k j fun x => x.armed m (p.die * 2 ^ 41 + dpsOf p.dfn p.blk + p.off)
      (wordOf b p.off == m.args.getD 1 0)).nextElem k j m

/-- Whether a command is an x.mon. -/
def Cmd.isMon (m : Cmd) : Bool := match m.ins with | .xMon .. => true | _ => false

/-- MONITOR_ARM (R103). -/
def execMonitorArm (core ctx seq : Nat) (s : State) : Out :=
  match (s.ctx core ctx).cmd? seq with
  | none => .refused (.notEnabled "MONITOR_ARM")
  | some m => happen (m.isMon && s.cleatDue core ctx m) "MONITOR_ARM" (s.armMon core ctx m)

end Sys2Proof.Machine
end

