-- ==== Sys2Proof/Machine/Placement.lean ====
section
/-!
DEFINITION. Placement commands (R84, R86, R258 to R260, R303) and the completion of the commands that
have one step (R101, R247).
-/

namespace Sys2Proof.Machine

/-! ## The commands at issue -/

/-- A range that traps (R258). -/
def rangeIll (a n : Nat) : Bool :=
  decide (a % 2048 ≠ 0) || decide (n % 2048 ≠ 0) || decide (n = 0) || decide (2 ^ 52 < a + n) ||
    decide (dieOf a ≠ dieOf (a + n - 1))

/-- x.probe (R258). -/
def semXProbe (cc a b c : BitVec 6) (w nf : Bool) : Sem :=
  semCounted (.xProbe cc a b c w nf) .compute [a, b] (fun e => rangeIll (e.sv a) (e.sv b)) (fun _ => 1) fun _ => []
def execXProbe (cc a b c : BitVec 6) (w nf : Bool) (s : State) : Out :=
  issueOne (.xProbe cc a b c w nf) (semXProbe cc a b c w nf) s

/-- x.disc (R259). -/
def semXDisc (cls : BitVec 2) (cc a b : BitVec 6) : Sem :=
  semCounted (.xDisc cls cc a b) .compute [a, b] (fun e => rangeIll (e.sv a) (e.sv b)) (fun _ => 1) fun _ => []
def execXDisc (cls : BitVec 2) (cc a b : BitVec 6) (s : State) : Out :=
  issueOne (.xDisc cls cc a b) (semXDisc cls cc a b) s

/-- x.hint (R260): the command keeps the privilege of its bundle, in `sub` (R84). -/
def semXHint (cc a b : BitVec 6) (tier pin : BitVec 2) : Sem :=
  let q := semCounted (.xHint cc a b tier pin) .compute [a, b] (fun e => rangeIll (e.sv a) (e.sv b)) (fun _ => 1)
    fun _ => []
  { q with eff := fun e s =>
      (q.eff e s).modCtx e.k e.j fun x =>
        { x with cmds := x.cmds.map fun m =>
            if m.seq = e.x.cmdSeq then { m with sub := if e.x.priv then 1 else 0 } else m } }
def execXHint (cc a b : BitVec 6) (tier pin : BitVec 2) (s : State) : Out :=
  issueOne (.xHint cc a b tier pin) (semXHint cc a b tier pin) s

/-- x.hot (R260): the address is operand B; bits 63:52 must be zero (R241). -/
def semXHot (cc a b : BitVec 6) : Sem :=
  semCounted (.xHot cc a b) .compute [b] (fun e => decide (2 ^ 52 ≤ e.sv b)) (fun _ => 1) fun _ => []
def execXHot (cc a b : BitVec 6) (s : State) : Out := issueOne (.xHot cc a b) (semXHot cc a b) s

/-! ## Ranges -/

/-- The first byte of the page that the translation of an address reached (R258). -/
def State.pageStart (s : State) (vi addr : Nat) : Nat :=
  match s.leafOf vi addr with
  | none => addr / 65536 * 65536
  | some e => dieOf addr * 2 ^ 50 + e.unit * 65536

/-- Every unit of a range is translated: its entry is read and its leaf cached (R73, R84, R306). -/
def State.seeRange (s : State) (vi a n : Nat) : State :=
  (unitsOf a n).foldl (fun s u => (s.seeEntry vi u).fillTlb vi u) s

/-- The first failure in a range: the reported address and its reason (R258). -/
def State.firstFail (s : State) (vi a : Nat) (write : Bool) : List Nat → Option (Nat × XFail)
  | [] => none
  | u :: us => match s.translate vi u write with
    | .error f => some (max a (s.pageStart vi u), f)
    | .ok _ => State.firstFail s vi a write us

/-- The code of a failure (R258). -/
def XFail.code : XFail → Nat
  | .unmapped => 1
  | .notWritable => 2
  | .hostOwned => 3
  | .framePoisoned => 4

/-! ## x.probe (R258, R303) -/

/-- A probe has passed over the addresses from `lo` up to `hi`: recorded addresses among them count as
good (R303). -/
def Ctx.probed (x : Ctx) (lo hi : Nat) : Ctx :=
  { x with cmds := x.cmds.map fun m =>
      match m.bad with
      | some b => if lo ≤ b ∧ b < hi then { m with bad := none } else m
      | none => m }

/-- A probe of its range, from where it stands. -/
def State.probe (s0 : State) (k j : Nat) (m : Cmd) (res : Nat) (write nf : Bool) : State :=
  let vi := (s0.ctx k j).vi
  let lo := m.arg 0 + m.sub
  let s := s0.seeRange vi lo (m.arg 1 - m.sub)
  let out := fun (s : State) (v : W64) =>
    (s.modCore k fun c => c.wrDest j (.sreg res) allLanes (v.zeroExtend 1024)).nextElem k j m
  match s.firstFail vi lo write (unitsOf lo (m.arg 1 - m.sub)) with
  | none =>
    let s1 := s.modCtx k j fun x => x.probed lo (m.arg 0 + m.arg 1)
    if nf then out s1 (BitVec.allOnes 64) else s1.nextElem k j m
  | some (at_, f) =>
    if nf then out s (BitVec.ofNat 64 (f.code * 2 ^ 61 + (at_ - m.arg 0) % 2 ^ 48))
    else
      (s.modCtx k j fun x => x.probed lo at_).stopCmd k j { m with sub := at_ - m.arg 0 } 7 at_

/-! ## x.disc (R86, R259) -/

/-- The first failure in what is left of the range of a discard. -/
def State.discardFail (s : State) (k j : Nat) (m : Cmd) : Option (Nat × XFail) :=
  let vi := (s.ctx k j).vi
  s.firstFail vi (m.arg 0 + m.sub) true (unitsOf (m.arg 0 + m.sub) (m.arg 1 - m.sub))

/-- The blocks before it that are still to be discarded. -/
def State.discardLeft (s : State) (k j : Nat) (m : Cmd) : List Nat :=
  let end_ := ((s.discardFail k j m).map (·.1)).getD (m.arg 0 + m.arg 1)
  m.discards.filter fun a => decide (a < end_) && !m.parts.contains (a / 65536)

/-- Those of them that may be discarded now: the command is split at page boundaries, each part obeys the kind of its
own page, and a whole frame, which is one map write, those of all its pages (R86, R99, R259). -/
def State.discardNow (s : State) (k j : Nat) (m : Cmd) : List Nat :=
  let vi := (s.ctx k j).vi
  let as := s.discardLeft k j m
  let frame := fun a => (s.frameOf vi a).map fun p => (p.1, p.2.1)
  let whole := (s.wholeFrames vi as).map some
  let part := fun u => match as.find? fun a => a / 65536 == u with
    | some a => if whole.contains (frame a) then as.filter fun b => frame b == frame a else as.filter fun b => b / 65536 == u
    | none => []
  let us := ((as.map fun a => a / 65536).eraseDups).filter fun u =>
    s.mayStart k j m ((part u).flatMap fun a => s.spanD vi a 2048 false true false)
  as.filter fun a => us.contains (a / 65536)

/-- A discard of what it may of its range, up to the first failing page (R259, R308). -/
def State.discardCmd (s0 : State) (k j : Nat) (m : Cmd) : State :=
  let s := s0.seeRange (s0.ctx k j).vi (m.arg 0 + m.sub) (m.arg 1 - m.sub)
  let as := s.discardNow k j m
  let s1 := s.discardBlocks (s.ctx k j).vi as
  let m' := { m with parts := m.parts ++ (as.map fun a => a / 65536).eraseDups }
  if as.length < (s.discardLeft k j m).length then s1.setCmd k j m'
  else match s.discardFail k j m with
  | none => s1.nextElem k j m'
  | some (at_, f) => s1.noWay k j { m' with sub := at_ - m.arg 0 } at_ f

/-- Whether a discard can go on, or has nothing left before the first failing page. -/
def State.discardDue (s : State) (k j : Nat) (m : Cmd) : Bool :=
  s.mayStart k j m [] && ((s.discardLeft k j m).isEmpty || !(s.discardNow k j m).isEmpty)

/-! ## x.hint and x.hot (R84, R260) -/

/-- The frame of an address whose page translates, a poisoned one included: its entry is read all the same (R75,
R84). -/
def State.frameAt (s : State) (vi addr : Nat) : Option (Nat × Nat) :=
  match s.translate vi addr false with
  | .ok p => some (p.die, p.dfn)
  | .error .framePoisoned => (s.leafOf vi addr).map fun e => (dieOf addr, e.dfnOf addr)
  | .error _ => none

/-- The frames of a range, of the pages that translate. -/
def State.framesOf (s : State) (vi a n : Nat) : List (Nat × Nat) := ((unitsOf a n).filterMap (s.frameAt vi)).eraseDups

/-- A placement entry after x.hint. -/
def PEntry.hinted (e : PEntry) (tier pin : Nat) (may : Bool) : PEntry :=
  { e with hint := tier, pinned := if pin = 1 then e.pinned || may else if pin = 2 then false else e.pinned }

def State.hint (s0 : State) (k j : Nat) (m : Cmd) (tier pin : Nat) : State :=
  let vi := (s0.ctx k j).vi
  let s := s0.seeRange vi (m.arg 0) (m.arg 1)
  ((s.framesOf vi (m.arg 0) (m.arg 1)).foldl (fun s f =>
    s.setPent f.1 f.2 ((s.pent f.1 f.2).hinted tier pin (m.sub == 1 || (s.die f.1).upin))) s).nextElem k j m

/-- The value of x.hot (R84). -/
def State.hotWord (s : State) (vi addr : Nat) : W64 :=
  match s.frameAt vi addr with
  | none => 0
  | some (die, dfn) =>
    let e := s.pent die dfn
    BitVec.ofNat 64 (AMap.get (s.die die).hot dfn 0 + e.tier * 256 + e.state * 1024 +
      (if e.pinned then 8192 else 0) + e.hint * 16384)

/-! ## Completion -/

/-- A result register, then the counter (R241). -/
def State.giveReg (s : State) (k j : Nat) (m : Cmd) (reg : Nat) (v : W64) : State :=
  (s.modCore k fun c => c.wrDest j (.sreg reg) allLanes (v.zeroExtend 1024)).finishCmd k j m

/-- Whether a command of this kind may act now. -/
def State.placeDue (s : State) (k j : Nat) (m : Cmd) : Bool :=
  let may := s.mayStart k j m (s.elemSpans k (s.ctx k j).vi m m.i)
  m.queued && match m.ins with
    | .xProbe .. => may
    | .xDisc .. => s.discardDue k j m
    | .xHint .. => may
    | .xHot .. => may
    | .xPhq .. => may
    | .xFence _ kind scope => may && s.fenced k j m kind scope
    | _ => false

/-- The step of a placement command, x.phq or x.fence. -/
def State.placeStep (s : State) (k j : Nat) (m : Cmd) : State :=
  match m.ins with
  | .xProbe _ _ _ c w nf => s.probe k j m c.toNat w nf
  | .xDisc .. => s.discardCmd k j m
  | .xHint _ _ _ tier pin => s.hint k j m tier.toNat pin.toNat
  | .xHot _ a _ =>
    let s1 := (s.seeEntry (s.ctx k j).vi (m.arg 1)).fillTlb (s.ctx k j).vi (m.arg 1)
    s1.giveReg k j m a.toNat (s1.hotWord (s.ctx k j).vi (m.arg 1))
  | .xPhq _ a => s.giveReg k j m a.toNat (s.phqWord (s.ctx k j).dom)
  | .xFence .. => s.finishCmd k j m
  | _ => s

/-- PLACEMENT_COMMAND_COMPLETE (R258 to R260); x.phq and x.fence complete by it too (R101, R247). -/
def execPlacementCommandComplete (core ctx seq : Nat) (s : State) : Out :=
  match (s.ctx core ctx).cmd? seq with
  | none => .refused (.notEnabled "PLACEMENT_COMMAND_COMPLETE")
  | some m => happen (s.placeDue core ctx m) "PLACEMENT_COMMAND_COMPLETE" (s.placeStep core ctx m)

end Sys2Proof.Machine
end

