-- ==== Sys2Proof/Machine/Coll.lean ====
section
/-!
DEFINITION. Collectives: x.coll (R254, R255, R324), the Shroud's chunks (R278), the Delavo ports (R276,
R321), re-formed and failed collectives (R322, R323).
-/

namespace Sys2Proof.Machine

/-! ## The descriptor (R254) -/

def dKind (ws : List W64) : Nat := bitsOf (ws.getD 0 0) 0 2
def dOp (ws : List W64) : Nat := bitsOf (ws.getD 0 0) 2 2
def dFmt (ws : List W64) : Nat := bitsOf (ws.getD 0 0) 4 4
def dScope (ws : List W64) : Nat := bitsOf (ws.getD 0 0) 8 1
def dGroup (ws : List W64) : Nat := bitsOf (ws.getD 0 0) 16 8
def dCount (ws : List W64) : Nat := bitsOf (ws.getD 0 0) 32 16
def dRank (ws : List W64) : Nat := bitsOf (ws.getD 0 0) 48 16
def dSrc (ws : List W64) : Nat := (ws.getD 1 0).toNat
def dDst (ws : List W64) : Nat := (ws.getD 2 0).toNat
def dLen (ws : List W64) : Nat := (ws.getD 3 0).toNat
def dRoot (ws : List W64) : Nat := bitsOf (ws.getD 4 0) 0 16
def dStatus (ws : List W64) : Nat := (ws.getD 5 0).toNat

/-- A reserved bit that is set, or a field outside its range (R254). -/
def collIll (ws : List W64) : Bool :=
  let w0 := ws.getD 0 0
  dOp ws == 3 || !([0, 1, 5].contains (dFmt ws)) || bitsOf w0 9 7 ≠ 0 || bitsOf w0 24 8 ≠ 0 ||
    (dScope ws == 0 && dGroup ws != 0) || decide (dSrc ws % 2048 ≠ 0) || decide (2 ^ 52 ≤ dSrc ws) ||
    decide (dDst ws % 2048 ≠ 0) || decide (2 ^ 52 ≤ dDst ws) || decide (dLen ws % 2048 ≠ 0) ||
    decide (2 ^ 40 < dLen ws) || (dKind ws == 1 && dCount ws != 0 && decide (dLen ws % (2048 * dCount ws) ≠ 0)) ||
    bitsOf (ws.getD 4 0) 16 48 ≠ 0 || decide (dStatus ws % 8 ≠ 0) || decide (2 ^ 52 ≤ dStatus ws) ||
    ws.getD 6 0 != 0 || ws.getD 7 0 != 0

/-- The Shroud group register (R277). -/
def State.sgEnt (s : State) (g : Nat) : W64 := AMap.get s.sg g 0

/-- The live participants (R324). -/
def State.liveCount (s : State) (scope group dom : Nat) : Nat :=
  if scope = 0 then popN 128 (s.dom dom).clusters.toNat
  else bitsOf (s.sgEnt group) 0 16 - (AMap.get s.sgLost group []).length

/-- The cases of 0x0F at issue (R255, R277, R324). -/
def State.collBad (s : State) (x : Ctx) (ws : List W64) : Bool :=
  let n := dCount ws
  (dScope ws == 1 && !(s.sgEnt (dGroup ws)).getLsbD 48) ||
    (n != 0 && (decide (s.liveCount (dScope ws) (dGroup ws) (x.dom.getD 0) < n) || decide (n ≤ dRank ws) ||
      (dKind ws == 3 && decide (n ≤ dRoot ws))))

/-! ## x.coll at issue -/

/-- Whether a port is down (R321). -/
def State.portDown (s : State) (p : Nat) : Bool := (AMap.get s.ports p {}).down

/-- The port of a collective towards the next rank (`true`) or the previous one, or its alternate (R277). -/
def State.collPort (s : State) (group : Nat) (next alt : Bool) : Nat :=
  bitsOf (s.sgEnt group) (match next, alt with
    | true, false => 32
    | false, false => 36
    | true, true => 40
    | false, true => 44) 4

/-! ## The hops of a chunk (R278) -/

/-- The chunk size of the Shroud (R278). -/
def chunkBytes : Nat := 65536

/-- The chunks of one contribution. -/
def Coll.per (c : Coll) : Nat := (dLen c.desc + chunkBytes - 1) / chunkBytes

/-- The chunks of the result: of every contribution for an all-gather. -/
def Coll.total (c : Coll) : Nat := if dKind c.desc = 2 then c.n * c.per else c.per

/-- The rank that chunk `i` of a gather or broadcast comes from; of a fold's result, the last one. -/
def Coll.origin (c : Coll) (i : Nat) : Nat :=
  match dKind c.desc with
  | 2 => i / c.per
  | 3 => dRoot c.desc
  | _ => c.n - 1

/-- Whether a participant passes chunk `i` to the next rank: on the way of the fold, or, where `ret`, of what goes
around the ring to the rank before its origin. -/
def Coll.sends (c : Coll) (i : Nat) (ret : Bool) : Bool :=
  decide (1 < c.n) && decide (i < c.total) &&
    if ret then (c.rank + 1) % c.n != c.origin i else decide (dKind c.desc < 2) && decide (c.rank + 1 < c.n)

/-- Whether a participant still waits for something from the previous rank. -/
def Coll.awaits (c : Coll) : Bool :=
  decide (1 < c.n) && (List.range c.total).any fun i =>
    (AMap.find? c.got i).isNone && (decide (dKind c.desc < 2) || c.origin i != c.rank)

/-- The hops that a participant sends and that have not been acknowledged, by number, chunk by chunk. -/
def Coll.unacked (c : Coll) : List Nat :=
  (List.range (2 * c.total)).filter fun h => c.sends (h / 2) (h % 2 == 1) && !c.acked.contains h

/-! ## Failed collectives (R323) -/

def State.setColl (s : State) (c c' : Coll) : State :=
  { s with colls := s.colls.map fun d => if d = c then c' else d }

/-- The report of a failed collective (R325), the abort notice that goes out, and, where neither direction reaches
another rank, the marks of every other rank (R323; log entry 65). -/
def State.failColl (s : State) (c : Coll) : State :=
  let cut := c.scope == 1 && decide (1 < c.n) && [(true, false), (true, true), (false, false), (false, true)].all
    fun p => s.portDown (s.collPort c.group p.1 p.2)
  let others := (List.range c.n).filter (· != c.rank)
  let s1 := s.setColl c { c with failed := true, told := true }
  let s2 := if cut then { s1 with sgLost := AMap.upd s1.sgLost c.group [] fun l => (l ++ others).eraseDups } else s1
  s2.fault [0, c.vi] 16 0x0F (c.core / 256) (BitVec.ofNat 64 c.group) (BitVec.ofNat 64 c.seq)
    (if cut then BitVec.ofNat 64 ((c.rank + 1) % c.n) else BitVec.allOnes 64)

/-- Whether an alternate port takes over a direction: it is up and its group valid (R322, R323). -/
def State.altOk (s : State) (group : Nat) (next : Bool) : Bool :=
  !s.portDown (s.collPort group next true) && (s.sgEnt group).getLsbD 48

/-- The participant's record: the k-th collective of its cluster in the domain, or of its group (R254). A direction
that it needs and whose port is down runs on its alternate port; without one it fails (R321 to R323). -/
def State.joinColl (s : State) (k j seq : Nat) (ws : List W64) : State :=
  let x := s.ctx k j
  let sys := dScope ws == 1
  let key := if sys then dGroup ws else clusterOf k
  let n := if sys then AMap.get s.sgSeq key 0 else AMap.get s.clSeq key 0
  let c : Coll := { scope := dScope ws, group := dGroup ws, dom := x.dom.getD 0, seq := n, core := k,
                    ctx := j, cmd := seq, vi := x.vi, rank := dRank ws, n := dCount ws, desc := ws,
                    t := ((x.cmd? seq).map (·.t)).getD s.now, moved := s.now }
  let altN := sys && !c.unacked.isEmpty && s.portDown (s.collPort key true false)
  let altP := sys && c.awaits && s.portDown (s.collPort key false false)
  let c := { c with altN := altN, altP := altP, reform := altN || altP }
  let s1 := { s with colls := (s.colls.filter fun d : Coll => !(d.core == k && d.ctx == j && d.cmd == seq && !d.done)) ++ [c] }
  let s2 := if sys then { s1 with sgSeq := AMap.set s1.sgSeq key (n + 1) }
    else { s1 with clSeq := AMap.set s1.clSeq key (n + 1) }
  if (altN && !s.altOk key true) || (altP && !s.altOk key false) then s2.failColl c else s2

/-- The words of a collective descriptor. -/
def collDesc (e : Env) (a : BitVec 6) : List W64 := wordsAt (e.xBytes (e.sv a) 64) 8

/-- x.coll (R254, R255). One whose descriptor was read poisoned has no place among the collectives until it has been
read again (R53, R303). -/
def semXColl (cls : BitVec 2) (cc a : BitVec 6) : Sem :=
  let i : Instr := .xColl cls cc a
  let q := semCounted i .exchange [a] (fun e => !goodDesc (e.x.rdS a.toNat) 64 || collIll (collDesc e a))
    (fun _ => 1) fun e => [(e.sv a, 64)]
  { q with
    check := fun e => (q.check e).or
      (if e.s.collBad e.x (collDesc e a) then
        some { cause := 0x0F, slot := some (bitOf i), i0 := BitVec.ofNat 64 (e.sv a) }
       else none)
    eff := fun e s =>
      let s1 := q.eff e s
      if e.xFault (e.sv a) 64 = 0 then s1.joinColl e.k e.j e.x.cmdSeq (collDesc e a) else s1 }
def execXColl (cls : BitVec 2) (cc a : BitVec 6) (s : State) : Out :=
  issueOne (.xColl cls cc a) (semXColl cls cc a) s

/-! ## The participants of a collective -/

def Coll.is (c : Coll) (k j seq : Nat) : Bool := c.core == k && c.ctx == j && c.cmd == seq && !c.done

/-- The record of a command that has not completed. -/
def State.coll? (s : State) (k j seq : Nat) : Option Coll := s.colls.find? fun c => c.is k j seq

/-- The participants on this device of the collective of a record. -/
def State.peers (s : State) (c : Coll) : List Coll :=
  s.colls.filter fun d => d.scope == c.scope && d.group == c.group && d.seq == c.seq &&
    (c.scope == 1 || d.dom == c.dom)

/-- Two descriptors agree (R255). -/
def descAgree (a b : List W64) : Bool :=
  dKind a == dKind b && dOp a == dOp b && dFmt a == dFmt b && dScope a == dScope b && dCount a == dCount b &&
    dLen a == dLen b && (dKind a != 3 || dRoot a == dRoot b)

/-- Whether the descriptors of the collective disagree. -/
def State.clashes (s : State) (c : Coll) : Bool :=
  c.clash || (s.peers c).any fun d => d.clash || !descAgree d.desc c.desc

/-- The bytes of chunk `i` of a contribution. -/
def chunkOf (src : List Byte) (i : Nat) : List Byte := (src.drop (chunkBytes * i)).take chunkBytes

/-- The length of chunk `i`. -/
def Coll.chunkLen (c : Coll) (i : Nat) : Nat := min chunkBytes (dLen c.desc - chunkBytes * (i % c.per))

/-- One step of the fold over the elements of two chunks (R255). -/
def foldBytes (ws : List W64) (a b : List Byte) : List Byte :=
  let w := if dFmt ws = 1 then 2 else 4
  (List.range (a.length / w)).flatMap fun e =>
    leBytes w (foldStep (dOp ws) (redFmt (dFmt ws)) (leNat ((a.drop (w * e)).take w)) (leNat ((b.drop (w * e)).take w)))

/-! ## The local contribution (R39, R255) -/

/-- The bytes of a range of level D, or the first block that cannot be read with the cause. -/
def State.readRange (s : State) (vi addr : Nat) : Nat → Except (Nat × Nat) (List Byte)
  | 0 => .ok []
  | n + 1 =>
    match s.translate vi addr false with
    | .error f => .error (if f = .framePoisoned then 0x0D else 7, addr)
    | .ok p =>
      let b := s.getBlk p.key p.die p.dfn p.blk
      if b.sb.state = .poisoned then .error (0x0E, addr)
      else match State.readRange s vi (addr + 2048) n with
        | .ok bs => .ok ((List.range 2048).map b.byte ++ bs)
        | .error e => .error e

/-- The blocks of the source that are still to be read. -/
def Coll.unread (c : Coll) (m : Cmd) : List Nat := (List.range (dLen c.desc / 2048)).filter fun b => !m.parts.contains b

/-- Those of them that may be read now: each obeys the kind of its own page (R99). -/
def State.takable (s : State) (c : Coll) (m : Cmd) : List Nat :=
  (c.unread m).filter fun b =>
    s.mayStart c.core c.ctx m (s.spanD c.vi (dSrc c.desc + 2048 * b) 2048 true false false)

/-- The Shroud reads what it may of the source, and with its last block it has taken the local contribution; a source
that cannot be read stops the command (R300). The cycle does not count in T (R39; log entry 105). -/
def State.takeColl (s0 : State) (c : Coll) (m : Cmd) : State :=
  let s := s0.seeBlocks c.vi (dSrc c.desc) (dLen c.desc)
  if m.src ≠ 0 then s.stopCmd c.core c.ctx m m.src (m.arg 0)
  else
    let bs := (s0.takable c m).map fun b => (b, s.readRange c.vi (dSrc c.desc + 2048 * b) 1)
    match bs.findSome? fun p => match p.2 with | .error e => some e | .ok _ => none with
    | some (cause, a) => s.stopCmd c.core c.ctx m cause a
    | none =>
      let reads := bs.foldl (fun r p => AMap.set r p.1 (p.2.toOption.getD [])) c.reads
      let m' := { m with parts := m.parts ++ bs.map (·.1) }
      if (c.unread m').isEmpty then
        (s.setColl c { c with src := reads.flatMap (·.2), reads := [], taken := true, moved := s.now }).setCmd c.core
          c.ctx { m' with sub := 1, parts := [] }
      else (s.setColl c { c with reads := reads }).setCmd c.core c.ctx m'

/-- Whether the contribution, or a part of it, can be taken now. -/
def State.takeDue (s : State) (c : Coll) (m : Cmd) : Bool :=
  m.queued && c.n != 0 && !c.taken && !c.failed && s.mayStart c.core c.ctx m [] &&
    ((c.unread m).isEmpty || !(s.takable c m).isEmpty)

/-! ## Chunks (R278) -/

/-- The participant of a rank on this device. -/
def State.mate (s : State) (c : Coll) (rank : Nat) : Option Coll := (s.peers c).find? fun d => d.rank == rank

/-- The rank before a participant's in the ring, and the one after it. -/
def Coll.prev (c : Coll) : Nat := (c.rank + c.n - 1) % c.n
def Coll.next (c : Coll) : Nat := (c.rank + 1) % c.n

/-- Whether a chunk of a rank is the partial fold that the rank before sends. -/
def Coll.partial_ (c : Coll) (rank : Nat) : Bool := decide (dKind c.desc < 2) && rank + 1 == c.rank

/-- The bytes of chunk `i` of a rank as they reach a participant at scope 0: its own contribution; or what the rank
before it has sent, once its flits have all come over the home channel: its contribution or partial fold, or what goes
around the ring (R43, R255, R278). -/
def State.chunk0 (s : State) (c : Coll) (rank i : Nat) : Option (List Byte) :=
  if rank = c.rank then some (chunkOf c.src (i % c.per))
  else match s.mate c c.prev with
    | none => none
    | some d =>
      if c.partial_ rank then
        if !d.out.contains (2 * i) then none
        else if d.rank = 0 then some (chunkOf d.src i) else AMap.find? d.part i
      else if d.out.contains (2 * i + 1) then AMap.find? d.got i else none

/-- A chunk that arrives from a rank: a contribution or the result of the fold, which comes from its origin, is
written; a partial fold, which comes from the rank before, takes the own contribution and is passed on; one that has
been taken up is discarded (R278, R322). -/
def Coll.arrive (c : Coll) (rank i : Nat) (bytes : List Byte) : Option Coll :=
  let own := chunkOf c.src (i % c.per)
  if 2 ≤ dKind c.desc ∨ c.n = 1 then
    if rank ≠ c.origin i then none
    else some { c with got := AMap.set c.got i (if rank = c.rank then own else bytes) }
  else if rank + 1 = c.rank then
    if (AMap.find? c.part i).isSome then some c
    else if c.rank + 1 = c.n then some { c with got := AMap.set c.got i (foldBytes c.desc bytes own) }
    else some { c with part := AMap.set c.part i (foldBytes c.desc bytes own) }
  else if rank + 1 = c.n ∧ rank ≠ c.rank ∧ (c.rank = 0 ∨ (AMap.find? c.part i).isSome) then
    some { c with got := AMap.set c.got i bytes }
  else none

/-- What a chunk makes of a record: one already written is discarded (R322); one whose length is not that
of the own descriptor's chunk shows that the descriptors disagree (R255). -/
def State.chunkIn (s : State) (c : Coll) (rank i : Nat) (bytes : List Byte) : Option Coll :=
  if !c.taken || c.failed || decide (c.total ≤ i) then none
  else if (AMap.find? c.got i).isSome then some c
  else
    let r :=
      if c.scope = 0 then (s.chunk0 c rank i).bind (c.arrive rank i)
      else if rank ≠ c.rank ∧ bytes.length ≠ c.chunkLen i then some { c with clash := true }
      else c.arrive rank i bytes
    r.map fun d => { d with moved := s.now }

/-- SHROUD_CHUNK_RECEIVE (R278): the chunk `chunk` arrives from `rank`; before anything else the Shroud
takes the participant's own contribution, as from its own rank (R39). At scope 0 the bytes are those that
the rank before it has sent. -/
def execShroudChunkReceive (core ctx seq rank chunk : Nat) (bytes : List Byte) (s : State) : Out :=
  match s.coll? core ctx seq, (s.ctx core ctx).cmd? seq with
  | some c, some m =>
    if rank = c.rank ∧ s.takeDue c m then .next (s.takeColl c m)
    else match s.chunkIn c rank chunk bytes with
      | some d => .next (s.setColl c d)
      | none => .refused (.notEnabled "SHROUD_CHUNK_RECEIVE")
  | _, _ => .refused (.notEnabled "SHROUD_CHUNK_RECEIVE")

/-- Whether a participant has sent hop `h`: it has what the hop carries. -/
def Coll.sent (c : Coll) (h : Nat) : Bool :=
  c.taken && c.sends (h / 2) (h % 2 == 1) &&
    ((AMap.find? c.got (h / 2)).isSome || (h % 2 == 0 && (c.rank == 0 || (AMap.find? c.part (h / 2)).isSome)))

/-- Whether a record has no hop that is still to be acknowledged; one that has failed passes nothing on. -/
def Coll.allAcked (c : Coll) : Bool := !c.taken || c.clash || c.failed || c.unacked.isEmpty

/-- The records that nobody needs any more are dropped: every participant is done, every hop acknowledged; of a
failed collective, those that have completed, once its other participants here have the abort notice. -/
def State.pruneColls (s : State) : State :=
  { s with colls := s.colls.filter fun c =>
      !(c.done &&
        (if c.failed then (s.peers c).all (fun d => d.failed || d.done)
         else if c.scope = 1 then c.allAcked
         else decide (c.n ≤ ((s.peers c).filter (·.done)).length) && (s.peers c).all (·.allAcked))) }

/-- Whether the next rank has written what a hop carried: at scope 0 it is a participant of the device (R278). -/
def State.written (s : State) (c : Coll) (h : Nat) : Bool :=
  c.scope != 0 || match s.mate c c.next with
    | none => false
    | some d => (AMap.find? d.got (h / 2)).isSome || (h % 2 == 0 && (AMap.find? d.part (h / 2)).isSome)

/-- SHROUD_CHUNK_ACK (R278): a hop of a chunk, the fold's first, is acknowledged once the next rank has written it, and
the sender drops its copy. -/
def execShroudChunkAck (core ctx seq chunk : Nat) (s : State) : Out :=
  let hop := fun c : Coll => [2 * chunk, 2 * chunk + 1].find? fun h => c.sent h && s.written c h && !c.acked.contains h
  match s.colls.find? fun c => c.core == core && c.ctx == ctx && c.cmd == seq && (hop c).isSome with
  | none => .refused (.notEnabled "SHROUD_CHUNK_ACK")
  | some c => .next (s.setColl c { c with acked := c.acked ++ (hop c).toList, moved := s.now }).pruneColls

/-! ## Failures (R321 to R323) -/

/-- Whether an abort notice is on its way to a participant from another of the device (R323). -/
def State.noticed (s : State) (c : Coll) : Bool := c.scope == 0 && (s.peers c).any fun d => d.told && d != c

/-- SHROUD_ABORT_NOTICE (R323). -/
def execShroudAbortNotice (core ctx seq : Nat) (s : State) : Out :=
  match s.coll? core ctx seq with
  | none => .refused (.notEnabled "SHROUD_ABORT_NOTICE")
  | some c => happen (!c.failed && c.n != 0) "SHROUD_ABORT_NOTICE" (s.setColl c { c with failed := true })

/-- SHROUD_PROGRESS_TIMEOUT (R323). -/
def execShroudProgressTimeout (core ctx seq : Nat) (s : State) : Out :=
  match s.coll? core ctx seq with
  | none => .refused (.notEnabled "SHROUD_PROGRESS_TIMEOUT")
  | some c => happen (!c.failed && c.n != 0 && decide (c.moved + 2 ^ 32 ≤ s.now)) "SHROUD_PROGRESS_TIMEOUT"
      (s.failColl c)

/-- A collective whose port `p` goes down: the direction switches to its alternate port, or the collective
fails (R322, R323). A direction with nothing left to carry is not affected (R278). The report names the oldest chunk
that has been sent and not acknowledged; where this device sends none again, what it names is a free value (log entry
65). -/
def State.collOff (s : State) (p : Nat) (c : Coll) : State :=
  if c.scope = 0 ∨ c.failed then s
  else
    let next := s.collPort c.group true c.altN == p && !c.unacked.isEmpty
    let prev := s.collPort c.group false c.altP == p && c.awaits && !c.done
    if !next && !prev then s
    else
      if (next && (c.altN || !s.altOk c.group true)) || (prev && (c.altP || !s.altOk c.group false)) then
        (if c.done then s else s.failColl c)
      else
        let first := match (if next then (c.unacked.filter c.sent).head? else none) with
          | some h => h / 2
          | none => Config.freeNat s.free 210
        ((s.setColl c { c with altN := c.altN || next, altP := c.altP || prev, reform := true }).fault [0, c.vi] 15 0
          (c.core / 256) (BitVec.ofNat 64 c.group) (BitVec.ofNat 64 c.seq) (BitVec.ofNat 64 first)).fresh

/-- A port goes down (R321): the report, and the collectives on it. -/
def State.downPort (s : State) (p : Nat) (noSignal : Bool) : State :=
  let s1 := ({ s with ports := AMap.upd s.ports p {} fun x => { x with down := true } }).fault [0] 14 0 0
    (BitVec.ofNat 64 p) (if noSignal then 1 else 0) 0
  s1.colls.foldl (fun s c => s.collOff p c) s1

/-- DELAVO_FLIT_RECEIVE (R276): a flit that fails its CRC is retried. -/
def execDelavoFlitReceive (port : Nat) (crcOk : Bool) (s : State) : Out :=
  happen (decide (port < 16) && !s.portDown port) "DELAVO_FLIT_RECEIVE"
    { s with ports := AMap.upd s.ports port {} fun x =>
        if crcOk then { x with fails := 0, last := s.now } else { x with fails := x.fails + 1 } }

/-- DELAVO_PORT_DOWN (R321): one flit and its 16 retries have failed, or no valid flit has arrived for
33,000 cycles. -/
def execDelavoPortDown (port : Nat) (noSignal : Bool) (s : State) : Out :=
  let x : Port := AMap.get s.ports port {}
  happen (decide (port < 16) && !x.down && (if noSignal then decide (x.last + 33000 ≤ s.now) else decide (17 ≤ x.fails)))
    "DELAVO_PORT_DOWN" (s.downPort port noSignal)

/-- DELAVO_SIGNAL_TIMEOUT (R321). -/
def execDelavoSignalTimeout (port : Nat) (s : State) : Out :=
  let x : Port := AMap.get s.ports port {}
  happen (decide (port < 16) && !x.down && decide (x.last + 33000 ≤ s.now)) "DELAVO_SIGNAL_TIMEOUT" (s.downPort port true)

/-- DELAVO_PORT_UP (R321). -/
def execDelavoPortUp (port : Nat) (s : State) : Out :=
  happen (s.portDown port) "DELAVO_PORT_UP"
    { s with ports := AMap.set s.ports port { down := false, fails := 0, last := s.now } }

/-! ## Completion (R255, R323) -/

/-- The length of the destination. -/
def Coll.outLen (c : Coll) : Nat :=
  match dKind c.desc with
  | 1 => dLen c.desc / c.n
  | 2 => dLen c.desc * c.n
  | _ => dLen c.desc

/-- Block `b` of the destination, where its chunk has its final value (R255). -/
def Coll.outBlock (c : Coll) (b : Nat) : Option (List Byte) :=
  let len := dLen c.desc
  let off := match dKind c.desc with
    | 1 => c.rank * (len / c.n) + 2048 * b
    | _ => 2048 * b
  let (key, at_) := match dKind c.desc with
    | 2 => (off / len * c.per + off % len / chunkBytes, off % len % chunkBytes)
    | _ => (off / chunkBytes, off % chunkBytes)
  (AMap.find? c.got key).map fun bs => (bs.drop at_).take 2048

/-- Whether every block of the 64 KiB chunk of the destination that holds block `b` is known (R323). -/
def Coll.outReady (c : Coll) (b : Nat) : Bool :=
  (List.range 32).all fun i =>
    let q := b / 32 * 32 + i
    decide (c.outLen ≤ 2048 * q) || (c.outBlock q).isSome

/-- The blocks of the destination that are still to be written: each chunk holds the exact result, or its earlier
bytes. -/
def Coll.unwritten (c : Coll) (m : Cmd) : List Nat :=
  (List.range (c.outLen / 2048)).filter fun b => c.outReady b && !m.parts.contains b

/-- Writes blocks of the destination. -/
def State.writeOut (s : State) (c : Coll) (bs : List Nat) : State :=
  bs.foldl (fun s b => match c.outBlock b with
    | some bytes => s.writeVi c.vi (dDst c.desc + 2048 * b) bytes
    | none => s) s

/-- The status word (R255, R323). -/
def State.collStatus (s : State) (c : Coll) : Nat :=
  if c.n = 0 then 1 else if s.clashes c then 3 else if c.failed then 4 else if c.reform then 2 else 0

/-- Whether a status leaves the destination as it is (R255). -/
def bareStatus (st : Nat) : Bool := st == 1 || st == 3

/-- The blocks of the destination that a completion has still to write. -/
def State.outLeft (s : State) (c : Coll) (m : Cmd) : List Nat :=
  if bareStatus (s.collStatus c) then [] else c.unwritten m

/-- Those of them that may be written now: each obeys the kind of its own page (R99). -/
def State.outNow (s : State) (c : Coll) (m : Cmd) : List Nat :=
  (s.outLeft c m).filter fun b =>
    s.mayStart c.core c.ctx m (s.spanD c.vi (dDst c.desc + 2048 * b) 2048 false true false)

/-- Whether the outcome of a collective stands. -/
def State.settled (s : State) (c : Coll) : Bool :=
  c.n == 0 || s.clashes c || c.failed || (c.taken && (List.range c.total).all fun i => (AMap.find? c.got i).isSome)

/-- Whether the status word may be written now. -/
def State.statusDue (s : State) (c : Coll) (m : Cmd) : Bool :=
  s.mayStart c.core c.ctx m (s.spanD c.vi (dStatus c.desc) 8 false true false)

/-- Whether a collective can complete, or write a part of its destination: its outcome stands, and an access may be
performed. -/
def State.collDue (s : State) (c : Coll) (m : Cmd) : Bool :=
  m.queued && !c.done && s.settled c &&
    (!(s.outNow c m).isEmpty || ((s.outLeft c m).isEmpty && s.statusDue c m))

/-- The first address that a completion cannot write, with its cause. -/
def State.outBad (s : State) (c : Coll) (status : Nat) : Option (Nat × Nat) :=
  let as := if bareStatus status then [] else (List.range (c.outLen / 2048)).map fun b => dDst c.desc + 2048 * b
  (as ++ [dStatus c.desc]).findSome? fun a =>
    match s.translate c.vi a true with
    | .error f => some (if f = .framePoisoned then 0x0D else 7, a)
    | .ok p => if (s.getBlk p.key p.die p.dfn p.blk).sb.state = .poisoned then some (0x0E, a) else none

/-- A collective completes: destination, status word, the counter, and 0x0F for a disagreement or a failure
(R255, R289, R323); or it writes the part of the destination that it may (R99). -/
def State.completeColl (s : State) (c : Coll) (m : Cmd) : State :=
  let st := s.collStatus c
  match s.outBad c st with
  | some (cause, a) => s.stopCmd c.core c.ctx m cause a
  | none =>
    let bs := s.outNow c m
    let s1 := s.writeOut c bs
    if bs.length < (s.outLeft c m).length ∨ !s.statusDue c m then
      s1.setCmd c.core c.ctx { m with parts := m.parts ++ bs }
    else
    let s2 := s1.writeVi c.vi (dStatus c.desc) (leBytes 8 st)
    let s3 := (s2.setColl c { c with done := true, clash := st == 3 }).pruneColls
    let r : Record := { cause := 0x0F, fatal := false, info0 := BitVec.ofNat 64 (m.arg 0),
                        info1 := BitVec.ofNat 64 st, info2 := 0, info3 := 0, cc := some (ccOf m.ins), seq := m.seq }
    let s4 := if 3 ≤ st then s3.modCtx c.core c.ctx fun x => x.pushFault s.now r else s3
    s4.finishCmd c.core c.ctx m

/-- Whether a command is an x.coll. -/
def Cmd.isColl (m : Cmd) : Bool := match m.ins with | .xColl .. => true | _ => false

/-- An x.coll whose descriptor was poisoned at issue stops; once it has been read again it takes its place, with the
checks of its issue (R53, R254, R255, R303; log entry 20). -/
def State.lateColl (s : State) (k j : Nat) (m : Cmd) : State :=
  let ws := wordsAt m.data 8
  if m.src ≠ 0 then s.stopCmd k j m m.src (m.arg 0)
  else if collIll ws then s.stopCmd k j m 1 (m.arg 0)
  else if s.collBad (s.ctx k j) ws then s.stopCmd k j m 0x0F (m.arg 0)
  else s.joinColl k j m.seq ws

/-- COLL_COMPLETE (R255). -/
def execCollComplete (core ctx seq : Nat) (s : State) : Out :=
  match s.coll? core ctx seq, (s.ctx core ctx).cmd? seq with
  | some c, some m => happen (s.collDue c m) "COLL_COMPLETE" (s.completeColl c m)
  | none, some m => happen (m.isColl && m.queued && s.mayStart core ctx m []) "COLL_COMPLETE" (s.lateColl core ctx m)
  | _, none => .refused (.notEnabled "COLL_COMPLETE")

/-- Whether every Shroud chunk of a domain has been acknowledged (R273). -/
def State.chunksAcked (s : State) (d : Nat) : Bool := s.colls.all fun c => c.dom != d || c.allAcked

end Sys2Proof.Machine
end

