-- ==== Sys2Proof/Machine/Home.lean ====
section
/-!
DEFINITION. The visits of the token of a home channel: the compiled token schedule of the flits of x.rst, x.xchp and
x.coll at scope 0, and the sending of flits with its retries (R43, R60, R104, R278, R319).
-/

namespace Sys2Proof.Machine

/-- A horizontal transfer of a core: a command of one of its contexts, or the next hop of a collective at scope 0, by
number (R104, R278). -/
inductive Xfer where
  | cmd (j : Nat) (m : Cmd)
  | hop (c : Coll) (h : Nat)
deriving DecidableEq, Repr

/-- The cycle of issue of a transfer. -/
def Xfer.t : Xfer → Nat
  | .cmd _ m => m.t
  | .hop c _ => c.t

/-- The flits that carry a hop. -/
def Coll.hopFlits (c : Coll) (h : Nat) : Nat := (c.chunkLen (h / 2) + 255) / 256

/-- The hops that a participant at scope 0 can pass on to the next rank, in order, and has not passed on whole. -/
def State.hops (s : State) (c : Coll) : List Nat :=
  if c.scope ≠ 0 ∨ c.failed ∨ (s.mate c c.next).isNone then []
  else (List.range (2 * c.total)).filter fun h => c.sent h && !c.out.contains h

/-- The pending horizontal transfers of a core, the oldest first (R43). -/
def State.xfers (s : State) (core : Nat) : List Xfer :=
  let cmds := (List.range 4).flatMap fun j =>
    ((s.ctx core j).cmds.filter fun m => decide (m.t < s.now) && !(s.ctx core j).saved).map (Xfer.cmd j)
  let hops := s.colls.filterMap fun c => if c.core = core then (s.hops c).head?.map (Xfer.hop c) else none
  sortBy Xfer.t (cmds ++ hops)

/-- The core that a transfer goes to. -/
def State.xferTarget (s : State) (core : Nat) : Xfer → Nat
  | .cmd _ m => m.target core
  | .hop c _ => ((s.mate c c.next).map (·.core)).getD core

/-- The home channel that a transfer takes. -/
def State.xferChan (s : State) (core : Nat) (x : Xfer) : Nat := (s.route core (s.xferTarget core x)).chan

/-! ## The compiled token schedule (R43) -/

/-- Whether a transfer has a flit without a place in the compiled schedule. -/
def State.hasUnplaced (s : State) (core : Nat) : Xfer → Bool
  | .cmd j m => !(s.unplaced core j m).isEmpty
  | .hop c _ => decide (c.flit + c.lead < ((s.hops c).map c.hopFlits).sum)

/-- The transfer whose flit the compiled schedule puts into the visit of this cycle: of the oldest, whatever had to be
sent again (R43, R319; log entry 65). -/
def State.placing (s : State) (core : Nat) : Option Xfer :=
  ((s.xfers core).find? (s.hasUnplaced core)).filter fun x => s.tokenAt core (s.xferChan core x)

/-- A flit takes its place; one of an x.rst among the landings of the domain. -/
def State.placeFlit (s : State) (core : Nat) : Xfer → State
  | .cmd j m =>
    let s1 := match (s.unplaced core j m).head?.bind (·.2) with
      | some f => s.modDom ((s.domainOf core).getD 0) fun x => { x with flits := x.flits ++ [f] }
      | none => s
    s1.setCmd core j { m with placed := m.placed + 1 }
  | .hop c _ => s.setColl c { c with lead := c.lead + 1 }

/-! ## Sending (R43, R60, R319) -/

/-- Whether a transfer has a flit to send that has its place: of an x.rst, of the block that an x.xchp trades or is to
trade next, or of a hop. An x.rst that read poison at issue only stops (R300). -/
def State.hasFlit (s : State) (core : Nat) : Xfer → Bool
  | .cmd j m => match m.ins with
    | .xRst .. => m.queued && (m.src != 0 || (decide (4 * m.sent < m.n) && decide (m.sent < m.placed))) &&
        s.mayStart core j m (s.elemSpans core (s.ctx core j).vi m m.i)
    | .xXchp .. =>
      if m.inPhaseA then decide (m.sent < 8) && decide (m.sent < m.placed)
      else decide (0 < m.placed) && (s.tradeDue core j m).isSome
    | _ => false
  | .hop c _ => decide (0 < c.lead)

/-- The transfer whose flit goes out in the visit of this cycle: the oldest that has one. -/
def State.sending (s : State) (core : Nat) : Option Xfer :=
  ((s.xfers core).find? (s.hasFlit core)).filter fun x =>
    s.tokenAt core (s.xferChan core x) && !s.badChan.contains (s.xferChan core x)

/-- A flit has been sent. The last flit of a hop passes it on. -/
def State.flitGoes (s : State) (core : Nat) : Xfer → State
  | .cmd j m => s.setCmd core j { m with sent := m.sent + 1 }
  | .hop c h =>
    let c1 := { c with lead := c.lead - 1 }
    s.setColl c (if c.flit + 1 < c.hopFlits h then { c1 with flit := c.flit + 1 } else { c1 with flit := 0, out := c.out ++ [h] })

/-- A flit goes out, or fails and is sent again at a later visit (R319). -/
def State.tryFlit (s : State) (core : Nat) (x : Xfer) : State :=
  let target := s.xferTarget core x
  if s.routeBad core target ∨ Config.freeBit s.free 8 then s.flitFails core ((s.domainOf core).getD 0) target
  else (s.fresh.modCore core fun c => { c with fails := 0 }).flitGoes core x

/-- Sends the next flit of a transfer; the first of an x.xchp's block takes up its trade, unless that stops (R60). -/
def State.sendFlit (s : State) (core : Nat) : Xfer → State
  | .cmd j m =>
    if m.src ≠ 0 then s.stopCmd core j m m.src (m.arg 0)
    else match s.tradeDue core j m with
    | none => s.tryFlit core (.cmd j m)
    | some (near, far) =>
      let s1 := s.phaseA core j m near far
      match (s1.ctx core j).cmd? m.seq with
      | none => s1
      | some m' => if m'.stopped then s1 else s1.tryFlit core (.cmd j m')
  | .hop c h => s.tryFlit core (.hop c h)

/-- A visit of the token: the compiled schedule goes on, and the flit whose turn it is goes out. -/
def State.visit (s : State) (core : Nat) : State :=
  let s1 := ((s.placing core).map (s.placeFlit core)).getD s
  let s2 := s1.modCore core fun c => { c with sentAt := some s.now }
  match s1.sending core with
  | none => s2
  | some x => s2.sendFlit core x

/-- Whether a core uses the visit of a token in this cycle, one in a slot (R43). -/
def State.visitDue (s : State) (core : Nat) : Bool :=
  (s.core core).sentAt != some s.now && ((s.placing core).isSome || (s.sending core).isSome)

/-- HOME_FLIT_SEND (R43). -/
def execHomeFlitSend (core : Nat) (s : State) : Out := happen (s.visitDue core) "HOME_FLIT_SEND" (s.visit core)

end Sys2Proof.Machine
end

