-- ==== Sys2Proof/Machine/Commands.lean ====
section
/-!
DEFINITION. Command streams: arbitration (R32), dispatch (R14 to R16), and every command (R15, R17, R18,
R34, R46, R270 to R272, R318, R346, R347).
-/

namespace Sys2Proof

/-! ## Entries (R14) -/

def CmdEntry.kind (e : CmdEntry) : Nat := Machine.bitsOf e.w0 0 8
def CmdEntry.fence (e : CmdEntry) : Bool := e.w0.getLsbD 8
def CmdEntry.notify (e : CmdEntry) : Bool := e.w0.getLsbD 9
def CmdEntry.tag (e : CmdEntry) : W32 := e.w0.extractLsb' 16 32

/-- The cluster bitmap of words w2 and w3 (R15). -/
def CmdEntry.clusters (e : CmdEntry) : BitVec 128 := e.w3 ++ e.w2

end Sys2Proof

namespace Sys2Proof.Machine

/-- Reserved bits of the header (R14). -/
def headBad (e : CmdEntry) : Bool := bitsOf e.w0 10 6 ≠ 0 || bitsOf e.w0 48 16 ≠ 0

/-- The entry in 64 bytes. -/
def entryOf (bs : List Byte) : CmdEntry :=
  let w := fun i => (wordsAt bs 8).getD i 0
  { w0 := w 0, w1 := w 1, w2 := w 2, w3 := w 3, w4 := w 4, w5 := w 5, w6 := w 6, w7 := w 7 }

def State.stream (s : State) (vi st : Nat) : Stream := AMap.get (s.vi vi).streams st {}
def State.modStream (s : State) (vi st : Nat) (f : Stream → Stream) : State :=
  s.modVi vi fun v => { v with streams := AMap.upd v.streams st {} f }

/-- The entry at the head of a stream (R265, R267); none where the ring cannot be read. -/
def State.headEntry (s : State) (vi st : Nat) : Option CmdEntry :=
  let x := s.stream vi st
  let a := bitsOf x.base 6 58 * 64 + 64 * x.head
  if x.base.getLsbD 0 then some (entryOf (s.hmem.bytes a 64)) else (s.readLines vi a 1).map entryOf

/-! ## Eligibility and arbitration (R16, R32) -/

/-- Whether the streams of an interface are held by a revocation of its key (R272). -/
def State.keyHeld (s : State) (vi st : Nat) : Bool :=
  (s.vi vi).key == .revoking && !((s.vi vi).keyCmd.any fun c => c.1 == vi && c.2.1 == st)

/-- The head of a stream, when it is eligible: present, not held by a WAIT, its fence bit, a revocation, or
a completion record that waits for space (R15, R32, R266). -/
def State.eligible (s : State) (vi st : Nat) : Option CmdEntry :=
  let x := s.stream vi st
  if s.stage = 2 ∧ x.en ∧ x.head ≠ x.tail ∧ x.wait.isNone ∧ !s.keyHeld vi st then
    match s.headEntry vi st with
    | none => none
    | some e =>
      if (e.fence && x.open_ != 0) || (e.notify && !(s.queue vi 0).waiting.isEmpty) then none else some e
  else none

/-- The eligible streams with priority and index. -/
def State.eligibles (s : State) : List (Nat × Nat × Nat × CmdEntry) :=
  s.vis.flatMap fun v => v.2.streams.filterMap fun x =>
    (s.eligible v.1 x.1).map fun e => (x.2.prio, v.1, x.1, e)

/-- The index of a stream (R32). -/
def streamIndex (vi st : Nat) : Nat := vi * 8 + st

/-- Of two eligible streams the one that has been eligible the longest; ties go to the lower index. -/
def State.older (s : State) (a b : Nat × Nat × Nat × CmdEntry) : Nat × Nat × Nat × CmdEntry :=
  let at_ := fun (p : Nat × Nat × Nat × CmdEntry) => ((s.stream p.2.1 p.2.2.1).since).getD s.now
  if at_ b < at_ a ∨ (at_ b = at_ a ∧ streamIndex b.2.1 b.2.2.1 < streamIndex a.2.1 a.2.2.1) then b else a

/-- The stream that the next grant goes to (R32), and whether by the first of its two rules. -/
def State.granted (s : State) : Option ((Nat × Nat × Nat × CmdEntry) × Bool) :=
  match s.eligibles with
  | [] => none
  | p :: ps =>
    let top := ps.foldl (fun m q => max m q.1) p.1
    let low := (p :: ps).filter fun q => decide (q.1 < top)
    match (if 64 ≤ s.grants then low else []) with
    | q :: qs => some (qs.foldl s.older q, true)
    | [] =>
      let same := (p :: ps).filter (·.1 == top)
      let last := AMap.get s.served top 511
      let dist := fun (q : Nat × Nat × Nat × CmdEntry) => (streamIndex q.2.1 q.2.2.1 + 1023 - last) % 512
      match same with
      | [] => none
      | q :: qs => some (qs.foldl (fun m r => if dist r < dist m then r else m) q, false)

/-- Notes since when the head of each stream has been eligible (R32). -/
def State.noteStreams (s : State) : State :=
  { s with vis := s.vis.map fun v =>
      (v.1, { v.2 with streams := v.2.streams.map fun x =>
        (x.1, { x.2 with since := if (s.eligible v.1 x.1).isSome then x.2.since <|> some s.now else none }) }) }

/-- The grant and the dispatch of the head of a stream: it counts as open until it completes (R32). -/
def State.take (s : State) (p : Nat × Nat × Nat × CmdEntry) (old : Bool) : State :=
  let low := s.eligibles.any fun q => decide (q.1 < p.1)
  let s1 := { s with grants := if old then 0 else if low then s.grants + 1 else s.grants,
                     served := AMap.set s.served p.1 (streamIndex p.2.1 p.2.2.1) }
  s1.modStream p.2.1 p.2.2.1 fun x =>
    { x with head := (x.head + 1) % 2 ^ x.lg, open_ := x.open_ + 1, since := none }

/-- Dispatches an entry: enabled when the grant goes to its stream, whose head it is. -/
def State.dispatch (s : State) (vi st : Nat) (e : CmdEntry) (name : String) (mine : Bool) (act : State → State) : Out :=
  match s.granted with
  | none => .refused (.notEnabled name)
  | some (p, old) =>
    happen (p.2.1 == vi && p.2.2.1 == st && p.2.2.2 == e && mine) name (act (s.take p old))

/-- A refusal at dispatch (R16). -/
def State.refuseCmd (s : State) (vi st code : Nat) (e : CmdEntry) (w1 : Nat) : State :=
  (s.modStream vi st fun x => { x with open_ := x.open_ - 1 }).refuse vi st code e.tag (BitVec.ofNat 64 w1)

/-- The first refusal code of a list of checks in the order of R16. -/
def firstCode : List (Bool × Nat) → Option Nat
  | [] => none
  | (b, c) :: cs => if b then some c else firstCode cs

/-- Applies the checks of R16, then the command. -/
def State.checked (s : State) (vi st : Nat) (e : CmdEntry) (checks : List (Bool × Nat)) (act : State → State) : State :=
  match firstCode checks with
  | some c => s.refuseCmd vi st c e 0
  | none => act s

/-- Words that a command does not use (R15). -/
def unused (ws : List W64) : Bool := ws.any (· ≠ 0)

/-! ## NOP, SIGNAL and WAIT (R15, R346) -/

/-- CMD_NOP (R15); an entry of a reserved kind is refused with code 1 (R16). -/
def execCmdNop (vi st : Nat) (e : CmdEntry) (s : State) : Out :=
  s.dispatch vi st e "CMD_NOP" (e.kind == 0 || decide (6 < e.kind)) fun s =>
    s.checked vi st e [(e.kind != 0 || headBad e || unused [e.w1, e.w2, e.w3, e.w4, e.w5, e.w6, e.w7], 1)] fun s =>
      s.doneCmd vi st e.tag e.notify

/-- The atomic of a SIGNAL, part of its dispatch (R15, R346; log entry 103). -/
def State.signal (s0 : State) (vi st : Nat) (e : CmdEntry) : State :=
  let a := e.w1.toNat
  let s := s0.seeEntry vi a
  match s.translate vi a true with
  | .error _ => s.refuseCmd vi st 2 e 0
  | .ok p =>
    let s1 := s.fillTlb vi a
    let b := s1.getBlk p.key p.die p.dfn p.blk
    if b.sb.state = .poisoned then s1.refuseCmd vi st 2 e 0
    else if s1.lostBlock p then
      (s1.loseBlock vi p).refuseCmd vi st 2 e 0
    else
      let new := if bitsOf e.w3 0 2 = 0 then wordOf b p.off + e.w2 else e.w2
      (((s1.correctAt p).writeD p.key p.die p.dfn p.blk p.off (leBytes 8 new.toNat)).heat p.die p.dfn).doneCmd
        vi st e.tag e.notify

/-- SIGNAL (R15, R346). -/
def execSignal (vi st : Nat) (e : CmdEntry) (s : State) : Out :=
  s.dispatch vi st e "SIGNAL" (e.kind == 2) fun s =>
    s.checked vi st e
      [(headBad e || bitsOf e.w3 2 62 ≠ 0 || unused [e.w4, e.w5, e.w6, e.w7], 1),
       (decide (e.w1.toNat % 8 ≠ 0) || decide (2 ≤ bitsOf e.w3 0 2), 2)] fun s => s.signal vi st e

/-- WAIT (R15, R346): the stream is held. -/
def execWait (vi st : Nat) (e : CmdEntry) (s : State) : Out :=
  s.dispatch vi st e "WAIT" (e.kind == 3) fun s =>
    s.checked vi st e
      [(headBad e || unused [e.w3, e.w4, e.w5, e.w6, e.w7], 1), (decide (e.w1.toNat % 8 ≠ 0), 2)] fun s0 =>
        let s := s0.seeEntry vi e.w1.toNat
        match s.translate vi e.w1.toNat false with
        | .error _ => s.refuseCmd vi st 2 e 0
        | .ok _ => s.modStream vi st fun x => { x with wait := some (e.w1.toNat, e.w2.toNat, e.tag, e.notify) }

/-- What a held WAIT observes: its condition, or that its semaphore cannot be reached (R346). -/
def State.waitSeen (s : State) (vi addr n : Nat) : Option Bool :=
  match s.translate vi addr false with
  | .error _ => some false
  | .ok p =>
    let b := s.getBlk p.key p.die p.dfn p.blk
    if b.sb.state = .poisoned ∨ s.lostBlock p then some false
    else if n ≤ (wordOf b p.off).toNat then some true else none

/-- WAIT_SATISFIED (R15, R346). -/
def execWaitSatisfied (vi st : Nat) (s : State) : Out :=
  match (s.stream vi st).wait with
  | none => .refused (.notEnabled "WAIT_SATISFIED")
  | some (addr, n, tag, notify) =>
    let s1 := (s.seeBlock vi addr).modStream vi st fun x => { x with wait := none }
    match s.waitSeen vi addr n with
    | none => .refused (.notEnabled "WAIT_SATISFIED")
    | some true => .next (s1.doneCmd vi st tag notify)
    | some false =>
      .next ((s1.modStream vi st fun x => { x with open_ := x.open_ - 1 }).refuse vi st 2 tag 0)

/-! ## LAUNCH (R15, R17, R18, R22, R347) -/

/-- Bytes of a range that may cross blocks; none where one cannot be read, or its media have failed. -/
def State.readAll (s : State) (vi addr n : Nat) : Option (List Byte) :=
  (List.range n).foldr (fun i acc =>
    match acc, s.translate vi (addr + i) false with
    | some bs, .ok p =>
      let b := s.getBlk p.key p.die p.dfn p.blk
      if b.sb.state = .poisoned ∨ s.lostBlock p then none else some (b.byte p.off :: bs)
    | _, _ => none) (some [])

/-- Whether every page of a range translates. -/
def State.mapped (s : State) (vi addr n : Nat) (write : Bool) : Bool :=
  (unitsOf addr n).all fun u => (s.translate vi u write).toOption.isSome

/-- An entry of a placement table: words e0 and e1 (R17). -/
abbrev PlEntry := W64 × W64

def PlEntry.core (e : PlEntry) : Nat := bitsOf e.1 0 10
def PlEntry.ctx (e : PlEntry) : Nat := bitsOf e.1 10 2
def PlEntry.va (e : PlEntry) : Nat := bitsOf e.1 12 4
def PlEntry.vb (e : PlEntry) : Nat := bitsOf e.1 16 4
def PlEntry.acc (e : PlEntry) : Nat := bitsOf e.1 20 3
def PlEntry.persist (e : PlEntry) : Bool := e.1.getLsbD 23
def PlEntry.pair (e : PlEntry) : Bool := e.1.getLsbD 24
def PlEntry.entry (e : PlEntry) : Nat := bitsOf e.1 32 32
def PlEntry.partner (e : PlEntry) : Nat := bitsOf e.2 48 10

/-- Whether the fields of an entry lie outside their ranges, for a grid (R17, R18). -/
def PlEntry.outOfRange (e : PlEntry) (gx gy gz : Nat) : Bool :=
  decide (12 < e.va) || decide (12 < e.vb) || decide (4 < e.acc) || bitsOf e.1 25 7 ≠ 0 ||
    decide (e.entry % 64 ≠ 0) || decide (0x8000 ≤ e.entry) || bitsOf e.2 58 6 ≠ 0 ||
    (!e.pair && e.partner != 0) ||
    (!e.persist && (decide (gx ≤ bitsOf e.2 0 16) || decide (gy ≤ bitsOf e.2 16 16) || decide (gz ≤ bitsOf e.2 32 16)))

/-- Whether entry `i` of a table breaks a condition of R18, of the entries that can be read. -/
def entryBad (es : List (Option PlEntry)) (cl : BitVec 128) (gx gy gz i : Nat) : Bool :=
  match es.getD i none with
  | none => false
  | some e =>
    e.outOfRange gx gy gz || !bmHas cl (e.core / 8) ||
      (((es.take i).filterMap id).any fun p => p.core == e.core && (p.ctx == e.ctx || p.pair || e.pair)) ||
      (e.pair && (e.partner == e.core ||
        (es.all (·.isSome) && !(es.filterMap id).any fun p => p.core == e.partner && p.pair && p.partner == e.core)))

/-- The entries of a table at dispatch, none where one cannot be read (R17). -/
def State.readEntries (s : State) (vi addr n : Nat) : List (Option PlEntry) :=
  (List.range n).map fun i => (s.readAll vi (addr + 16 * i) 16).map fun bs =>
    let ws := wordsAt bs 2
    (ws.getD 0 0, ws.getD 1 0)

/-- The placement table of a LAUNCH, or its refusal: code and entry index. An entry that breaks R18 comes before one
that cannot be read (R16, R18, R347; log entry 71). -/
def State.readTable (s : State) (vi addr : Nat) (cl : BitVec 128) (gx gy gz : Nat) : Except (Nat × Nat) (List PlEntry) :=
  match s.readAll vi addr 64 with
  | none => .error (2, 0)
  | some h =>
    let ws := wordsAt h 8
    let n := bitsOf (ws.getD 0 0) 0 16
    if n = 0 ∨ 4096 < n ∨ bitsOf (ws.getD 0 0) 16 48 ≠ 0 ∨ unused (ws.drop 1) then .error (4, 0xFFFFFFFF)
    else
      let es := s.readEntries vi (addr + 64) n
      match (List.range n).find? fun i => entryBad es cl gx gy gz i with
      | some i => .error (4, i)
      | none => if es.all (·.isSome) then .ok (es.filterMap id) else .error (2, 0)

/-- The task of an entry. -/
def PlEntry.task (e : PlEntry) (l : Nat) : Task :=
  { launch := l, core := e.core, ctx := e.ctx, va := e.va, vb := e.vb, acc := e.acc, persist := e.persist,
    pair := e.pair, entry := e.entry, coord := (e.2.extractLsb' 0 48).zeroExtend 64, partner := e.partner }

/-- Whether every page of a range has a leaf: a host-owned page or a poisoned frame translates (R22). -/
def State.translates (s : State) (vi addr n : Nat) : Bool :=
  (unitsOf addr n).all fun u => match s.translate vi u false with
    | .ok _ => true
    | .error f => f == .hostOwned || f == .framePoisoned

/-- The reads of a LAUNCH at dispatch: its table, and the pages of its images (R22, R347). -/
def State.seeLaunch (s : State) (vi : Nat) (e : CmdEntry) : State :=
  let s1 := s.seeBlocks vi e.w2.toNat 64
  let n := match s1.readAll vi e.w2.toNat 2 with | some h => min (leNat h) 4096 | none => 0
  let s2 := (s1.seeBlocks vi (e.w2.toNat + 64) (16 * n)).seePages vi e.w1.toNat 32768
  let v := s2.vi vi
  let vec := bitsOf v.hdVec 0 16
  if vec = 0 then s2 else s2.seePages 0 (v.hdBase.toNat + (vec - 0x8000)) (0x10000 - vec)

/-- The launch is dispatched: its tasks wait on their cores, in the order of the entries (R20). -/
def State.launch (s0 : State) (vi st : Nat) (e : CmdEntry) : State :=
  let s := s0.seeLaunch vi e
  let gx := bitsOf e.w3 0 16
  let gy := bitsOf e.w3 16 16
  let gz := bitsOf e.w3 32 16
  let d := bitsOf e.w4 0 4
  match s.readTable vi e.w2.toNat (s.dom d).clusters gx gy gz with
  | .error (c, i) => s.refuseCmd vi st c e i
  | .ok es =>
    let v := s.vi vi
    let vec := bitsOf v.hdVec 0 16
    if !s.mapped vi e.w1.toNat 32768 false ||
        (vec != 0 && !s.translates 0 (v.hdBase.toNat + (vec - 0x8000)) (0x10000 - vec)) then
      s.refuseCmd vi st 2 e 0
    else
      let l := s.nextLaunch
      let x : Launch := { vi := vi, stream := st, tag := e.tag, notify := e.notify, image := e.w1.toNat, arg := e.w5,
                          dom := d, gx := gx, gy := gy, gz := gz, next := 0, left := es.length, barred := [] }
      es.foldl (fun s p => s.modCore p.core fun c => { c with queue := c.queue ++ [p.task l] })
        { s with launches := AMap.set s.launches l x, nextLaunch := l + 1 }

/-- LAUNCH (R15, R18). -/
def execLaunch (vi st : Nat) (e : CmdEntry) (s : State) : Out :=
  s.dispatch vi st e "LAUNCH" (e.kind == 1) fun s =>
    s.checked vi st e
      [(headBad e || bitsOf e.w3 48 16 ≠ 0 || bitsOf e.w4 4 60 ≠ 0 || unused [e.w6, e.w7], 1),
       (decide (e.w1.toNat % 2048 ≠ 0) || decide (e.w2.toNat % 64 ≠ 0) || bitsOf e.w3 0 16 == 0 ||
          bitsOf e.w3 16 16 == 0 || bitsOf e.w3 32 16 == 0, 2),
       ((s.dom (bitsOf e.w4 0 4)).owner != vi, 3)] fun s => s.launch vi st e

/-! ## DOMAIN (R15, R34, R35, R270, R318) -/

/-- The clusters that some domain holds. -/
def State.boundClusters (s : State) : BitVec 128 := s.doms.foldl (fun b d => b ||| d.2.clusters) 0

/-- The checks that both DOMAIN operations share. -/
def domainChecks (s : State) (vi : Nat) (e : CmdEntry) : List (Bool × Nat) :=
  [(headBad e || bitsOf e.w1 4 4 ≠ 0 || bitsOf e.w1 9 55 ≠ 0 || unused [e.w4, e.w5, e.w6, e.w7], 1),
   ((s.dom (bitsOf e.w1 0 4)).owner != vi, 3)]

/-- DOMAIN bind (R34, R35, R270). -/
def execDomainBind (vi st : Nat) (e : CmdEntry) (s : State) : Out :=
  s.dispatch vi st e "DOMAIN_BIND" (e.kind == 4 && !e.w1.getLsbD 8) fun s =>
    let cl := e.clusters
    s.checked vi st e
      (domainChecks s vi e ++ [(vi != 0 && cl &&& ~~~(s.vi vi).grant != 0, 5), (cl &&& s.boundClusters != 0, 2)]) fun s =>
        ({ s.modDom (bitsOf e.w1 0 4) fun x =>
            { x with clusters := x.clusters ||| cl, ctr := if x.clusters = 0 ∧ cl ≠ 0 then 0 else x.ctr } with
          clSeq := s.clSeq.filter fun p => !bmHas cl p.1 }).doneCmd vi st e.tag e.notify

/-- Whether clusters hold a resident task. -/
def State.tenanted (s : State) (cl : BitVec 128) : Bool := s.ctxList.any fun p => bmHas cl (p.1 / 8) && p.2.2.resident

/-- Clusters leave a domain. -/
def State.unbind (s : State) (d : Nat) (cl : BitVec 128) : State :=
  s.modDom d fun x => { x with clusters := x.clusters &&& ~~~cl }

/-- Drops the collectives of a context that is released without issuing. -/
def State.dropColls (s : State) (k j : Nat) : State :=
  { s with colls := s.colls.filter fun c : Coll => !(c.core == k && c.ctx == j && !c.done) }

/-- Releases every task of a domain without issuing from it (R318). -/
def State.releaseAll (s : State) (d : Nat) : State :=
  (s.tasksOf d).foldl (fun s m => (s.dropColls m.1 m.2.1).freeCtx m.1 m.2.1) s

/-- The kill of a saved domain (R318). -/
def State.killDomain (s : State) (d : Nat) (cl : BitVec 128) : State :=
  let ls := ((s.tasksOf d).map fun m => m.2.2.launch).eraseDups
  let s1 := ((s.releaseAll d).modDom d fun x =>
    { x with saved := false, pend := false, forced := false, origin := none, flits := [], resuming := false }).unbind d cl
  ls.foldl (fun s l =>
    match AMap.find? s.launches l with
    | some x => if x.left = 0 then s.barrierReport d 3 x.tag else s
    | none => s) s1

/-- DOMAIN unbind (R34, R318): it stays incomplete while a named cluster holds a resident task. -/
def execDomainUnbind (vi st : Nat) (e : CmdEntry) (s : State) : Out :=
  s.dispatch vi st e "DOMAIN_UNBIND" (e.kind == 4 && e.w1.getLsbD 8) fun s =>
    let cl := e.clusters
    let d := bitsOf e.w1 0 4
    s.checked vi st e (domainChecks s vi e ++ [(cl &&& ~~~(s.dom d).clusters != 0, 2)]) fun s =>
      if (s.dom d).saved ∧ cl ≠ 0 then (s.killDomain d cl).doneCmd vi st e.tag e.notify
      else s.modDom d fun x => { x with unbinds := x.unbinds ++ [(vi, st, e.tag, e.notify, cl)] }

/-- The unbind of a stream that can complete: domain and entry. -/
def State.unbindDue (s : State) (vi st : Nat) : Option (Nat × (Nat × Nat × W32 × Bool × BitVec 128)) :=
  (List.range 16).findSome? fun d => ((s.dom d).unbinds.find? fun u =>
    u.1 == vi && u.2.1 == st && !s.tenanted u.2.2.2.2).map fun u => (d, u)

/-- DOMAIN_UNBIND_COMPLETE (R34). -/
def execDomainUnbindComplete (vi st : Nat) (s : State) : Out :=
  match s.unbindDue vi st with
  | none => .refused (.notEnabled "DOMAIN_UNBIND_COMPLETE")
  | some (d, u) =>
    .next (((s.modDom d fun x => { x with unbinds := x.unbinds.erase u }).unbind d u.2.2.2.2).doneCmd vi st
      u.2.2.1 u.2.2.2.1)

/-! ## PREEMPT (R15, R46, R316) -/

/-- Whether the save area of a domain can be used (R46, R47). -/
def State.areaOk (s : State) (d : Nat) : Bool :=
  let x := s.dom d
  bitsOf x.save 11 53 != 0 &&
    s.mapped x.owner (bitsOf x.save 11 53 * 2048) (clusterBytes * popN 128 x.clusters.toNat) true

/-- The latch (R46, R316): arrived members freeze; a failed barrier makes it a forced save; with no members
it is taken at once. -/
def State.latch (s : State) (d : Nat) : State :=
  let x := s.dom d
  if x.pend then s
  else
    let s1 := (s.modDom d fun y => { y with pend := true }).modAll ((s.members d).filter fun m => m.2.2.arrived)
      (Ctx.freeze s.now)
    if x.failed then s1.forceSave d
    else if (s.members d).isEmpty then
      (s1.modDom d fun y => { y with saving := true, forced := false }).modAll (s1.tasksOf d) (Ctx.freeze s.now)
    else s1

/-- PREEMPT (R46). -/
def execPreempt (vi st : Nat) (e : CmdEntry) (s : State) : Out :=
  s.dispatch vi st e "PREEMPT" (e.kind == 5) fun s =>
    let d := bitsOf e.w1 0 4
    s.checked vi st e
      [(headBad e || bitsOf e.w1 4 60 ≠ 0 || unused [e.w2, e.w3, e.w4, e.w5, e.w6, e.w7], 1),
       ((s.dom d).owner != vi, 3), (!(s.dom d).saved && !s.areaOk d, 2)] fun s =>
        if (s.dom d).saved then s.doneCmd vi st e.tag e.notify
        else (s.latch d).modDom d fun x => { x with waiters := x.waiters ++ [(vi, st, e.tag, e.notify)] }

/-! ## KEY (R271, R272) -/

/-- The checks that both KEY operations share: layout, and the target. -/
def keyChecks (vi : Nat) (e : CmdEntry) (install : Bool) : List (Bool × Nat) :=
  [(headBad e || bitsOf e.w1 1 7 ≠ 0 || bitsOf e.w1 14 50 ≠ 0 || unused [e.w3, e.w4, e.w5, e.w6, e.w7], 1),
   (install && decide (e.w2.toNat % 8 ≠ 0), 2), (vi != 0 && bitsOf e.w1 8 6 != vi, 5)]

/-- Whether the wrapped key unwraps under the transport key of the target (R271, R275; log entry 13). -/
def State.unwraps (s : State) (vi : Nat) (e : CmdEntry) : Bool :=
  match (s.vi (bitsOf e.w1 8 6)).tkey, s.readAll vi e.w2.toNat 72 with
  | some k, some bs => Config.unwrapOk k bs
  | _, _ => false

/-- KEY install (R271). -/
def execKeyInstall (vi st : Nat) (e : CmdEntry) (s : State) : Out :=
  s.dispatch vi st e "KEY_INSTALL" (e.kind == 6 && !e.w1.getLsbD 0) fun s =>
    let v := bitsOf e.w1 8 6
    s.checked vi st e (keyChecks vi e true ++ [((s.vi v).key != .empty || !s.unwraps vi e, 2)]) fun s =>
      (s.seeBlocks vi e.w2.toNat 72).modVi v fun x => { x with key := .installing, keyCmd := [(vi, st, e.tag, e.notify)] }

/-- The domains of an interface. -/
def State.domsOf (s : State) (v : Nat) : List Nat := (List.range 16).filter fun d => (s.dom d).owner == v

/-- Whether a domain of an interface has a member; the tasks of a saved domain are in its save area (R272). -/
def State.hasMember (s : State) (v : Nat) : Bool := (s.domsOf v).any fun d => (s.members d).any fun m => !m.2.2.saved

/-- KEY revoke (R272): the state is revoking, and the key is destroyed. One that meets an install or another revoke
under way completes with the revocation (log entry 72). -/
def execKeyRevoke (vi st : Nat) (e : CmdEntry) (s : State) : Out :=
  s.dispatch vi st e "KEY_REVOKE" (e.kind == 6 && e.w1.getLsbD 0) fun s =>
    let v := bitsOf e.w1 8 6
    s.checked vi st e (keyChecks vi e false ++ [(s.hasMember v, 2)]) fun s =>
      s.modVi v fun x => { x with key := .revoking, keyCmd := x.keyCmd ++ [(vi, st, e.tag, e.notify)] }

/-- The commands that wait for a key operation complete. -/
def State.keyDone (s : State) (v : Nat) : State :=
  (s.vi v).keyCmd.foldl (fun s c => s.doneCmd c.1 c.2.1 c.2.2.1 c.2.2.2) (s.modVi v fun x => { x with keyCmd := [] })

/-- KEY_INSTALL_COMPLETE (R271). -/
def execKeyInstallComplete (vi : Nat) (s : State) : Out :=
  happen ((s.vi vi).key == .installing) "KEY_INSTALL_COMPLETE"
    ((s.modVi vi fun x => { x with key := .live }).keyDone vi)

/-- The empty side-band over every slot of a set of clusters, without trades (R272). -/
def State.emptySlots (s : State) (cl : BitVec 128) : State :=
  { s with cores := s.cores.map fun kc => if bmHas cl (kc.1 / 8) then (kc.1, { kc.2 with sb := [] }) else kc,
           psb := s.psb.filter fun e => !bmHas cl (e.1 / 4096) }

/-- The end of a revocation (R272): TLB entries, slots, monitors and save areas of the interface. -/
def State.revoked (s : State) (v : Nat) : State :=
  let ds := s.domsOf v
  let cl := ds.foldl (fun b d => b ||| (s.dom d).clusters) 0
  let s1 : State := { s with dies := s.dies.map fun d => (d.1, { d.2 with tlb := d.2.tlb.filter (·.vi != v) }) }
  let s2 := (s1.emptySlots cl).mapCtxs fun _ _ x => if x.vi = v then { x with mon := .none } else x
  let s3 := ds.foldl (fun s d =>
    if (s.dom d).saved then
      (s.releaseAll d).modDom d fun x =>
        { x with saved := false, pend := false, forced := false, origin := none, flits := [], resuming := false }
    else s) s2
  (s3.modVi v fun x => { x with key := .empty, gen := x.gen + 1 }).keyDone v

/-- KEY_REVOKE_COMPLETE (R272). -/
def execKeyRevokeComplete (vi : Nat) (s : State) : Out :=
  happen ((s.vi vi).key == .revoking) "KEY_REVOKE_COMPLETE" (s.revoked vi)

end Sys2Proof.Machine
end

