-- ==== Sys2Proof/Machine/Affineur.lean ====
section
/-!
DEFINITION. The Affineur: policy and decay ticks (R79 to R81), frame swaps (R82, R83, R85, R305), revival
sweeps (R86), the map port (R76, R308), and the failures of channels and root ports (R306, R311 to R313).
-/

namespace Sys2Proof.Machine

/-! ## Locations (R76, R306) -/

/-- Whether an entry names a location: a poisoned one names none, since its location is lost. -/
def PEntry.names (e : PEntry) (t l : Nat) : Bool :=
  (e.state == 1 || e.state == 2 || e.state == 3) && e.tier == t && e.loc == l

/-- Whether a swap slot uses a location. -/
def Swap.uses (w : Swap) (t l : Nat) : Bool := (w.tierH == t && w.locH == l) || (w.tierC == t && w.locC == l)

/-- The frames of tier N (R77, R313). -/
def Die.nFrames (d : Die) : Nat := if d.rehash then d.wide * 1024 else 61440

/-- Whether a location exists on a die: tier F lies on the die's own root port (R75, R77), above the four
frames of the map image (R335). -/
def Die.exists_ (d : Die) (die t l : Nat) : Bool :=
  match t with
  | 0 => decide (l < d.nFrames)
  | 1 => decide (l < 131072)
  | 2 => decide (l / 2 ^ 29 = die) && decide (4 ≤ l % 2 ^ 29) &&
      decide (l % 2 ^ 29 < min 524288 (Config.tierFFrames die))
  | _ => false

/-- A spare location: one that no entry names (R76), in no swap and not lost. -/
def Die.spare (d : Die) (die t l : Nat) : Bool :=
  d.exists_ die t l && !(d.map.any fun e => e.2.names t l) && !(d.swaps.any fun w => w.2.uses t l) &&
    !d.lost.contains (t, l)

/-! ## Policy (R81) -/

/-- The hotness counter of a frame. -/
def Die.count (d : Die) (dfn : Nat) : Nat := AMap.get d.hot dfn 0

/-- The best candidate of a list of (effective count, number): the largest count, the lower number first. -/
def hottest : List (Nat × Nat) → Option (Nat × Nat)
  | [] => none
  | p :: ps => some (ps.foldl (fun a b => if a.1 < b.1 ∨ (a.1 = b.1 ∧ b.2 < a.2) then b else a) p)

/-- The smallest count, the lower number first. -/
def coldest : List (Nat × Nat) → Option (Nat × Nat)
  | [] => none
  | p :: ps => some (ps.foldl (fun a b => if b.1 < a.1 ∨ (a.1 = b.1 ∧ b.2 < a.2) then b else a) p)

/-- Whether a frame takes part in the policy: stable, unpinned, and not barred (R81, R305). -/
def Die.takesPart (d : Die) (dfn : Nat) (e : PEntry) : Bool := e.state == 1 && !e.pinned && !d.barred.contains dfn

/-- The hot frame: its effective count and number. -/
def Die.hotFrame (d : Die) : Option (Nat × Nat) :=
  hottest (d.map.filterMap fun e =>
    if d.takesPart e.1 e.2 ∧ (e.2.tier = 1 ∨ e.2.tier = 2) then
      some (if e.2.hint = 1 then 255 else d.count e.1, e.1) else none)

/-- The effective count of an N location that can be given up. -/
def Die.coldCount (d : Die) (die l : Nat) : Option Nat :=
  match List.find? (fun e : Nat × PEntry => e.2.names 0 l) d.map with
  | some e => if d.takesPart e.1 e.2 then some (if 2 ≤ e.2.hint then 0 else d.count e.1) else none
  | none => if d.spare die 0 l then some 0 else none

/-- The cold location: its effective count and number. -/
def Die.coldLoc (d : Die) (die : Nat) : Option (Nat × Nat) :=
  coldest ((List.range d.nFrames).filterMap fun l => (d.coldCount die l).map fun c => (c, l))

/-- The lowest free swap slot. -/
def Die.freeSlot (d : Die) : Option Nat := (List.range 8).find? fun k => (AMap.find? d.swaps k).isNone

/-- Starts a frame swap of a frame with a location, in a slot (R82). -/
def State.startSwap (s : State) (die slot hot tierC locC : Nat) : State :=
  let d := s.die die
  let e := s.pent die hot
  let cold := (List.find? (fun f : Nat × PEntry => f.2.names tierC locC) d.map).map (·.1)
  let w : Swap := { hot := hot, tierH := e.tier, locH := e.loc, cold := cold, tierC := tierC, locC := locC, p := 0,
                    back := false, why := 0, pAt := 0 }
  let s1 := (s.modDie die fun d => { d with swaps := AMap.set d.swaps slot w }).setPent die hot
    { e with state := 2, slot := slot }
  match cold with
  | none => s1
  | some c => s1.setPent die c { s1.pent die c with state := 2, slot := slot }

/-- A policy tick (R81, R306, R312): it reads the map; while tier N drains it brings no frame into N. -/
def State.policy (s0 : State) (die : Nat) : State :=
  let s := s0.seeMap die
  let d := s.die die
  let s1 := s.modDie die fun d => { d with ticked := s.now }
  if !d.en ∨ d.drain then s1
  else match d.freeSlot, d.hotFrame, d.coldLoc die with
    | some k, some (ch, hot), some (cc, loc) => if cc + d.margin < ch then s1.startSwap die k hot 0 loc else s1
    | _, _, _ => s1

/-- Whether a tick of a period exponent falls into this cycle and has not been taken. -/
def tickDue (now ex last : Nat) : Bool := decide (now % 2 ^ ex = 0) && decide (last < now)

/-- AFF_POLICY_TICK (R81). -/
def execAffPolicyTick (die : Nat) (s : State) : Out :=
  happen (tickDue s.now (s.die die).tick (s.die die).ticked) "AFF_POLICY_TICK" (s.policy die)

/-- AFF_DECAY_TICK (R79, R305). -/
def execAffDecayTick (die : Nat) (s : State) : Out :=
  happen (tickDue s.now (s.die die).decay (s.die die).decayed) "AFF_DECAY_TICK"
    (s.modDie die fun d => { d with hot := d.hot.map fun h => (h.1, h.2 / 2), barred := [], decayed := s.now })

/-! ## Block trades (R82, R83) -/

/-- The block at a place of level D as it stands: side-band and stored bytes. -/
def State.rawBlk (s : State) (die t l blk : Nat) : Block :=
  let n := blkKey die t l blk
  { sb := s.sbAt n, bytes := s.dmem.slice (n * 2048) 2048 }

/-- Puts a block at a place as it stands; its size code is that of the tier (R91). -/
def State.putRaw (s : State) (die t l blk : Nat) (b : Block) : State :=
  let n := blkKey die t l blk
  let size := if t < 2 ∧ b.sb.state = .present ∧ b.sb.stale.isNone then sizeCode b.bytes else 0
  { s.healed n (b.sb.state != .empty) with
    dsb := AMap.set s.dsb n { b.sb with size := size }, dmem := s.dmem.paste (n * 2048) 2048 b.bytes }

/-- The block at one end of a block trade as it is read, with the data of one that is not empty: an uncorrectable one
is written poisoned and moves so (R83, R305). -/
def State.liftBlk (s : State) (die dfn t l blk : Nat) : State :=
  let data := (s.rawBlk die t l blk).sb.state != .empty
  if s.unreadable die t l blk data then
    (s.markAt die t l blk .poisoned).fault (0 :: s.ownersOf die dfn) 6 0 die
      (BitVec.ofNat 64 (dpsOf dfn blk)) (BitVec.ofNat 64 t) 1
  else s.correct die t l blk data

/-- The costs of a block that moves (R83). -/
def State.moveCost (s : State) (die : Nat) (b : Block) : State :=
  match b.sb.state with
  | .empty => s.cost die 0 1 0
  | _ => s.cost die 1 0 1

/-- The exchange of block `k` of the two locations of a swap. -/
def State.swapBlk (s : State) (die : Nat) (w : Swap) (k : Nat) : State :=
  let s1 := (s.liftBlk die w.hot w.tierH w.locH k).liftBlk die (w.cold.getD w.hot) w.tierC w.locC k
  let a := s1.rawBlk die w.tierH w.locH k
  let b := s1.rawBlk die w.tierC w.locC k
  (((s1.putRaw die w.tierC w.locC k a).putRaw die w.tierH w.locH k b).moveCost die a).moveCost die b

/-- Both entries of a swap become stable at the places given, with counters of zero; the slot is free. -/
def State.endSwap (s : State) (die slot : Nat) (w : Swap) (tH lH tC lC : Nat) : State :=
  let e := s.pent die w.hot
  let s1 := s.setPent die w.hot { e with tier := tH, loc := lH, state := 1, slot := 0 }
  let s2 := match w.cold with
    | none => s1
    | some c => s1.setPent die c { s1.pent die c with tier := tC, loc := lC, state := 1, slot := 0 }
  s2.modDie die fun d =>
    { d with swaps := AMap.erase d.swaps slot,
             hot := (AMap.set (match w.cold with | none => d.hot | some c => AMap.set d.hot c 0) w.hot 0) }

/-- A frame is poisoned, with tier and loc zero, and reported (R306, R310): its location is lost. -/
def State.poisonFrame (s : State) (die dfn why : Nat) : State :=
  let e := s.pent die dfn
  let vs := s.ownersOf die dfn
  ((s.setPent die dfn { e with tier := 0, loc := 0, state := 4 }).modDie die fun d => { d with lost := d.lost ++ [(e.tier, e.loc)] }).fault
    (0 :: vs) 2 0x0D die (BitVec.ofNat 64 dfn) (BitVec.ofNat 64 why) (BitVec.ofNat 64 (vs.headD 0))

/-- A frame that a swap leaves on a root port that has been lost meanwhile is poisoned as the loss poisons every frame
that names the port (R306). -/
def State.portGone (s : State) (die dfn : Nat) : State :=
  let e := s.pent die dfn
  if e.state = 1 ∧ e.tier = 2 ∧ (s.die (e.loc / 2 ^ 29)).lostRp then s.poisonFrame die dfn 1 else s

/-- The end of a roll-back: old places, the report, and neither frame chosen until the next decay tick
(R85, R305, R310). -/
def State.rolledBack (s : State) (die slot : Nat) (w : Swap) : State :=
  let s1 := s.endSwap die slot w w.tierH w.locH w.tierC w.locC
  let s2 := (s1.modDie die fun d => { d with barred := (d.barred ++ w.hot :: w.cold.toList).eraseDups }).fault [0] 1
    0x0C die (BitVec.ofNat 64 w.hot) (BitVec.ofNat 64 w.locC)
    (BitVec.ofNat 64 (w.pAt + slot * 2048 + (if w.why = 1 then 65536 else 0)))
  (w.hot :: w.cold.toList).foldl (fun s f => s.portGone die f) s2

/-- A swap begins to roll back (R85). -/
def State.rollBack (s : State) (die slot : Nat) (w : Swap) (why : Nat) : State :=
  let w' := { w with back := true, why := why, pAt := w.p }
  if w.p = 0 then s.rolledBack die slot w'
  else s.modDie die fun d => { d with swaps := AMap.set d.swaps slot w' }

/-- A roll-back that cannot go on: both entries are poisoned (R305). -/
def State.swapLost (s : State) (die slot : Nat) (w : Swap) : State :=
  let s1 := (s.modDie die fun d =>
    { d with swaps := AMap.erase d.swaps slot, lost := d.lost ++ [(w.tierH, w.locH), (w.tierC, w.locC)] }).fault [0] 1
      0x0C die (BitVec.ofNat 64 w.hot) (BitVec.ofNat 64 w.locC)
      (BitVec.ofNat 64 (w.pAt + slot * 2048 + (if w.why = 1 then 65536 else 0)))
  (w.hot :: w.cold.toList).foldl (fun s f => s.poisonFrame die f 2) s1

/-! ## The drain of tier N (R312, R313) -/

/-- A spare location for a frame that leaves N: in C, else in F. -/
def Die.shelter (d : Die) (die : Nat) : Option (Nat × Nat) :=
  (((List.range 131072).find? fun l => d.spare die 1 l).map fun l => (1, l)) <|>
    (((List.range (min 524288 (Config.tierFFrames die))).find? fun l => d.spare die 2 (die * 2 ^ 29 + l)).map fun l =>
      (2, die * 2 ^ 29 + l))

/-- The frames that tier N holds. -/
def Die.inN (d : Die) : List Nat :=
  (d.map.filter fun e => (e.2.tier == 0 && (e.2.state == 1 || e.2.state == 3)) || (e.2.state == 2 &&
    d.swaps.any fun w => (w.2.hot == e.1 || w.2.cold == some e.1) && (w.2.tierH == 0 || w.2.tierC == 0))).map (·.1)

/-- The drain goes on: the next stable frame of N that is not barred moves out in each free slot; it ends when N
holds no frame, with the re-interleaved hash, and stops when no spare location is left (R305, R312). -/
def State.drainOn (s : State) (die : Nat) : Nat → State
  | 0 => s
  | n + 1 =>
    let d := s.die die
    if !d.drain then s
    else if d.inN = [] then
      (s.modDie die fun d => { d with drain := false, rehash := true, out := d.retired }).fault [0] 10 0 die 0 0 0
    else match d.freeSlot, (List.find? (fun e : Nat × PEntry =>
        e.2.tier == 0 && e.2.state == 1 && !d.barred.contains e.1) d.map) with
      | some k, some e => match d.shelter die with
        | some (t, l) => State.drainOn (s.startSwap die k e.1 t l) die n
        | none =>
          (s.modDie die fun d => { d with drain := false }).fault [0] 10 0 die 1 (BitVec.ofNat 64 d.inN.length) 0
      | _, _ => s

/-- At the end of a cycle every drain goes on: the die reads its map, and fills its free slots. -/
def State.drainAll (s : State) : State :=
  (List.range 4).foldl (fun s d => if (s.die d).drain then (s.seeMap d).drainOn d 9 else s) s

/-! ## AFF_BLOCK_TRADE, AFF_ABORT and the sweep -/

/-- The block that a swap trades next. -/
def Swap.next (w : Swap) : Nat := if w.back then w.p - 1 else w.p

/-- Whether a Capstan trade has a block of a swap's frames in flight (R82). -/
def State.swapHeld (s : State) (die : Nat) (w : Swap) : Bool :=
  s.entries.any fun t => match t.far with
    | .d _ => t.die == die && t.blk == w.next && (t.dfn == w.hot || some t.dfn == w.cold)
    | _ => false

/-- A block trade of a swap commits, or its far retry fails (R82, R85, R305). -/
def State.blockTrade (s : State) (die slot : Nat) (w : Swap) : State :=
  let far := w.tierH == 2 || w.tierC == 2
  if far && ((s.die die).lostRp || Config.freeBit s.free 9) then
    if w.back then s.swapLost die slot w else s.rollBack die slot w 1
  else
    let s1 := s.swapBlk die w w.next
    if w.back then
      if w.p ≤ 1 then s1.rolledBack die slot w
      else s1.modDie die fun d => { d with swaps := AMap.set d.swaps slot { w with p := w.p - 1 } }
    else if w.p + 1 = 1024 then s1.endSwap die slot w w.tierC w.locC w.tierH w.locH
    else s1.modDie die fun d => { d with swaps := AMap.set d.swaps slot { w with p := w.p + 1 } }

/-- AFF_BLOCK_TRADE (R82). -/
def execAffBlockTrade (die slot : Nat) (s : State) : Out :=
  match AMap.find? (s.die die).swaps slot with
  | none => .refused (.notEnabled "AFF_BLOCK_TRADE")
  | some w => happen (!s.swapHeld die w) "AFF_BLOCK_TRADE" ((s.blockTrade die slot w).fresh)

/-- The swaps of a mask roll back (R85). -/
def State.abortSwaps (s : State) (die : Nat) (mask : BitVec 8) : State :=
  (List.range 8).foldl (fun s k =>
    match AMap.find? (s.die die).swaps k with
    | some w => if mask.getLsbD k && !w.back then s.rollBack die k w 0 else s
    | none => s) s

/-- AFF_ABORT (R85): a write of the abort bits, which only an open host link brings (R274). -/
def execAffAbort (die : Nat) (mask : BitVec 8) (s : State) : Out :=
  happen (decide (die < 4)) "AFF_ABORT" (if s.linkUp then s.abortSwaps die mask else s)

/-- AFF_REVIVE_SWEEP (R86): the other blocks of a revived frame got the empty side-band in effect when it was
revived; the sweep makes the writes and clears revive. -/
def execAffReviveSweep (die dfn : Nat) (s : State) : Out :=
  let e := s.pent die dfn
  happen (e.revive && e.state != 2) "AFF_REVIVE_SWEEP"
    ((s.setPent die dfn { e with revive := false }).cost die 0 1023 0)

/-! ## The map port (R76, R308) -/

/-- Whether a trade in flight names a frame. -/
def State.frameBusy (s : State) (die dfn : Nat) : Bool :=
  s.entries.any fun t => match t.far with
    | .d _ => t.die == die && t.dfn == dfn
    | _ => false

/-- The effect of a go of the map port on a frame with a value of mp.entry: one of the three transitions, or a
refusal (R76). A frame that a revival has made stable under a reclaim refuses the reclaim that comes next (R308; log
entry 80). A frame that becomes unmapped has no pin and no hint (log entry 80). -/
def State.mapWrite (s0 : State) (die dfn : Nat) (w : W64) : State :=
  let s := s0.readEntry 0 die dfn
  let d := s.die die
  let e := s.pent die dfn
  let t := bitsOf w 0 2
  let l := bitsOf w 2 31
  let done := fun (s : State) (ok : Bool) => s.modDie die fun d => { d with mpRef := !ok }
  match e.state with
  | 0 =>
    if bitsOf w 33 3 = 1 ∧ (t = 3 ∨ d.spare die t l) then
      let s1 := (s.setPent die dfn { tier := t, loc := l, state := 1 }).modDie die fun d =>
        { d with hot := AMap.set d.hot dfn 0 }
      done (if t = 2 ∧ (s.die (l / 2 ^ 29)).lostRp then s1.poisonFrame die dfn 1 else s1) true
    else done s false
  | 3 =>
    if bitsOf w 33 3 = 0 then
      done (((s.clearFrame die e.tier e.loc).setPent die dfn {}).cost die 0 1024 0) true
    else done s false
  | 1 =>
    if w.getLsbD 36 then done s false
    else if e.again ∧ bitsOf w 33 3 = 0 then done (s.setPent die dfn { e with again := false }) false
    else done (s.setPent die dfn { e with pinned := false, again := false }) true
  | _ => done s false

/-- Whether a go of the map port can act: a frame with a trade in flight is not reclaimed under it (R57,
R308; log entry 80). -/
def State.mapReady (s : State) (die dfn : Nat) : Bool := !((s.pent die dfn).state == 3 && s.frameBusy die dfn)

/-- Goes of the map port act in their order, until one must wait for a trade in flight to commit: it and those behind
it wait. -/
def State.mapRun (s : State) (die : Nat) : List (W64 × W64) → State
  | [] => s.modDie die fun d => { d with mpWait := [] }
  | w :: ws =>
    if s.mapReady die (bitsOf w.1 0 20) then State.mapRun (s.mapWrite die (bitsOf w.1 0 20) w.2) die ws
    else s.modDie die fun d => { d with mpWait := w :: ws }

/-- A go of the map port, of the registers, behind those that wait (R76). -/
def State.mapGo (s : State) (die : Nat) : State :=
  let d := s.die die
  s.mapRun die (d.mpWait ++ [(d.mpDfn, d.mpEntry)])

/-- Whether a go that waits can act now. -/
def State.mapDue (s : State) (die : Nat) : Bool :=
  match (s.die die).mpWait with
  | w :: _ => s.mapReady die (bitsOf w.1 0 20)
  | [] => false

/-- MAP_PORT_GO (R76): the goes that wait, once the first of them can act; otherwise a go of the registers. Only
with the host link open do the registers answer (R274). -/
def execMapPortGo (die : Nat) (s : State) : Out :=
  happen (decide (die < 4)) "MAP_PORT_GO"
    (if !s.linkUp then s else if s.mapDue die then s.mapRun die (s.die die).mpWait else s.mapGo die)

/-! ## Media failures (R306, R311 to R313) -/

/-- The Bloom period in cycles: 1 to 168 hours at 3.3 GHz (R5, R311, R334). -/
def bloomPeriod : Nat := (if 1 ≤ Config.bloomHours ∧ Config.bloomHours ≤ 168 then Config.bloomHours else 24) * 11880000000000

/-- BLOOM_CLEAR (R311): the period, which is set at bring-up, has passed since the last clear. -/
def execBloomClear (die : Nat) (s : State) : Out :=
  happen (decide (die < 4) && decide ((s.die die).bloomAt + bloomPeriod ≤ s.now)) "BLOOM_CLEAR"
    (s.modDie die fun d => { d with bloom := [], bloomAt := s.now, repeats := [] })

/-- A channel fails: it is retired, or it is the second of its group (R312, R313). -/
def State.retire (s : State) (die g c : Nat) : State :=
  let d := s.die die
  if d.retired.any (·.1 == g) then s.modDie die fun d => { d with dead := d.dead ++ [(g, c)] }
  else
    (s.modDie die fun d => { d with retired := d.retired ++ [(g, c)], drain := true }).fault [0] 9 0 die
      (BitVec.ofNat 64 (2 * die + g / 2)) (BitVec.ofNat 64 (16 * (g % 2) + c)) 0

/-- The channels of a die that have shown repeats in more than 16 rows in one Bloom period, and are neither
retired nor dead: group and channel (R312). -/
def Die.worn (d : Die) : List (Nat × Nat) :=
  ((List.range 64).map fun u => (u / 16, u % 16)).filter fun p =>
    !(d.retired ++ d.dead).contains p &&
      decide (16 < (d.repeats.filter fun k => k / 2 ^ 26 == 16 * p.1 + p.2).length)

/-- CHANNEL_RETIRE (R312): the channel loses training, which an input says, or has shown too many repeats, upon which
the event is due (`State.due`). -/
def execChannelRetire (die group channel : Nat) (s : State) : Out :=
  let d := s.die die
  happen (decide (die < 4) && decide (group < 4) && decide (channel < 16) && !(d.retired ++ d.dead).contains (group, channel))
    "CHANNEL_RETIRE" (s.retire die group channel)

/-- ROOT_PORT_LOST (R306): every frame that names the port is poisoned; a frame in a swap is not, since its
slot holds both locations. -/
def State.losePort (s : State) (die : Nat) : State :=
  (List.range 4).foldl (fun s x =>
    ((s.die x).map.filter fun e => e.2.tier == 2 && e.2.loc / 2 ^ 29 == die && (e.2.state == 1 || e.2.state == 3)).foldl
      (fun s e => s.poisonFrame x e.1 1) s) (s.modDie die fun d => { d with lostRp := true })
def execRootPortLost (die : Nat) (s : State) : Out :=
  happen (decide (die < 4) && !(s.die die).lostRp) "ROOT_PORT_LOST" (s.losePort die)

end Sys2Proof.Machine
end

