-- ==== Sys2Proof/Machine/HostIf.lean ====
section
/-!
DEFINITION. The register views (R44, R264 to R270, R273, R275, R277), report queues (R266), the aperture and
contention for host pages (R269, R105, R307), and TLB invalidation (R73, R268).
-/

namespace Sys2Proof.Machine

/-- A register write of an interface; nothing happens while the link is closed. -/
def hostWrite (s : State) (s' : State) : Out := .next (if s.linkUp then s' else s)

/-- Bits `lo` to `lo + n − 1` of a word, in place. -/
def keepBits (v : W64) (lo n : Nat) : W64 := ((v.extractLsb' lo n).zeroExtend 64 : W64) <<< lo

/-! ## Streams (R265, R267) -/

/-- A write of sq.tail. -/
def State.sqTail (s : State) (vi st : Nat) (v : W64) : State :=
  s.modStream vi st fun x => { x with tail := bitsOf v 0 16 % 2 ^ x.lg }

/-- A legal lg of a ring. -/
def goodLg (n : Nat) : Bool := decide (2 ≤ n) && decide (n ≤ 16)

/-- A write of sq.ctl: lg only while en is 0; setting en starts at entry 0 (R265). -/
def State.sqCtl (s : State) (vi st : Nat) (v : W64) : State :=
  s.modStream vi st fun x =>
    let x1 := { x with lg := if !x.en && goodLg (bitsOf v 0 5) then bitsOf v 0 5 else x.lg, prio := bitsOf v 8 3 }
    if v.getLsbD 16 then
      if x.en then x1 else { x1 with en := true, head := 0, tail := 0 }
    else { x1 with en := false }

/-- SQ_TAIL_WRITE (R267). -/
def execSqTailWrite (vi st : Nat) (v : W64) (s : State) : Out := hostWrite s (s.sqTail vi st v)

/-- SQ_ENABLE (R265). -/
def execSqEnable (vi st : Nat) (v : W64) (s : State) : Out :=
  happen (v.getLsbD 16) "SQ_ENABLE" (if s.linkUp then s.sqCtl vi st v else s)

/-- SQ_DISABLE (R265). -/
def execSqDisable (vi st : Nat) (v : W64) (s : State) : Out :=
  happen (!v.getLsbD 16) "SQ_DISABLE" (if s.linkUp then s.sqCtl vi st v else s)

/-! ## Report queues (R266) -/

/-- Waiting records go into the queue while it has space. -/
def State.drainQueue (s : State) (vi q : Nat) : Nat → State
  | 0 => s
  | n + 1 =>
    let x := s.queue vi q
    match x.waiting with
    | [] => s
    | r :: rs => if x.full then s else State.drainQueue (s.placeRecord vi q { x with waiting := rs } r) vi q n

/-- A write of q.head: space for the records that wait. -/
def State.qHead (s : State) (vi q : Nat) (v : W64) : State :=
  let x := s.queue vi q
  let s1 := s.setQueue vi q { x with head := bitsOf v 0 16 % 2 ^ x.lg }
  s1.drainQueue vi q x.waiting.length

/-- QUEUE_HEAD_WRITE (R266). -/
def execQueueHeadWrite (vi q : Nat) (v : W64) (s : State) : Out := hostWrite s (s.qHead vi q v)

/-- A write of q.ctl: a larger ring has space for the records that wait. -/
def State.qCtl (s : State) (vi q : Nat) (v : W64) : State :=
  let x := s.queue vi q
  let s1 := s.setQueue vi q { x with lg := if goodLg (bitsOf v 0 5) then bitsOf v 0 5 else x.lg, en := v.getLsbD 16,
                                     irq := v.getLsbD 17 }
  s1.drainQueue vi q x.waiting.length

/-! ## Grants of pages and clusters (R87, R270), Shroud groups (R277, R324) -/

/-- EV_GRANT (R87): the migration fault handler learns of the grant. -/
def State.evGrant (s : State) (vi : Nat) (v : W64) : State :=
  s.modVi vi fun x => { x with granted := x.granted ++ [bitsOf v 0 32] }
def execEvGrant (vi : Nat) (v : W64) (s : State) : Out := hostWrite s (s.evGrant vi v)

/-- The clusters of the domains that an interface owns. -/
def State.ownedClusters (s : State) (v : Nat) : BitVec 128 := (s.domsOf v).foldl (fun b d => b ||| (s.dom d).clusters) 0

/-- A write of one word of the grant of interface `v`, from the privileged view (R270). -/
def State.grantWord (s : State) (vi v half : Nat) (w : W64) : State :=
  if vi ≠ 0 ∨ 64 ≤ v then s
  else s.modVi v fun x =>
    let new : BitVec 128 := if half = 0 then x.grant.extractLsb' 64 64 ++ w else w ++ x.grant.extractLsb' 0 64
    { x with grant := new ||| (x.grant &&& s.ownedClusters v) }

/-- GRANT_WRITE (R270). -/
def execGrantWrite (vi v half : Nat) (w : W64) (s : State) : Out := hostWrite s (s.grantWord vi v half w)

/-- A write of sg.ent, from the privileged view: the lost marks of the group clear (R277, R324). -/
def State.sgWord (s : State) (vi g : Nat) (w : W64) : State :=
  if vi ≠ 0 ∨ 256 ≤ g then s
  else { s with sg := AMap.set s.sg g (keepBits w 0 49), sgLost := AMap.erase s.sgLost g }

/-- SG_ENT_WRITE (R324). -/
def execSgEntWrite (vi g : Nat) (w : W64) (s : State) : Out := hostWrite s (s.sgWord vi g w)

/-! ## TLB invalidation (R73, R268) -/

/-- A go: ignored while busy. -/
def State.invGo (s : State) (vi : Nat) : State :=
  s.modVi vi fun v => if v.busy then v else { v with busy := true, goA := v.invA, goL := v.invL }

/-- TLB_INVALIDATE (R268). -/
def execTlbInvalidate (vi : Nat) (s : State) : Out := hostWrite s (s.invGo vi)

/-- Whether the invalidation under way covers a 64 KiB unit of a die. -/
def invCovers (v : Vi) (die unit n : Nat) : Bool :=
  let len := v.goL.toNat
  let lo := bitsOf v.goA 16 36
  let u := die * 2 ^ 34 + unit
  len == 0 || (decide (u < lo + len) && decide (lo < u + n))

/-- Whether an invalidation covers an address, or the page by which a TLB entry that it removes translates it. -/
def State.invTouches (s : State) (vi a : Nat) : Bool :=
  let v := s.vi vi
  invCovers v (dieOf a) (a % 2 ^ 50 / 2 ^ 16) 1 || match s.tlbFind vi a with
    | some e => invCovers v (dieOf a) e.unit e.n
    | none => false

/-- Every access of the interface that a removed entry translated has been performed, and the host has accepted the
writes into its memory (R73, R94). -/
def State.invDue (s : State) (vi : Nat) : Bool :=
  (s.vi vi).busy && s.unacc.isEmpty && s.ctxList.all fun p => p.2.2.vi != vi || p.2.2.cmds.all fun m =>
    match m.status with
    | .flight t => match t.far with
      | .d a => !s.invTouches vi a
      | _ => true
    | _ => true

/-- The claims of an interface that an invalidation clears. -/
def State.invClaims (s : State) (vi : Nat) : List Claim :=
  s.dies.flatMap fun d => d.2.claims.filter fun c => c.vi == vi && invCovers (s.vi vi) d.1 c.unit c.n

/-- The completion: no entry covers the range, and the claims of the pages clear (R73, R307); with each of the host,
the supervisor has released a page and posts that it is done (R87; log entry 83). -/
def State.invDone (s : State) (vi : Nat) : State :=
  let v := s.vi vi
  let gone := (s.invClaims vi).filter (·.host)
  let s1 : State := { s with dies := s.dies.map fun d =>
    (d.1, { d.2 with tlb := d.2.tlb.filter fun e => !(e.vi == vi && invCovers v d.1 e.unit e.n),
                     claims := d.2.claims.filter fun c => !(c.vi == vi && invCovers v d.1 c.unit c.n) }) }
  gone.foldl (fun s c => s.event c.vi 6) (s1.modVi vi fun v => { v with busy := false })

/-- TLB_INVALIDATE_COMPLETE (R73). -/
def execTlbInvalidateComplete (vi : Nat) (s : State) : Out := happen (s.invDue vi) "TLB_INVALIDATE_COMPLETE" (s.invDone vi)

/-! ## Router tables (R273, R319, R320) -/

/-- A swap of the routers' tables is requested; while busy only a mask of 0 acts. -/
def State.rtWrite (s : State) (mask : BitVec 16) : State :=
  if s.rtMask.isNone ∧ mask ≠ 0 then { s with rtMask := some mask } else s

/-- RT_SWAP (R273). -/
def execRtSwap (mask : BitVec 16) (s : State) : Out := hostWrite s (s.rtWrite mask)

/-- The held barriers of a mask are let go. -/
def State.rtRelease (s : State) (mask : BitVec 16) (at_ : Nat) : State :=
  (List.range 16).foldl (fun s d =>
    if mask.getLsbD d && (s.dom d).heldRt.isSome then
      s.modDom d fun x => { x with heldRt := none, latest := max x.latest at_ }
    else s) { s with rtMask := none }

/-- A mask of 0 while busy cancels the swap (R273). -/
def State.rtCancel (s : State) : State :=
  match s.rtMask with
  | none => s
  | some m => s.rtRelease m 0

/-- RT_SWAP_CANCEL (R273). -/
def execRtSwapCancel (s : State) : Out := hostWrite s s.rtCancel

/-- Whether every masked domain is held, with its chunks acknowledged, saved or without members (R273, R319). -/
def State.rtReady (s : State) : Bool :=
  match s.rtMask with
  | none => false
  | some m => (List.range 16).all fun d => !m.getLsbD d ||
      ((s.dom d).heldRt.isSome && s.chunksAcked d) || (s.dom d).saved || (s.members d).isEmpty

/-- The straggler count of a held domain goes on for the time that it was suspended (R273). -/
def Domain.resumeCount (now : Nat) (x : Domain) : Domain :=
  match x.heldRt, x.count with
  | some h, some c => { x with count := some (c + (now - h)) }
  | _, _ => x

/-- The tables swap, and the shadow becomes a copy of the new active one; each held barrier passes 31 cycles
later (R273). An uncorrectable shadow entry, which the copy reads, is reported by the die of the destination and
stays uncorrectable in both; one of the old active table is gone (R320). -/
def State.rtTake (s : State) : State :=
  match s.rtMask with
  | none => s
  | some m =>
    let s1 := (List.range 16).foldl (fun s d => s.modDom d (Domain.resumeCount s.now)) s
    let s2 := s1.rtShaBad.foldl (fun s i => s.rtReport (i / 2 ^ 14) i true) s1
    ({ s2 with rtAct := s2.rtSha, rtBad := s2.rtShaBad }).rtRelease m s.now

/-- RT_SWAP_TAKE (R273). -/
def execRtSwapTake (s : State) : Out := happen s.rtReady "RT_SWAP_TAKE" s.rtTake

/-- A write of rt.data: into the shadow table, at the place that rt.idx names. -/
def State.rtData (s : State) (v : W64) : State :=
  let e : RtEnt := { chan := bitsOf v 0 4, dom := bitsOf v 4 4, valid := v.getLsbD 8 }
  { s with rtSha := AMap.set s.rtSha (bitsOf s.rtIdx 0 16) e,
           rtShaBad := s.rtShaBad.filter (· != bitsOf s.rtIdx 0 16) }

/-! ## The mailbox (R275) -/

/-- Digest `i` of the measurement log. -/
def digest (i : Nat) : List Byte := (List.range 64).map fun b => Config.measurementLog.getD (64 * i + b) 0

/-- The measurement register after `n` extensions, from zero (R274; log entry 13). -/
def measuredAfter : Nat → List Byte
  | 0 => List.replicate 64 0
  | n + 1 => (List.range 64).map fun b => (Config.sha512 (measuredAfter n ++ digest n)).getD b 0

/-- The input of a mailbox operation. -/
def Vi.mbIn (v : Vi) (n : Nat) : List Byte := v.buf.bytes 0 n

/-- A buffer after an operation; the error bit clears. -/
def State.mbOut (s : State) (vi : Nat) (bs : List Byte) : State :=
  s.modVi vi fun v => { v with buf := v.buf.writeBytes 0 bs, mbErr := false, mbUses := v.mbUses + 1 }

/-- Bytes of an output that the spec does not list: signatures and keys (log entry 13). -/
def State.mbFree (s : State) (vi op nin lo n : Nat) : List Byte :=
  (List.range n).map fun i => Config.mailboxByte vi op ((s.vi vi).mbIn nin) (s.vi vi).mbUses (lo + i)

/-- A 66-byte big-endian number of P-521, below 2^521, of such an output (R275). -/
def State.mbP521 (s : State) (vi op nin lo : Nat) : List Byte :=
  match s.mbFree vi op nin lo 66 with
  | [] => []
  | b :: bs => (b &&& 1) :: bs

/-- The length of the log: a digest of 64 bytes for each extension. -/
def State.logLen (s : State) : Nat := 64 * s.measured

/-- Operation 1: quote. -/
def State.mbQuote (s : State) (vi : Nat) : State :=
  s.mbOut vi (measuredAfter s.measured ++ leBytes 8 s.logLen ++ s.mbP521 vi 1 64 72 ++ s.mbP521 vi 1 64 138)

/-- Part of a text from the offset in the buffer, with its length before it. -/
def State.mbPart (s : State) (vi : Nat) (text : List Byte) : State :=
  let off := leNat ((s.vi vi).mbIn 8)
  let bs := (text.drop off).take 1536
  s.mbOut vi (leBytes 8 bs.length ++ bs)

/-- Operation 2: log. -/
def State.mbLog (s : State) (vi : Nat) : State :=
  s.mbPart vi ((List.range s.measured).flatMap digest)

/-- Operation 3: certificate. -/
def State.mbCert (s : State) (vi : Nat) : State := s.mbPart vi Config.certificateChain

/-- Operation 4: transport: the device's key in SEC 1 form and a signature. A host key that is no point of the curve
sets error. -/
def State.mbTransport (s : State) (vi : Nat) : State :=
  let v := s.vi vi
  if Config.onCurve (v.mbIn 133) then
    (s.mbOut vi (0x04 :: ([1, 67, 133, 199].flatMap (s.mbP521 vi 4 133)))).modVi vi fun x => { x with tkey := some (vi + 64 * v.mbUses) }
  else s.modVi vi fun x => { x with mbErr := true }

/-- Whether the mailboxes answer: with the link open, and in recovery (R274). -/
def State.mbUp (s : State) : Bool := s.stage == 2 || s.stage == 3

/-- A mailbox operation by number. -/
def State.mbOp (s : State) (vi op : Nat) : State :=
  if !s.mbUp then s
  else match op with
    | 1 => s.mbQuote vi
    | 2 => s.mbLog vi
    | 3 => s.mbCert vi
    | 4 => s.mbTransport vi
    | _ => s.modVi vi fun v => { v with mbErr := true }

/-- MB_QUOTE, MB_LOG, MB_CERTIFICATE and MB_TRANSPORT (R275). -/
def execMbQuote (vi : Nat) (s : State) : Out := .next (s.mbOp vi 1)
def execMbLog (vi : Nat) (s : State) : Out := .next (s.mbOp vi 2)
def execMbCertificate (vi : Nat) (s : State) : Out := .next (s.mbOp vi 3)
def execMbTransport (vi : Nat) (s : State) : Out := .next (s.mbOp vi 4)

/-! ## REGISTER_WRITE (R44, R80, R264) -/

/-- A write of dom.ctl: owner from the privileged view while the domain is empty, strag.exp, resume (R34,
R44, R48). -/
def State.domCtl (s : State) (vi d : Nat) (v : W64) : State :=
  if !s.seesDomain vi d then s
  else
    let s1 := if vi = 0 ∧ (s.dom d).clusters = 0 then s.modDom d fun x => { x with owner := bitsOf v 16 6 } else s
    let s2 := s1.setStrag d (bitsOf v 0 6)
    if v.getLsbD 8 then s2.resumeGo d else s2

/-- A write of aff.ctl (R80, R85). -/
def State.affCtl (s : State) (die : Nat) (v : W64) : State :=
  let dec := bitsOf v 16 6
  let tk := bitsOf v 24 6
  (s.modDie die fun d =>
    { d with en := v.getLsbD 0, upin := v.getLsbD 1, margin := bitsOf v 8 8,
             decay := if 16 ≤ dec ∧ dec ≤ 40 then dec else d.decay,
             tick := if 10 ≤ tk ∧ tk ≤ 30 then tk else d.tick }).abortSwaps die (v.extractLsb' 32 8)

/-- A handler address that hd.vec takes (R22). -/
def goodVec (v : W64) : Bool :=
  v == 0 || (decide (0x8000 ≤ v.toNat) && decide (v.toNat ≤ 0xFFC0) && decide (v.toNat % 64 = 0))

/-- A write of a register of every interface's view, by offset (R264). -/
def State.ownWrite (s : State) (vi off : Nat) (v : W64) : State :=
  let r := off % 32
  if 0x100 ≤ off ∧ off < 0x200 then
    let st := (off - 0x100) / 32
    if r = 0 then s.modStream vi st fun x => if x.en then x else { x with base := keepBits v 6 58 ||| keepBits v 0 1 }
    else if r = 8 then s.sqCtl vi st v
    else if r = 16 then s.sqTail vi st v else s
  else if 0x200 ≤ off ∧ off < 0x260 then
    let q := (off - 0x200) / 32
    if r = 0 then s.setQueue vi q { s.queue vi q with base := keepBits v 6 58 ||| keepBits v 0 1 }
    else if r = 8 then s.qCtl vi q v
    else if r = 24 then s.qHead vi q v else s
  else if off = 0x260 then s.evGrant vi v
  else if 0x300 ≤ off ∧ off < 0x320 then
    s.modVi vi fun x => { x with root := AMap.set x.root ((off - 0x300) / 8) (keepBits v 14 27 ||| keepBits v 0 1) }
  else if off = 0x340 then s.modVi vi fun x => { x with invA := keepBits v 16 36 }
  else if off = 0x348 then s.modVi vi fun x => { x with invL := v }
  else if off = 0x350 then if v.getLsbD 0 then s.invGo vi else s
  else if 0x400 ≤ off ∧ off < 0x500 then
    let d := (off - 0x400) / 16
    if off % 16 = 0 then s.domCtl vi d v
    else if s.seesDomain vi d then s.modDom d fun x => { x with save := keepBits v 11 53 } else s
  else if off = 0x600 then s.modVi vi fun x => { x with ap := keepBits v 36 16 ||| keepBits v 0 1 }
  else s

/-- A write of a mailbox register (R275). -/
def State.mbWrite (s : State) (vi off : Nat) (v : W64) : State :=
  if off = 0x800 then s.mbOp vi (bitsOf v 0 8)
  else if 0x900 ≤ off then s.modVi vi fun x => { x with buf := x.buf.writeBytes (off - 0x900) (leBytes 8 v.toNat) }
  else s

/-- A write of a register of the privileged view (R264). mp.dfn and mp.entry keep all 64 bits (log entry 101). -/
def State.privWrite (s : State) (off : Nat) (v : W64) : State :=
  if off < 0x10400 then s.grantWord 0 ((off - 0x10000) / 16) (off / 8 % 2) v
  else if 0x10800 ≤ off ∧ off < 0x10C00 then
    let die := (off - 0x10800) / 256
    match off % 256 with
    | 0 => s.affCtl die v
    | 8 => s.modDie die fun d => { d with mpDfn := v }
    | 16 => s.modDie die fun d => { d with mpEntry := v }
    | 24 => if v.getLsbD 0 then s.mapGo die else s
    | _ => s
  else if off = 0x11000 then { s with rtIdx := keepBits v 0 16 }
  else if off = 0x11008 then s.rtData v
  else if off = 0x11010 then if bitsOf v 0 16 = 0 then s.rtCancel else s.rtWrite (v.extractLsb' 0 16)
  else if 0x12000 ≤ off ∧ off < 0x12800 then s.sgWord 0 ((off - 0x12000) / 8) v
  else if 0x13000 ≤ off ∧ off < 0x13400 then
    let x := (off - 0x13000) / 16
    if off % 16 = 0 then s.modVi x fun w => { w with hdBase := keepBits v 11 53 }
    else if goodVec v then s.modVi x fun w => { w with hdVec := v } else s
  else s

/-- A 64-bit write at an offset of an interface's register view (R264): offsets not listed ignore it. -/
def State.regWrite (s : State) (vi off : Nat) (v : W64) : State :=
  if 64 ≤ vi ∨ off % 8 ≠ 0 then s
  else if 0x800 ≤ off ∧ off < 0x1000 then if s.mbUp then s.mbWrite vi off v else s
  else if !s.linkUp then s
  else if off < 0x10000 then s.ownWrite vi off v
  else if vi = 0 then s.privWrite off v
  else s

/-- REGISTER_WRITE (R9, R264). -/
def execRegisterWrite (vi off : Nat) (v : W64) (s : State) : Out := .next (s.regWrite vi off v)

/-! ## Reading the register views (R44, R80, R264 to R268) -/

/-- A bit of an image. -/
def imageBit (b : Bool) (n : Nat) : Nat := if b then 2 ^ n else 0

/-- The image of a stream's register. -/
def State.sqRead (s : State) (vi st r : Nat) : Nat :=
  let x := s.stream vi st
  let fenced := match s.headEntry vi st with
    | some e => x.en && x.head != x.tail && e.fence && x.open_ != 0
    | none => false
  match r with
  | 0 => x.base.toNat
  | 8 => x.lg + x.prio * 256 + imageBit x.en 16
  | 16 => x.tail
  | 24 => x.head + imageBit (x.wait.isSome || fenced) 16
  | _ => 0

/-- The image of a queue's register. -/
def State.qRead (s : State) (vi q r : Nat) : Nat :=
  let x := s.queue vi q
  match r with
  | 0 => x.base.toNat
  | 8 => x.lg + imageBit x.en 16 + imageBit x.irq 17 + x.lost * 2 ^ 32
  | 16 => x.tail
  | 24 => x.head
  | _ => 0

/-- The image of dom.ctl (R44). -/
def State.domRead (s : State) (d : Nat) : Nat :=
  let x := s.dom d
  x.strag + imageBit x.pend 9 + imageBit x.saved 10 + imageBit (x.clusters ≠ 0) 11 + x.owner * 65536

/-- The code of key.state. -/
def KeyState.code : KeyState → Nat
  | .empty => 0
  | .installing => 1
  | .live => 2
  | .revoking => 3

/-- The image of a register of the privileged view. -/
def State.privRead (s : State) (off : Nat) : Nat :=
  if off < 0x10400 then ((s.vi ((off - 0x10000) / 16)).grant.extractLsb' (off / 8 % 2 * 64) 64).toNat
  else if 0x10800 ≤ off ∧ off < 0x10C00 then
    let d := s.die ((off - 0x10800) / 256)
    match off % 256 with
    | 0 => imageBit d.en 0 + imageBit d.upin 1 + d.margin * 256 + d.decay * 65536 + d.tick * 2 ^ 24 +
        (d.swaps.map fun w => 2 ^ (40 + w.1)).sum
    | 8 => d.mpDfn.toNat
    | 16 => d.mpEntry.toNat
    | 24 => imageBit d.mpRef 1
    | _ => 0
  else if off = 0x11000 then s.rtIdx.toNat
  else if off = 0x11008 then
    let e := AMap.get s.rtSha (bitsOf s.rtIdx 0 16) {}
    e.chan + e.dom * 16 + imageBit e.valid 8
  else if off = 0x11010 then imageBit s.rtMask.isSome 63
  else if 0x12000 ≤ off ∧ off < 0x12800 then (s.sgEnt ((off - 0x12000) / 8)).toNat
  else if 0x13000 ≤ off ∧ off < 0x13400 then
    let v := s.vi ((off - 0x13000) / 16)
    if off % 16 = 0 then v.hdBase.toNat else v.hdVec.toNat
  else 0

/-- The image of a register of an interface's view (R264); a read has no effect. -/
def State.regRead (s : State) (vi off : Nat) : W64 :=
  let v := s.vi vi
  BitVec.ofNat 64 (
    if 64 ≤ vi ∨ off % 8 ≠ 0 then 0
    else if off = 0x808 then imageBit v.mbBusy 0 + imageBit v.mbErr 1
    else if 0x900 ≤ off ∧ off < 0x1000 then leNat (v.buf.bytes (off - 0x900) 8)
    else if !s.linkUp then 0
    else if off = 0 then vi
    else if 0x100 ≤ off ∧ off < 0x200 then s.sqRead vi ((off - 0x100) / 32) (off % 32)
    else if 0x200 ≤ off ∧ off < 0x260 then s.qRead vi ((off - 0x200) / 32) (off % 32)
    else if 0x300 ≤ off ∧ off < 0x320 then (AMap.get v.root ((off - 0x300) / 8) 0).toNat
    else if off = 0x340 then v.invA.toNat
    else if off = 0x348 then v.invL.toNat
    else if off = 0x350 then imageBit v.busy 1
    else if 0x400 ≤ off ∧ off < 0x500 then
      let d := (off - 0x400) / 16
      if !s.seesDomain vi d then 0 else if off % 16 = 0 then s.domRead d else (s.dom d).save.toNat
    else if off = 0x500 then v.key.code
    else if off = 0x600 then v.ap.toNat
    else if vi = 0 ∧ 0x10000 ≤ off then s.privRead off
    else 0)

/-! ## The aperture (R105, R269, R307) -/

/-- What a host access through the aperture meets (R269, R307). -/
inductive HostSees where
  /-- it is performed there -/
  | at_ (p : Phys)
  /-- a tier H page whose own bit is 0 -/
  | device
  /-- it fails: the code and the reason of R310 -/
  | fails (code why : Nat)

/-- The translation of a host access: own does not keep it out (R87, R269). -/
def State.hostView (s : State) (vi addr : Nat) (write : Bool) : HostSees :=
  match s.leafOf vi addr with
  | none => .fails 7 1
  | some e =>
    let die := dieOf addr
    let dps := (bitsOf e.leaf 16 25 + (addr % 2 ^ 50 / 2 ^ 16 - e.unit)) * 2 ^ 16 + addr % 2 ^ 16
    let dfn := dps / 2 ^ 21 % 2 ^ 20
    let p := s.pent die dfn
    let key := bitsOf e.leaf 8 6
    if p.state = 0 ∨ 5 ≤ p.state ∨ !s.keyLive key ∨ (write ∧ !e.leaf.getLsbD 5) then .fails 7 1
    else if p.state = 4 then .fails 0x0D 2
    else if p.tier = 3 then
      if e.leaf.getLsbD 4 then
        .at_ { die := die, dfn := dfn, blk := dps / 2048 % 1024, off := dps % 2048, kind := bitsOf e.leaf 2 2, key := key }
      else .device
    else if (s.getBlk key die dfn (dps / 2048 % 1024)).sb.state = .poisoned then .fails 0x0E 3
    else .at_ { die := die, dfn := dfn, blk := dps / 2048 % 1024, off := dps % 2048, kind := bitsOf e.leaf 2 2, key := key }

/-- The report of a host access that cannot be performed (R269, R310). -/
def State.hostFail (s : State) (vi addr : Nat) (write : Bool) (code why : Nat) : State :=
  s.fault [vi, 0] 17 code (dieOf addr) (BitVec.ofNat 64 addr) (BitVec.ofNat 64 vi)
    (BitVec.ofNat 64 (imageBit write 0 + why * 2))

/-- A device request that loses its claim in the cycle in which it took it: it is refused, which is no
fault, and retries after the hold-down (R307). -/
def State.unclaim (s : State) (by_ : Option (Nat × Nat × Nat)) : State :=
  match by_ with
  | none => s
  | some (k, j, seq) => s.modCtx k j fun x =>
      { x with faults := x.faults.filter (fun r => r.seq != seq),
               cmds := x.cmds.map fun m => if m.seq = seq then { m with status := .queued, hold := some (s.now + holdDown), bad := none } else m }

/-- Whether a hold-down of host requests covers a device page (R307). -/
def Die.heldDown (d : Die) (u : Nat) : Bool := d.downs.any fun h => decide (h.1 ≤ u) && decide (u < h.1 + h.2.1)

/-- A host request for a tier H page that the device owns (R307): ignored during a hold-down of the page, also after
the claim that refused it has cleared. -/
def State.hostClaim (s : State) (vi addr : Nat) : State :=
  let post := fun s : State => s.fault [0] 8 0 (dieOf addr)
    (BitVec.ofNat 64 (s.pageStart vi addr)) (BitVec.ofNat 64 vi) 0
  if ((s.leafOf vi addr).map fun e => bitsOf e.leaf 16 25 + (addr % 2 ^ 50 / 2 ^ 16 - e.unit)).any
      (s.die (dieOf addr)).heldDown then s
  else match s.claimOn vi addr with
  | none => post (s.claim vi addr true none)
  | some c =>
    if c.host then s
    else if c.at_ = s.now then post ((s.setClaim addr c { c with host := true, by_ := none }).unclaim c.by_)
    else s.modDie (dieOf addr) fun d => { d with downs := d.downs ++ [(c.dpn, c.n, s.now + holdDown)] }

/-- A Cleat operation on the word of a host write that is performed now: the host write lands between its read
and its write (R105, R309). -/
def State.cleatRaces (s : State) (p : Phys) : Option (Nat × Nat × Cmd) :=
  s.ctxList.findSome? fun c => c.2.2.cmds.findSome? fun m =>
    if (s.rmwNow c.1 c.2.1 m).any fun q => q.die = p.die ∧ q.dfn = p.dfn ∧ q.blk = p.blk ∧ q.off / 8 = p.off / 8
    then some (c.1, c.2.1, m) else none

/-- A host write of bytes within a word at its place. Whether it lands within a Cleat operation, whose write of the
word then overwrites it, is a free value (R105, R309; log entry 81). In a frame of tier H it is the host's own write
(R94). -/
def State.hostPut (s : State) (p : Phys) (bs : List Byte) : State :=
  if (s.pent p.die p.dfn).tier = 3 ∧ (s.pent p.die p.dfn).state ≠ 3 then
    let e := s.pent p.die p.dfn
    ({ s.hostStore (hostAddr e.loc p.blk + p.off) bs with
        dsb := AMap.upd s.dsb (blkKey p.die 3 e.loc p.blk) farSb fun b => { b with touched := true } }).fire p.die
      (dpsOf p.dfn p.blk + p.off / 8 * 8) 8
  else match (if Config.freeBit s.free 10 then s.cleatRaces p else none) with
  | some (k, j, m) => s.rmwStep k j m
  | none => s.writeD p.key p.die p.dfn p.blk p.off bs

/-- A host access of up to 8 bytes within an aligned word. -/
def State.hostAccess (s0 : State) (vi addr : Nat) (write : Bool) (bs : List Byte) : State :=
  let s := s0.seeEntry vi addr
  match s.hostView vi addr write with
  | .fails code why => s.hostFail vi addr write code why
  | .device => s.hostClaim vi addr
  | .at_ p =>
    let s1 := s.fillTlb vi addr
    if s1.lostBlock p then (s1.loseBlock vi p).hostFail vi addr write 0x0E 3
    else
      let s2 := s1.correctAt p
      (if write then s2.hostPut p bs else s2).fresh

/-- The device address of an access through the aperture, where the aperture is open. -/
def State.apAddr (s : State) (vi off n : Nat) : Option Nat :=
  let v := s.vi vi
  if s.linkUp ∧ v.ap.getLsbD 0 ∧ 1 ≤ n ∧ off % 8 + n ≤ 8 ∧ off + n ≤ 2 ^ 36 then some (bitsOf v.ap 36 16 * 2 ^ 36 + off)
  else none

/-- HOST_APERTURE_READ (R269). -/
def execHostApertureRead (vi off n : Nat) (s : State) : Out :=
  match s.apAddr vi off n with
  | none => .refused (.notEnabled "HOST_APERTURE_READ")
  | some a => .next (s.hostAccess vi a false [])

/-- HOST_APERTURE_WRITE (R269). -/
def execHostApertureWrite (vi off n : Nat) (v : W64) (s : State) : Out :=
  match s.apAddr vi off n with
  | none => .refused (.notEnabled "HOST_APERTURE_WRITE")
  | some a => .next (s.hostAccess vi a true (leBytes n v.toNat))

/-- The bytes that a host read returns (R269): zeros where it cannot be performed. In a frame of tier H it reads host
memory, where a write of the device that the host has not accepted is not seen (R94, R345). -/
def State.hostReads (s : State) (vi addr n : Nat) : List Byte :=
  match s.hostView vi addr false with
  | .at_ p =>
    let e := s.pent p.die p.dfn
    let b := s.getBlk p.key p.die p.dfn p.blk
    (List.range n).map fun i =>
      if s.lostBlock p then 0
      else if e.tier = 3 ∧ e.state ≠ 3 then s.hostMem.read (hostAddr e.loc p.blk + p.off + i)
      else b.byte (p.off + i)
  | _ => List.replicate n 0

/-- Ends the hold-downs of host requests on a page whose time has come. -/
def State.holdEnd (s : State) (die page : Nat) : State :=
  s.modDie die fun d => { d with downs := d.downs.filter fun h => h.1 != page || decide (s.now < h.2.2) }

/-- CLAIM_HOLDDOWN_EXPIRE (R307), of a hold-down on the page that starts at device page `page`: the refused side
may ask again; a refused command retries by itself. -/
def execClaimHolddownExpire (die page : Nat) (s : State) : Out :=
  happen ((s.die die).downs.any fun h => h.1 == page && decide (h.2.2 ≤ s.now)) "CLAIM_HOLDDOWN_EXPIRE"
    (s.holdEnd die page)

end Sys2Proof.Machine
end

