-- ==== Sys2Proof/Machine/Bundle.lean ====
section
/-!
DEFINITION. The bundle that a context is due to issue (R138, R144 to R146): what fetch finds, its slots with
their meanings, and the issue of a bundle of any number of slots, in a gang (R230) or a redundant pair (R296).
-/

namespace Sys2Proof.Machine

/-- The meaning of the slot that an instruction stands in; an event has none. -/
def semOf : Instr → Sem
  | .sNop => semSNop
  | .sAdd d a b => semSAdd d a b
  | .sSub d a b => semSSub d a b
  | .sMul d a b => semSMul d a b
  | .sMulh d a b => semSMulh d a b
  | .sMulhu d a b => semSMulhu d a b
  | .sDiv d a b => semSDiv d a b
  | .sDivu d a b => semSDivu d a b
  | .sRem d a b => semSRem d a b
  | .sRemu d a b => semSRemu d a b
  | .sAnd d a b => semSAnd d a b
  | .sOr d a b => semSOr d a b
  | .sXor d a b => semSXor d a b
  | .sShl d a b => semSShl d a b
  | .sShr d a b => semSShr d a b
  | .sSra d a b => semSSra d a b
  | .sMin d a b => semSMin d a b
  | .sMax d a b => semSMax d a b
  | .sMinu d a b => semSMinu d a b
  | .sMaxu d a b => semSMaxu d a b
  | .sSlt d a b => semSSlt d a b
  | .sSltu d a b => semSSltu d a b
  | .sSeq d a b => semSSeq d a b
  | .sAddi d a imm => semSAddi d a imm
  | .sAndi d a imm => semSAndi d a imm
  | .sOri d a imm => semSOri d a imm
  | .sXori d a imm => semSXori d a imm
  | .sShli d a n => semSShli d a n
  | .sShri d a n => semSShri d a n
  | .sSrai d a n => semSSrai d a n
  | .sSlti d a imm => semSSlti d a imm
  | .sMovi d imm => semSMovi d imm
  | .sMovk d hw imm => semSMovk d hw imm
  | .sClz d a => semSClz d a
  | .sCtz d a => semSCtz d a
  | .sPop d a => semSPop d a
  | .sBext d a pos w1 => semSBext d a pos w1
  | .sBins d a pos w1 => semSBins d a pos w1
  | .sCrc d a b => semSCrc d a b
  | .sToa d a => semSToa d a
  | .sFroma d a => semSFroma d a
  | .sBc a => semSBc a
  | .sBz t off => semSBz t off
  | .sBnz t off => semSBnz t off
  | .sBlt t off => semSBlt t off
  | .sBge t off => semSBge t off
  | .sJmp off => semSJmp off
  | .sJr a => semSJr a
  | .sCall off => semSCall off
  | .sRet => semSRet
  | .sLoop a len1 => semSLoop a len1
  | .sNest a => semSNest a
  | .sWait a => semSWait a
  | .sLock a count => semSLock a count
  | .sSegEntry => semSSegEntry
  | .sSegCommit => semSSegCommit
  | .sIfence => semSIfence
  | .sBswap off => semSBswap off
  | .sCsrr d csr => semSCsrr d csr
  | .sCsrw a csr => semSCsrw a csr
  | .sCsrs a csr => semSCsrs a csr
  | .sCsrc a csr => semSCsrc a csr
  | .sTrap code => semSTrap code
  | .sBrk => semSBrk
  | .sEret => semSEret
  | .ldB o => semLdB o
  | .ldBu o => semLdBu o
  | .ldH o => semLdH o
  | .ldHu o => semLdHu o
  | .ldW o => semLdW o
  | .ldWu o => semLdWu o
  | .ldD o => semLdD o
  | .ldV o => semLdV o
  | .ldVs o => semLdVs o
  | .ldRing o => semLdRing o
  | .stB o => semStB o
  | .stH o => semStH o
  | .stW o => semStW o
  | .stD o => semStD o
  | .stV o => semStV o
  | .stVs o => semStVs o
  | .stRing o => semStRing o
  | .stI o => semStI o
  | .agAdd slot d b i => semAgAdd slot d b i
  | .agAddi slot d b off => semAgAddi slot d b off
  | .agMov slot d b => semAgMov slot d b
  | .agWrap slot d b i off => semAgWrap slot d b i off
  | .vAdd o => semVAdd o
  | .vSub o => semVSub o
  | .vMul o => semVMul o
  | .vFma o => semVFma o
  | .vFms o => semVFms o
  | .vFnma o => semVFnma o
  | .vMin o => semVMin o
  | .vMax o => semVMax o
  | .vAbs o => semVAbs o
  | .vNeg o => semVNeg o
  | .vClamp o => semVClamp o
  | .vRcp o => semVRcp o
  | .vRsq o => semVRsq o
  | .vSqrt o => semVSqrt o
  | .vExp2 o => semVExp2 o
  | .vLog2 o => semVLog2 o
  | .vRint o => semVRint o
  | .vCmp o => semVCmp o
  | .vSel o => semVSel o
  | .vKop o => semVKop o
  | .vKpop o => semVKpop o
  | .vIadd o => semVIadd o
  | .vIsub o => semVIsub o
  | .vImul o => semVImul o
  | .vImad o => semVImad o
  | .vAnd o => semVAnd o
  | .vOr o => semVOr o
  | .vXor o => semVXor o
  | .vShl o => semVShl o
  | .vShr o => semVShr o
  | .vSra o => semVSra o
  | .vPop o => semVPop o
  | .vClz o => semVClz o
  | .vImin o => semVImin o
  | .vImax o => semVImax o
  | .vCvt o => semVCvt o
  | .vPack o => semVPack o
  | .vUnpack o => semVUnpack o
  | .vPerm o => semVPerm o
  | .vRot o => semVRot o
  | .vZip o => semVZip o
  | .vUnzip o => semVUnzip o
  | .vSplat o => semVSplat o
  | .vExt o => semVExt o
  | .vIns o => semVIns o
  | .vIota o => semVIota o
  | .vRsum o => semVRsum o
  | .vRmax o => semVRmax o
  | .vRmin o => semVRmin o
  | .vScan o => semVScan o
  | .vArgmax o => semVArgmax o
  | .vSort o => semVSort o
  | .vMerge o => semVMerge o
  | .vRng o => semVRng o
  | .vMov o => semVMov o
  | .vXcp o => semVXcp o
  | .vMovi o => semVMovi o
  | .vPark o => semVPark o
  | .vUnpark o => semVUnpark o
  | .mPush pair side ring row lr => semMPush pair side ring row lr
  | .mShift bank => semMShift bank
  | .mZero bank => semMZero bank
  | .mAcc o => semMAcc o
  | .mDist o => semMDist o
  | .mDrain pair bank file reg cvt rnd => semMDrain pair bank file reg cvt rnd
  | .mTopk pair bank file reg k big => semMTopk pair bank file reg k big
  | .qNop => semQNop
  | .qLd base off => semQLd base off
  | .qLdt base off count => semQLdt base off count
  | .qSkip n => semQSkip n
  | .xXch cls mark cc a slot n1 => semXXch cls mark cc a slot n1
  | .xXchp cls cc a slot n1 => semXXchp cls cc a slot n1
  | .xXchn cls mark cc a => semXXchn cls mark cc a
  | .xXchs cls mark cc a b c c1 => semXXchs cls mark cc a b c c1
  | .xWin a b => semXWin a b
  | .xWadv cls cc ring m => semXWadv cls cc ring m
  | .xWcls cls cc ring => semXWcls cls cc ring
  | .xRing a => semXRing a
  | .xRwf ring n => semXRwf ring n
  | .xRwe ring n => semXRwe ring n
  | .xRap ring n => semXRap ring n
  | .xRac ring n => semXRac ring n
  | .xRst cls cc a b c g1 => semXRst cls cc a b c g1
  | .xPhase => semXPhase
  | .xPhq cc a => semXPhq cc a
  | .xRdv id => semXRdv id
  | .xGang mask => semXGang mask
  | .xGend => semXGend
  | .xAmo cls mark cc a b c d fn res => semXAmo cls mark cc a b c d fn res
  | .xAmov cls mark cc a b c d fn res c1 => semXAmov cls mark cc a b c d fn res c1
  | .xRedm cls mark cc a b op fmt n1 => semXRedm cls mark cc a b op fmt n1
  | .xMon cls mark cc a b => semXMon cls mark cc a b
  | .xMwait => semXMwait
  | .xColl cls cc a => semXColl cls cc a
  | .xCwait cc n => semXCwait cc n
  | .xCpoll cc a n => semXCpoll cc a n
  | .xCset cc v => semXCset cc v
  | .xNtile => semXNtile
  | .xProbe cc a b c w nf => semXProbe cc a b c w nf
  | .xDisc cls cc a b => semXDisc cls cc a b
  | .xHint cc a b tier pin => semXHint cc a b tier pin
  | .xHot cc a b => semXHot cc a b
  | .xFence cc kind scope => semXFence cc kind scope
  | .xYield => semXYield
  | .xHalt => semXHalt
  | .storeCommit .. => {}
  | .resultDeliver .. => {}
  | .cmdNop .. => {}
  | .launch .. => {}
  | .signal .. => {}
  | .wait .. => {}
  | .waitSatisfied .. => {}
  | .domainBind .. => {}
  | .domainUnbind .. => {}
  | .domainUnbindComplete .. => {}
  | .preempt .. => {}
  | .keyInstall .. => {}
  | .keyRevoke .. => {}
  | .launchComplete .. => {}
  | .taskAdmit .. => {}
  | .taskRelease .. => {}
  | .contextReady .. => {}
  | .contextSwitch .. => {}
  | .forcedSwitch .. => {}
  | .barrierPass .. => {}
  | .preemptSave .. => {}
  | .stragglerTimeout .. => {}
  | .stragExpWrite .. => {}
  | .domResume .. => {}
  | .resumeBarrier .. => {}
  | .barrierNetFail .. => {}
  | .tradePhaseA .. => {}
  | .tradePhaseB .. => {}
  | .tradeCommit .. => {}
  | .farRetryTimeout .. => {}
  | .windowRowPlace .. => {}
  | .ringTailMove .. => {}
  | .homeFlitSend .. => {}
  | .rstLanding .. => {}
  | .ntileDispense .. => {}
  | .ntileDeliver .. => {}
  | .cleatAtomic .. => {}
  | .cleatReduce .. => {}
  | .monitorArm .. => {}
  | .scaleLoadLand .. => {}
  | .scaleTileStage .. => {}
  | .scaleGroupMove .. => {}
  | .affPolicyTick .. => {}
  | .affDecayTick .. => {}
  | .affBlockTrade .. => {}
  | .affAbort .. => {}
  | .affReviveSweep .. => {}
  | .mapPortGo .. => {}
  | .bloomClear .. => {}
  | .channelRetire .. => {}
  | .rootPortLost .. => {}
  | .tlbInvalidate .. => {}
  | .tlbInvalidateComplete .. => {}
  | .rtSwap .. => {}
  | .rtSwapCancel => {}
  | .rtSwapTake => {}
  | .sqTailWrite .. => {}
  | .sqEnable .. => {}
  | .sqDisable .. => {}
  | .queueHeadWrite .. => {}
  | .evGrant .. => {}
  | .grantWrite .. => {}
  | .sgEntWrite .. => {}
  | .mbQuote .. => {}
  | .mbLog .. => {}
  | .mbCertificate .. => {}
  | .mbTransport .. => {}
  | .registerWrite .. => {}
  | .hostApertureRead .. => {}
  | .hostApertureWrite .. => {}
  | .claimHolddownExpire .. => {}
  | .delavoFlitReceive .. => {}
  | .delavoPortDown .. => {}
  | .delavoSignalTimeout .. => {}
  | .delavoPortUp .. => {}
  | .shroudChunkReceive .. => {}
  | .shroudChunkAck .. => {}
  | .shroudAbortNotice .. => {}
  | .shroudProgressTimeout .. => {}
  | .collComplete .. => {}
  | .powerOnReset => {}
  | .illegalEncoding .. => {}
  | .softError .. => {}
  | .hostWriteAccepted => {}
  | .placementCommandComplete .. => {}
  | .keyInstallComplete .. => {}
  | .keyRevokeComplete .. => {}

/-- The slots of a bundle with their meanings. -/
def Bundle.toSlots (b : Bundle) : List Slot :=
  b.slots.map fun w =>
    { kind := w.kind, raw := w.raw, ins := w.ins, sem := match w.ins with
        | .ok i => semOf i
        | .error _ => {} }

/-- The instructions of a bundle that decode. -/
def Bundle.toIns (b : Bundle) : List Instr :=
  b.slots.filterMap fun w => match w.ins with
    | .ok i => some i
    | .error _ => none

/-- The surroundings of a bundle at an address. -/
def State.envAt (s : State) (k j addr : Nat) (b : Bundle) : Env :=
  { s := s, k := k, j := j, pc := addr, len := b.len, hdr := b.header, kinds := b.slots.map (·.kind),
    ins := Bundle.toIns b }

/-! ## What may issue (R25, R26, R287, R296, R334) -/

/-- The context of a core that may issue in this cycle. -/
def State.readyOn (s : State) (k : Nat) : Option Nat :=
  let c := s.core k
  match c.run with
  | none => none
  | some j =>
    let x := c.ctx j
    if x.selectable && decide (c.issueAt ≤ s.now) && decide (x.notB ≤ s.now) && !c.heldB then some j else none

/-- Whether a core issues in this cycle; of a redundant pair the lower core issues for both, when both
may (R296). -/
def State.issues (s : State) (k : Nat) : Bool :=
  match s.readyOn k with
  | none => false
  | some j => match s.pairOf k j with
    | none => true
    | some p => decide (k < p.1) && s.readyOn p.1 == some p.2

/-! ## Gangs: what the members issue in a cycle (R230, R298) -/

/-- What a member of a gang is due to issue in a cycle: whether it has a bundle at all, its ganged beat, whether
the bundle notices a lost member, the header bit of the trap that it takes by itself, and whether it leaves the
gang with it. -/
structure MemberDue where
  at_   : Nat × Nat
  due   : Bool := false
  beat  : Option PeerBeat := none
  point : Bool := false
  bit   : Option Nat := none
  lost  : Bool := false
  /-- its trap is rewound or mirrored as a unit -/
  unit_ : Bool := false

/-- Whether the trap of a member is a rewind, or a 0x0A in place of one that partners mirror: its gang makes it as
a unit (R295, R298). -/
def State.rewinds (s : State) (m : Nat × Nat) (t : Trap) : Bool :=
  t.cause == 9 && (s.ctx m.1 m.2).inSeg &&
    (decide ((s.ctx m.1 m.2).rewinds < 3) || (s.partners m.1 m.2).any fun p => (s.ctx p.1 p.2).inSeg)

/-- What a member of a gang is due to issue in this cycle. -/
def State.memberDue (s : State) (g : Gang) (m : Nat × Nat) : MemberDue :=
  if s.readyOn m.1 ≠ some m.2 then { at_ := m }
  else match (s.core m.1).fetch s.free m.2 with
    | .bundle a b =>
      let e0 := s.envAt m.1 m.2 a b
      let e := e0.issuing
      let own := (firstTrap e (e0.slots (Bundle.toSlots b))).map (·.1)
      let trap := own <|> (deferred e).map (·.1)
      let ends := e.ins.any (fun i => match i with | .xHalt => true | _ => false) && !g.hasEnded m.1
      { at_ := m, due := true, beat := beatOf m.1 e.ins, point := lossPoint e, bit := trap.map (·.slot.getD 0),
        lost := match trap with
          | some t => !s.rewinds m t && t.cause != 0x16 && !g.hasEnded m.1
          | none => ends
        unit_ := trap.any (s.rewinds m) }
    | _ => { at_ := m, due := true, bit := some 0, lost := !g.hasEnded m.1 }

/-- The ganged beat that a member issues: none when its bundle traps by itself, also where it rewinds under 0x09 (log
entry 17). -/
def MemberDue.issued (d : MemberDue) : Option PeerBeat := if d.bit.isSome then none else d.beat

/-- The mask of the members whose beat is missing or differs from the leader's, or of the leader when only others
issue one (R230). -/
def clashMask (ds : List MemberDue) : Nat :=
  match ds with
  | [] => 0
  | l :: rest =>
    match l.issued with
    | some b => ((rest.filter fun d => match d.issued with
        | some p => !beatAgrees p b
        | none => true).map fun d => coreBit d.at_.1).sum
    | none => if rest.any (·.issued.isSome) then coreBit l.at_.1 else 0

/-- A member takes 0x16 at its bundle of this cycle, unless the bundle traps at a slot before (R146). -/
def MemberDue.takes (d : MemberDue) : Bool :=
  match d.bit with
  | none => true
  | some n => d.beat.isSome && decide (6 < n)

/-- The gang of a member as its first member issues in a cycle: beats that differ, or members that this cycle
loses, break it. Then 0x16 is due in the other members: at their bundle of the cycle where it is a ganged beat,
an x.rdv or an x.gend, in an x.rdv in which they wait, and later otherwise (R230, R298). -/
def State.census (s : State) (k j : Nat) : State :=
  match s.gangOf k j with
  | none => s
  | some g =>
    if g.seen = some s.now then s
    else
      let ds := g.members.map (s.memberDue g)
      let mask := clashMask ds
      let lost := ((ds.filter (·.lost)).map fun d => coreBit d.at_.1).sum
      let gone : Gang := { g with members := [], seen := some s.now, told := (ds.filter (·.due)).map (·.at_.1) }
      let rest := s.gangs.map fun h => if h = g then gone else h
      if mask ≠ 0 then
        ds.foldl (fun s d => if d.takes then s.modCore d.at_.1 fun c => c.gangDown d.at_.2 s.now (g.mask.toNat, mask)
          else s) { s with gangs := rest }
      else if lost ≠ 0 then
        let info := (g.mask.toNat, lost)
        ds.foldl (fun s d =>
          if d.lost then s
          else s.modCore d.at_.1 fun c =>
            let x := c.ctx d.at_.2
            let waits := match x.status with
              | .blocked ws _ => ws.any fun w => match w with | .rdv _ _ => true | _ => false
              | _ => false
            if d.point || waits then c.gangDown d.at_.2 s.now info else c.setCtx d.at_.2 { x with ltrap := some info })
          { s with gangs := rest }
      else
        let peers := (ds.drop 1).filterMap (·.issued)
        { s with gangs := s.gangs.map fun h => if h = g then { g with seen := some s.now, peers := peers } else h }

/-- The member of a core's gang whose bundle of this cycle rewinds the gang or takes 0x0A with it: it comes before
the other members, which then do not issue theirs (R295; log entry 17). Otherwise the core itself. -/
def State.firstIssuer (s : State) (k : Nat) : Nat :=
  match (s.readyOn k).bind (s.gangOf k) with
  | none => k
  | some g => if g.seen = some s.now then k else ((g.members.find? fun m => (s.memberDue g m).unit_).map (·.1)).getD k

/-- The member of a gang that issues next, when another member has begun the cycle: nothing comes between the
bundles that the members of a gang issue in one cycle. -/
def State.gangNext (s : State) : Option Nat :=
  (s.gangs.filter fun g => g.seen == some s.now).findSome? fun g =>
    (g.members.map (·.1) ++ g.told).find? s.issues

/-! ## The issue of a bundle -/

/-- The trap of a fetch that finds no bundle (R145, R138, R289). -/
def noSlotTrap (h : Byte) : Trap := { cause := 1, i1 := h.zeroExtend 64 }

/-- A context whose fetch finds no bundle traps when it is due to issue, unless a broken gang comes first. -/
def State.issueNone (s : State) (k j addr : Nat) (h : Byte) : State :=
  match (s.ctx k j).gtrap with
  | some g => s.take16 k j g none addr
  | none => s.takeTrap k j (noSlotTrap h) addr

/-- The program counter stands at the bundle's header once padding is skipped (R145). -/
def State.atAddr (s : State) (k j addr : Nat) : State :=
  if (s.ctx k j).pc = addr then s else s.modCtx k j fun x => { x with pc := addr }

/-- The issue of whatever a context is due to issue, alone or with its pair partner. -/
def State.issueDue (s : State) (k j : Nat) : State :=
  match (s.core k).fetch s.free j with
  | .crosses a h => s.issueNone k j a h
  | .pastEnd a h => s.issueNone k j a h
  | .bundle a b =>
    match s.pairOf k j with
    | none =>
      let t := s.atAddr k j a
      issueBundle (t.envAt k j a b) (Bundle.toSlots b) t
    | some p => match (s.core p.1).fetch s.free p.2 with
      | .crosses a' h => s.issueNone p.1 p.2 a' h
      | .pastEnd a' h => s.issueNone p.1 p.2 a' h
      | .bundle a' b' =>
        let t := (s.atAddr k j a).atAddr p.1 p.2 a'
        issuePair (t.envAt k j a b) (t.envAt p.1 p.2 a' b') (Bundle.toSlots b) (Bundle.toSlots b') t

/-- Whether what a context is due to issue has no definition (R158). -/
def State.undefined (s : State) (k j : Nat) : Bool :=
  match (s.core k).fetch s.free j with
  | .bundle _ b => b.slots.any fun w => match w.ins with
    | .ok _ => false
    | .error _ => true
  | _ => true

/-- The instruction of a bundle with one slot, and its address. -/
def State.single (s : State) (k j : Nat) : Option (Nat × Instr) :=
  match (s.core k).fetch s.free j with
  | .bundle a b => match b.slots with
    | [w] => match w.ins with
      | .ok i => some (a, i)
      | .error _ => none
    | _ => none
  | _ => none

/-- The rows of a bundle of `n` bytes at an address that stand in the instruction scratchpad. -/
def bundleRows (a n : Nat) : List Nat := (List.range ((a + n - 1) / 8 + 1 - a / 8)).map (a / 8 + ·)

/-- Fetch corrects single errors in the rows of the bundle that it reads, and counts them (R293). -/
def State.fetchScrub (s : State) (k j : Nat) : State :=
  if (s.core k).flips = [] then s
  else match (s.core k).fetch s.free j with
    | .bundle a b => s.modCore k fun c => (bundleRows a b.len).foldl (fun c r => c.scrub 5 r) c
    | _ => s

/-- The machine as core `k` begins to issue: the core at hand, the rows that fetch reads, and the beats of the other
members of a gang; a member that rewinds its gang does so before any of them. -/
def State.begin_ (s : State) (k j : Nat) : State :=
  let t : State := if s.cur = k then s else { s with cur := k }
  let u := match t.pairOf k j with
    | some p => (t.fetchScrub k j).fetchScrub p.1 p.2
    | none => t.fetchScrub k j
  match u.gangOf k j with
  | some g => if (u.memberDue g (k, j)).unit_ then u else u.census k j
  | none => u

end Sys2Proof.Machine
end

