-- ==== Sys2Proof/Machine/Boot.lean ====
section
/-!
DEFINITION. Reset and the boot order (R274, R334 to R336, R341), soft errors (R293), encodings without a
definition (R145, R158), and the acceptance of writes by host memory (R94).
-/

namespace Sys2Proof.Machine

/-! ## The march program (R341) -/

/-- The labels of the march program. -/
inductive MarchLabel where
  | ext | rep | nofail | pass | ploop | pw | pnext
deriving DecidableEq, Repr

/-- A bundle of the march program: its label, its slots, and a branch to a label. -/
structure MarchLine where
  label : Option MarchLabel
  slots : List Instr
  jmp   : Option (MarchLabel × (BitVec 19 → Instr))

def plain (l : Option MarchLabel) (is : List Instr) : MarchLine := { label := l, slots := is, jmp := none }
def jump (l t : MarchLabel) (f : BitVec 19 → Instr) : MarchLine := { label := some l, slots := [], jmp := some (t, f) }
def branch (t : MarchLabel) (f : BitVec 19 → Instr) : MarchLine := { label := none, slots := [], jmp := some (t, f) }

/-- An operand of ld.d or st.d at an offset from an a-register. -/
def marchLs (reg : BitVec 10) (base : BitVec 5) (off : BitVec 18) : LsOp :=
  { cls := 0, file := .s, reg := reg, base := base, idx := 0, off := off }

/-- The table, test mode, the injection (R341). -/
def marchStart : List MarchLine := [
  plain none [.sMovk 1 0 0xf800],
  plain none [.sMovk 1 1 0xf],
  plain none [.sToa 1 1],
  plain none [.sMovi 25 4],
  plain none [.sCsrw 25 0x020],
  plain none [.ldD (marchLs 2 1 0), .agAddi .st 2 1 16],
  plain none [.ldD (marchLs 26 1 8)],
  plain none [.sMovi 12 8191],
  plain none [.sNop],
  plain none [.sNop],
  plain none [.sNop],
  plain none [.sCsrw 26 0x072]]

/-- One extent: the six elements, and its repair entry. -/
def marchExtent : List MarchLine := [
  plain (some .ext) [.ldD (marchLs 4 2 0), .agAddi .st 2 2 8],
  plain none [.sMovi 14 8191],
  plain none [.sNop],
  plain none [.sNop],
  plain none [.sNop],
  plain none [.sBext 11 4 32 15],
  plain none [.sBext 10 4 0 22],
  plain none [.sAddi 28 11 8191],
  plain none [.sMovi 21 0],
  plain none [.sMovi 22 1],
  plain none [.sMovi 19 0],
  plain none [.sMovi 20 1],
  plain none [.sMovi 24 0],
  branch .pass .sCall,
  plain none [.sMovi 21 1],
  plain none [.sMovi 8 0],
  plain none [.sAddi 19 12 0],
  branch .pass .sCall,
  plain none [.sAddi 8 12 0],
  plain none [.sMovi 19 0],
  branch .pass .sCall,
  plain none [.sMovi 20 8191],
  plain none [.sAddi 24 28 0],
  plain none [.sMovi 8 0],
  plain none [.sAddi 19 12 0],
  branch .pass .sCall,
  plain none [.sAddi 8 12 0],
  plain none [.sMovi 19 0],
  branch .pass .sCall,
  plain none [.sMovi 20 1],
  plain none [.sMovi 24 0],
  plain none [.sMovi 8 0],
  plain none [.sMovi 22 0],
  branch .pass .sCall,
  branch .nofail (.sBlt 14),
  plain none [.sAddi 16 16 1],
  plain none [.sSlti 9 17 16],
  branch .rep (.sBnz 9),
  plain none [.sAddi 23 23 1],
  branch .nofail .sJmp,
  plain (some .rep) [.sMovk 27 1 0x40],
  plain none [.sAdd 31 27 17],
  plain none [.sShli 30 14 1],
  plain none [.sCsrw 31 0x070],
  plain none [.sOri 30 30 1],
  plain none [.sCsrw 30 0x071],
  plain none [.sAddi 17 17 1]]

/-- The next extent, or the summary status word and the end. -/
def marchEnd : List MarchLine := [
  plain (some .nofail) [.sAddi 3 3 1],
  plain none [.sSub 9 2 3],
  branch .ext (.sBnz 9),
  plain none [.sAddi 29 15 0],
  plain none [.sBins 29 16 16 7],
  plain none [.sBins 29 17 24 7],
  plain none [.sBins 29 23 32 7],
  plain none [.sSltu 30 0 15],
  plain none [.sBins 29 30 63 0],
  plain none [.stD (marchLs 29 1 2040)],
  plain none [.sCsrw 0 0x020],
  plain none [.xHalt]]

/-- One element over an extent. -/
def marchPass : List MarchLine := [
  plain (some .pass) [.sAdd 5 10 24],
  plain none [.sAddi 6 11 0],
  plain (some .ploop) [.sCsrw 5 0x070],
  branch .pw (.sBz 21),
  plain none [.sCsrr 7 0x071],
  plain none [.sXor 9 7 8],
  branch .pw (.sBz 9),
  plain none [.sAddi 15 15 1],
  branch .pw (.sBge 14),
  plain none [.sAddi 14 5 0],
  jump .pw .pnext (.sBz 22),
  plain none [.sCsrw 19 0x071],
  plain (some .pnext) [.sAdd 5 5 20],
  plain none [.sAddi 6 6 8191],
  branch .ploop (.sBnz 6),
  plain none [.sRet]]

/-- The listing of R341. -/
def marchProgram : List MarchLine := marchStart ++ marchExtent ++ marchEnd ++ marchPass

/-- The bytes of a bundle of several slots (R144). -/
def bundleBytes (is : List Instr) : List Byte :=
  let ws := is.filterMap fun i => (encode i).slot
  BitVec.ofNat 8 ((ws.map fun w => 2 ^ w.1.bit).sum) ::
    SlotKind.all.flatMap fun k => (ws.filter (·.1 == k)).flatMap fun w => leBytes k.width w.2

/-- The slots of a line whose bundle stands at `here`, with its label's target at `there` (R162). -/
def MarchLine.ins (l : MarchLine) (here there : Nat) : List Instr :=
  match l.jmp with
  | none => l.slots
  | some (_, f) => l.slots ++ [f (BitVec.ofInt 19 ((there : Int) - here))]

/-- The addresses of the bundles: one that would cross its line stands at the next (R145). -/
def layOut : Nat → List MarchLine → List (Nat × MarchLine)
  | _, [] => []
  | a, l :: ls =>
    let n := (bundleBytes (l.ins 0 0)).length
    let here := if a % 64 + n ≤ 64 then a else (a / 64 + 1) * 64
    (here, l) :: layOut (here + n) ls

/-- The march program as stage 2 writes it into half I0 (R334). -/
def marchImage : Mem :=
  let ls := layOut 0 marchProgram
  let find := fun t => ((List.find? (fun p : Nat × MarchLine => p.2.label == some t) ls).map (·.1)).getD 0
  ls.foldl (fun m p =>
    let there := (p.2.jmp.map fun t => find t.1).getD 0
    Mem.writeBytes m p.1 (bundleBytes (p.2.ins p.1 there))) []

/-! ## The boot order (R334 to R336) -/

/-- The boot context as step 6 releases it (R336). -/
def bootCtx : Ctx := { status := .ready, priv := true }

/-- A core after step 6: the march program in half I0, the extent table in working slot 511, and its boot
context released. -/
def bootCore : Core :=
  let c : Core := { heldB := false, run := some 0, ctxs := [(0, bootCtx)], imem := marchImage }
  c.spWrite 0xFF800 ((List.range 18).flatMap fun i => leBytes 8 (Config.extentWord i).toNat)

/-- Whether a block key lies on the media of a persistent far tier. -/
def persistentKey (n : Nat) : Bool :=
  n / (2 ^ 31 * 1024) % 4 == 2 && Config.tierFPersistent (n / (2 ^ 31 * 1024) / 4)

/-- A placement entry as a word (R75). -/
def PEntry.word (e : PEntry) : Nat :=
  e.tier + e.loc * 4 + e.state * 2 ^ 33 + (if e.pinned then 2 ^ 36 else 0) + e.hint * 2 ^ 37 + e.slot * 2 ^ 39 +
    if e.revive then 2 ^ 42 else 0

/-- A checkpoint of a die (R335): the supervisor writes the map image once every frame of tiers N and C has been
traded into F. When it makes one, no rule says: at the end of a cycle it may or not, a free value for each die (log
entry 100). -/
def State.checkpoint (s : State) (die : Nat) : State :=
  let es := (s.die die).map
  if s.stage == 2 && !es.isEmpty && (es.all fun e => e.2.state == 0 || decide (2 ≤ e.2.tier)) &&
      Config.tierFPersistent die && Config.freeBit s.free (32 + die) then
    let lo := blkKey die 2 (die * 2 ^ 29) 0 * 2048
    { s with dmem := es.foldl (fun m e => m.writeBytes (lo + 8 * e.1) (leBytes 8 e.2.word)) (s.dmem.clear lo (2 ^ 23)) }
  else s

/-- Entry number `dfn` of the map image of a die (R335). -/
def State.imageEntry (s : State) (die dfn : Nat) : W64 :=
  BitVec.ofNat 64 (leNat (s.dmem.bytes (blkKey die 2 (die * 2 ^ 29) 0 * 2048 + 8 * dfn) 8))

/-- Step 4: entries of the image that name tier F come back as stable (R335). -/
def State.reloadMap (s : State) (die : Nat) : State :=
  if !Config.tierFPersistent die then s
  else
    let lo := blkKey die 2 (die * 2 ^ 29) 0 * 2048
    let dfns := ((s.dmem.slice lo (2 ^ 23)).map fun c => c.1 / 8).eraseDups
    dfns.foldl (fun s dfn =>
      let w := s.imageEntry die dfn
      let st := bitsOf w 33 3
      if bitsOf w 0 2 = 2 ∧ 1 ≤ st ∧ st ≤ 3 then
        s.setPent die dfn { tier := 2, loc := bitsOf w 2 31, state := 1, pinned := w.getLsbD 36, hint := bitsOf w 37 2 }
      else s) s

/-- What a reset leaves: step 1, with what lies outside the device or is persistent (R334, R335). A key
installed later may or may not be the one that wrote the far tier (a free value). -/
def State.cleared (s : State) : State :=
  { State.reset with
    free := s.free + 1, inputs := s.inputs, hmem := s.hmem,
    dmem := s.dmem.filter fun c => persistentKey (c.1 / 2048),
    dsb := s.dsb.filter fun e => persistentKey e.1,
    vis := s.vis.foldl (fun m v =>
      AMap.upd m v.1 {} fun x => { x with gen := v.2.gen + Config.freeNat s.free (200 + v.1) % 2 }) State.reset.vis }

/-- Steps 1 to 6 of R334; a failed verification leaves every core in recovery mode (R274). What firmware
does that no rule states is an implementation's (log entry 12). -/
def State.powerOn (s : State) : State :=
  let r := s.cleared
  if Config.bootVerifies then
    let r1 := (List.range 4).foldl State.reloadMap r
    { r1 with coreDef := bootCore, stage := 1, measured := 2 }
  else { r with coreDef := { smode := 3 }, stage := 3, measured := Config.freeNat s.free 11 % 2 }

/-- POWER_ON_RESET (R334). -/
def execPowerOnReset (s : State) : Out := .next s.powerOn

/-! ## Soft errors (R293, R235, R301, R311, R320) -/

/-- A stored bit flips: an error that is there already goes. -/
def flipBit (f : Flip) (fs : List Flip) : List Flip := if fs.contains f then fs.filter (· != f) else fs ++ [f]

/-- Puts a number into a list, or takes it out. -/
def toggle (n : Nat) (l : List Nat) : List Nat := if l.contains n then l.filter (· != n) else l ++ [n]

def State.flipRow (s : State) (core : Nat) (f : Flip) : State :=
  s.modCore core fun c => { c with flips := flipBit f c.flips }

/-- The row in which an operand register, latch or hold register of a context starts. -/
def operRow (ctx code : Nat) : Nat :=
  if code < 1024 then (ctx * 64 + (code - 768)) * 16 else (ctx * 64 + 33 + (code - 1024)) * 16

/-- The effect of a soft error. -/
def State.flip (s : State) : FlipAt → State
  | .scratch core row bit => s.flipRow core { array := 0, row := row, bit := bit }
  | .window core row bit => s.flipRow core { array := 1, row := row, bit := bit }
  | .sreg core ctx reg bit => s.flipRow core { array := 6, row := ctx * 64 + reg, bit := bit }
  | .areg core ctx reg bit => s.flipRow core { array := 7, row := ctx * 32 + reg, bit := bit }
  | .vmain core u row bit => s.flipRow core { array := fileCode u, row := row, bit := bit }
  | .voper core ctx u code bit =>
    s.flipRow core { array := operArray u, row := operRow ctx code + bit / 64, bit := bit % 64 }
  | .acc core bank i j bit =>
    s.flipRow core { array := 10, row := bank * 512 + (32 * i + j) / 2, bit := j % 2 * 32 + bit }
  | .edge core ctx b bit =>
    s.flipRow core { array := 11, row := ctx * 32 + (if b then 16 else 0) + bit / 64, bit := bit % 64 }
  | .mask core ctx u k bit => s.flipRow core { array := 12, row := (kRow ctx u k).2.1, bit := bit }
  | .accum core bank i j bit =>
    s.modCore core fun c => { c with accs := AMap.upd c.accs bank {} fun b => b.flip i j bit }
  | .place die dfn copy bit =>
    s.modDie die fun d => { d with map := AMap.upd d.map dfn {} fun e =>
      if copy = 0 then { e with bad0 := toggle bit e.bad0 } else { e with bad1 := toggle bit e.bad1 } }
  | .instr core row bit => s.flipRow core { array := 5, row := row, bit := bit }
  | .transit core ctx seq =>
    s.modCtx core ctx fun x => { x with cmds := x.cmds.map fun m =>
      match m.status with
      | .flight t => if m.seq = seq then { m with status := .flight { t with bad := true } } else m
      | _ => m }
  | .sideband key => { s with mside := toggle key s.mside }
  | .slotSb core slot bit => s.flipRow core { array := 13, row := slot, bit := bit }
  | .pool cl sl => { s with phard := toggle (cl * 4096 + sl) s.phard }
  | .media key hard => if hard then { s with mhard := toggle key s.mhard } else { s with mflips := toggle key s.mflips }
  | .router idx shadow =>
    if shadow then { s with rtShaBad := toggle idx s.rtShaBad } else { s with rtBad := toggle idx s.rtBad }

/-- Whether a place is a stored bit of the device. -/
def FlipAt.exists_ : FlipAt → Bool
  | .scratch core row bit => decide (core < 1024) && decide (row < 131072) && decide (bit < 64)
  | .window core row bit => decide (core < 1024) && decide (row < 65536) && decide (bit < 64)
  | .sreg core ctx reg bit => decide (core < 1024) && decide (ctx < 4) && decide (reg < 64) && decide (bit < 64)
  | .areg core ctx reg bit =>
    decide (core < 1024) && decide (ctx < 4) && decide (1 ≤ reg) && decide (reg < 32) && decide (bit < 64)
  | .vmain core _ row bit => decide (core < 1024) && decide (row < 16384) && decide (bit < 64)
  | .voper core ctx _ code bit =>
    decide (core < 1024) && decide (ctx < 4) && (decide (768 ≤ code) && decide (code < 802) ||
      decide (1025 ≤ code) && decide (code < 1028)) && decide (bit < 1024)
  | .acc core bank i j bit =>
    decide (core < 1024) && decide (bank < 4) && decide (i < 32) && decide (j < 32) && decide (bit < 32)
  | .accum core bank i j bit =>
    decide (core < 1024) && decide (bank < 4) && decide (i < 32) && decide (j < 32) && decide (bit < 32)
  | .edge core ctx _ bit => decide (core < 1024) && decide (ctx < 4) && decide (bit < 1024)
  | .mask core ctx _ k bit =>
    decide (core < 1024) && decide (ctx < 4) && decide (1 ≤ k) && decide (k < 8) && decide (bit < 32)
  | .place die dfn copy bit => decide (die < 4) && decide (dfn < 2 ^ 20) && decide (copy < 2) && decide (bit < 64)
  | .instr core row bit => decide (core < 1024) && decide (row < 8192) && decide (bit < 64)
  | .transit core ctx _ => decide (core < 1024) && decide (ctx < 4)
  | .media .. => true
  | .sideband _ => true
  | .slotSb core slot bit => decide (core < 1024) && decide (slot < 640) && decide (bit < 64)
  | .pool cl sl => decide (cl < 128) && decide (sl < 4096)
  | .router idx _ => decide (idx < 65536)

/-- Whether an error can strike there now: a beat leaves a wrong cell only in an unchecked bank (R231). -/
def State.canFlip (s : State) : FlipAt → Bool
  | .accum core bank _ _ _ => !(AMap.get (s.core core).accs bank {}).checked
  | _ => true

/-- SOFT_ERROR (R293). -/
def execSoftError (at_ : FlipAt) (s : State) : Out :=
  happen (FlipAt.exists_ at_ && s.canFlip at_) "SOFT_ERROR" (s.flip at_)

/-! ## Encodings without a definition, and accepted writes -/

/-- ILLEGAL_ENCODING (R145, R146, R158): what the core is due to issue has no definition; the whole bundle is
suppressed, and the trap is that of the slot with the lowest header bit. -/
def execIllegalEncoding (core : Nat) (s : State) : Out :=
  match s.readyOn core with
  | none => .refused (.notEnabled "ILLEGAL_ENCODING")
  | some j => happen (s.undefined core j) "ILLEGAL_ENCODING" (s.issueDue core j)

/-- The host accepts one of the writes that it may accept next; which, is a free value (R94). -/
def State.acceptOne (s : State) : State :=
  let l := s.acceptable
  ({ s with unacc := s.unacc.eraseIdx (l.getD (Config.freeNat s.free 14 % l.length) 0) }).fresh

/-- HOST_WRITE_ACCEPTED (R94). -/
def execHostWriteAccepted (s : State) : Out := happen (!s.unacc.isEmpty) "HOST_WRITE_ACCEPTED" s.acceptOne

end Sys2Proof.Machine
end

