-- ==== Sys2Proof/Machine/Dispatch.lean ====
section
/-!
DEFINITION. The dispatch: one arm per constructor of `Instr`, each one direct call of its meaning.
-/

namespace Sys2Proof.Machine

def exec (i : Instr) (s : State) : Host.Outcome State Fault Refusal :=
  match i with
  | .sAdd d a b => Sys2Proof.Machine.execSAdd d a b s
  | .sSub d a b => Sys2Proof.Machine.execSSub d a b s
  | .sMul d a b => Sys2Proof.Machine.execSMul d a b s
  | .sMulh d a b => Sys2Proof.Machine.execSMulh d a b s
  | .sMulhu d a b => Sys2Proof.Machine.execSMulhu d a b s
  | .sDiv d a b => Sys2Proof.Machine.execSDiv d a b s
  | .sDivu d a b => Sys2Proof.Machine.execSDivu d a b s
  | .sRem d a b => Sys2Proof.Machine.execSRem d a b s
  | .sRemu d a b => Sys2Proof.Machine.execSRemu d a b s
  | .sAnd d a b => Sys2Proof.Machine.execSAnd d a b s
  | .sOr d a b => Sys2Proof.Machine.execSOr d a b s
  | .sXor d a b => Sys2Proof.Machine.execSXor d a b s
  | .sShl d a b => Sys2Proof.Machine.execSShl d a b s
  | .sShr d a b => Sys2Proof.Machine.execSShr d a b s
  | .sSra d a b => Sys2Proof.Machine.execSSra d a b s
  | .sMin d a b => Sys2Proof.Machine.execSMin d a b s
  | .sMax d a b => Sys2Proof.Machine.execSMax d a b s
  | .sMinu d a b => Sys2Proof.Machine.execSMinu d a b s
  | .sMaxu d a b => Sys2Proof.Machine.execSMaxu d a b s
  | .sSlt d a b => Sys2Proof.Machine.execSSlt d a b s
  | .sSltu d a b => Sys2Proof.Machine.execSSltu d a b s
  | .sSeq d a b => Sys2Proof.Machine.execSSeq d a b s
  | .sAddi d a imm => Sys2Proof.Machine.execSAddi d a imm s
  | .sAndi d a imm => Sys2Proof.Machine.execSAndi d a imm s
  | .sOri d a imm => Sys2Proof.Machine.execSOri d a imm s
  | .sXori d a imm => Sys2Proof.Machine.execSXori d a imm s
  | .sShli d a n => Sys2Proof.Machine.execSShli d a n s
  | .sShri d a n => Sys2Proof.Machine.execSShri d a n s
  | .sSrai d a n => Sys2Proof.Machine.execSSrai d a n s
  | .sSlti d a imm => Sys2Proof.Machine.execSSlti d a imm s
  | .sMovi d imm => Sys2Proof.Machine.execSMovi d imm s
  | .sMovk d hw imm => Sys2Proof.Machine.execSMovk d hw imm s
  | .sClz d a => Sys2Proof.Machine.execSClz d a s
  | .sCtz d a => Sys2Proof.Machine.execSCtz d a s
  | .sPop d a => Sys2Proof.Machine.execSPop d a s
  | .sBext d a pos w1 => Sys2Proof.Machine.execSBext d a pos w1 s
  | .sBins d a pos w1 => Sys2Proof.Machine.execSBins d a pos w1 s
  | .sCrc d a b => Sys2Proof.Machine.execSCrc d a b s
  | .sToa d a => Sys2Proof.Machine.execSToa d a s
  | .sFroma d a => Sys2Proof.Machine.execSFroma d a s
  | .sBc a => Sys2Proof.Machine.execSBc a s
  | .sBz t off => Sys2Proof.Machine.execSBz t off s
  | .sBnz t off => Sys2Proof.Machine.execSBnz t off s
  | .sBlt t off => Sys2Proof.Machine.execSBlt t off s
  | .sBge t off => Sys2Proof.Machine.execSBge t off s
  | .sJmp off => Sys2Proof.Machine.execSJmp off s
  | .sJr a => Sys2Proof.Machine.execSJr a s
  | .sCall off => Sys2Proof.Machine.execSCall off s
  | .sLoop a len1 => Sys2Proof.Machine.execSLoop a len1 s
  | .sNest a => Sys2Proof.Machine.execSNest a s
  | .sWait a => Sys2Proof.Machine.execSWait a s
  | .sLock a count => Sys2Proof.Machine.execSLock a count s
  | .sBswap off => Sys2Proof.Machine.execSBswap off s
  | .sCsrr d csr => Sys2Proof.Machine.execSCsrr d csr s
  | .sCsrw a csr => Sys2Proof.Machine.execSCsrw a csr s
  | .sCsrs a csr => Sys2Proof.Machine.execSCsrs a csr s
  | .sCsrc a csr => Sys2Proof.Machine.execSCsrc a csr s
  | .sTrap code => Sys2Proof.Machine.execSTrap code s
  | .ldB o => Sys2Proof.Machine.execLdB o s
  | .ldBu o => Sys2Proof.Machine.execLdBu o s
  | .ldH o => Sys2Proof.Machine.execLdH o s
  | .ldHu o => Sys2Proof.Machine.execLdHu o s
  | .ldW o => Sys2Proof.Machine.execLdW o s
  | .ldWu o => Sys2Proof.Machine.execLdWu o s
  | .ldD o => Sys2Proof.Machine.execLdD o s
  | .ldV o => Sys2Proof.Machine.execLdV o s
  | .ldVs o => Sys2Proof.Machine.execLdVs o s
  | .ldRing o => Sys2Proof.Machine.execLdRing o s
  | .stB o => Sys2Proof.Machine.execStB o s
  | .stH o => Sys2Proof.Machine.execStH o s
  | .stW o => Sys2Proof.Machine.execStW o s
  | .stD o => Sys2Proof.Machine.execStD o s
  | .stV o => Sys2Proof.Machine.execStV o s
  | .stVs o => Sys2Proof.Machine.execStVs o s
  | .stRing o => Sys2Proof.Machine.execStRing o s
  | .stI o => Sys2Proof.Machine.execStI o s
  | .agAdd slot d b ix => Sys2Proof.Machine.execAgAdd slot d b ix s
  | .agAddi slot d b off => Sys2Proof.Machine.execAgAddi slot d b off s
  | .agMov slot d b => Sys2Proof.Machine.execAgMov slot d b s
  | .agWrap slot d b ix off => Sys2Proof.Machine.execAgWrap slot d b ix off s
  | .vAdd o => Sys2Proof.Machine.execVAdd o s
  | .vSub o => Sys2Proof.Machine.execVSub o s
  | .vMul o => Sys2Proof.Machine.execVMul o s
  | .vFma o => Sys2Proof.Machine.execVFma o s
  | .vFms o => Sys2Proof.Machine.execVFms o s
  | .vFnma o => Sys2Proof.Machine.execVFnma o s
  | .vMin o => Sys2Proof.Machine.execVMin o s
  | .vMax o => Sys2Proof.Machine.execVMax o s
  | .vAbs o => Sys2Proof.Machine.execVAbs o s
  | .vNeg o => Sys2Proof.Machine.execVNeg o s
  | .vClamp o => Sys2Proof.Machine.execVClamp o s
  | .vRcp o => Sys2Proof.Machine.execVRcp o s
  | .vRsq o => Sys2Proof.Machine.execVRsq o s
  | .vSqrt o => Sys2Proof.Machine.execVSqrt o s
  | .vExp2 o => Sys2Proof.Machine.execVExp2 o s
  | .vLog2 o => Sys2Proof.Machine.execVLog2 o s
  | .vRint o => Sys2Proof.Machine.execVRint o s
  | .vCmp o => Sys2Proof.Machine.execVCmp o s
  | .vSel o => Sys2Proof.Machine.execVSel o s
  | .vKop o => Sys2Proof.Machine.execVKop o s
  | .vKpop o => Sys2Proof.Machine.execVKpop o s
  | .vIadd o => Sys2Proof.Machine.execVIadd o s
  | .vIsub o => Sys2Proof.Machine.execVIsub o s
  | .vImul o => Sys2Proof.Machine.execVImul o s
  | .vImad o => Sys2Proof.Machine.execVImad o s
  | .vAnd o => Sys2Proof.Machine.execVAnd o s
  | .vOr o => Sys2Proof.Machine.execVOr o s
  | .vXor o => Sys2Proof.Machine.execVXor o s
  | .vShl o => Sys2Proof.Machine.execVShl o s
  | .vShr o => Sys2Proof.Machine.execVShr o s
  | .vSra o => Sys2Proof.Machine.execVSra o s
  | .vPop o => Sys2Proof.Machine.execVPop o s
  | .vClz o => Sys2Proof.Machine.execVClz o s
  | .vImin o => Sys2Proof.Machine.execVImin o s
  | .vImax o => Sys2Proof.Machine.execVImax o s
  | .vCvt o => Sys2Proof.Machine.execVCvt o s
  | .vPack o => Sys2Proof.Machine.execVPack o s
  | .vUnpack o => Sys2Proof.Machine.execVUnpack o s
  | .vPerm o => Sys2Proof.Machine.execVPerm o s
  | .vRot o => Sys2Proof.Machine.execVRot o s
  | .vZip o => Sys2Proof.Machine.execVZip o s
  | .vUnzip o => Sys2Proof.Machine.execVUnzip o s
  | .vSplat o => Sys2Proof.Machine.execVSplat o s
  | .vExt o => Sys2Proof.Machine.execVExt o s
  | .vIns o => Sys2Proof.Machine.execVIns o s
  | .vIota o => Sys2Proof.Machine.execVIota o s
  | .vRsum o => Sys2Proof.Machine.execVRsum o s
  | .vRmax o => Sys2Proof.Machine.execVRmax o s
  | .vRmin o => Sys2Proof.Machine.execVRmin o s
  | .vScan o => Sys2Proof.Machine.execVScan o s
  | .vArgmax o => Sys2Proof.Machine.execVArgmax o s
  | .vSort o => Sys2Proof.Machine.execVSort o s
  | .vMerge o => Sys2Proof.Machine.execVMerge o s
  | .vRng o => Sys2Proof.Machine.execVRng o s
  | .vMov o => Sys2Proof.Machine.execVMov o s
  | .vXcp o => Sys2Proof.Machine.execVXcp o s
  | .vMovi o => Sys2Proof.Machine.execVMovi o s
  | .vPark o => Sys2Proof.Machine.execVPark o s
  | .vUnpark o => Sys2Proof.Machine.execVUnpark o s
  | .mPush pair side ring row lr => Sys2Proof.Machine.execMPush pair side ring row lr s
  | .mShift bank => Sys2Proof.Machine.execMShift bank s
  | .mZero bank => Sys2Proof.Machine.execMZero bank s
  | .mAcc o => Sys2Proof.Machine.execMAcc o s
  | .mDist o => Sys2Proof.Machine.execMDist o s
  | .mDrain pair bank file reg cvt rnd => Sys2Proof.Machine.execMDrain pair bank file reg cvt rnd s
  | .mTopk pair bank file reg k big => Sys2Proof.Machine.execMTopk pair bank file reg k big s
  | .qLd base off => Sys2Proof.Machine.execQLd base off s
  | .qLdt base off count => Sys2Proof.Machine.execQLdt base off count s
  | .qSkip n => Sys2Proof.Machine.execQSkip n s
  | .xXch cls mark cc a slot n1 => Sys2Proof.Machine.execXXch cls mark cc a slot n1 s
  | .xXchp cls cc a slot n1 => Sys2Proof.Machine.execXXchp cls cc a slot n1 s
  | .xXchn cls mark cc a => Sys2Proof.Machine.execXXchn cls mark cc a s
  | .xXchs cls mark cc a b c c1 => Sys2Proof.Machine.execXXchs cls mark cc a b c c1 s
  | .xWin a b => Sys2Proof.Machine.execXWin a b s
  | .xWadv cls cc ring m => Sys2Proof.Machine.execXWadv cls cc ring m s
  | .xWcls cls cc ring => Sys2Proof.Machine.execXWcls cls cc ring s
  | .xRing a => Sys2Proof.Machine.execXRing a s
  | .xRwf ring n => Sys2Proof.Machine.execXRwf ring n s
  | .xRwe ring n => Sys2Proof.Machine.execXRwe ring n s
  | .xRap ring n => Sys2Proof.Machine.execXRap ring n s
  | .xRac ring n => Sys2Proof.Machine.execXRac ring n s
  | .xRst cls cc a b c g1 => Sys2Proof.Machine.execXRst cls cc a b c g1 s
  | .xPhq cc a => Sys2Proof.Machine.execXPhq cc a s
  | .xRdv id => Sys2Proof.Machine.execXRdv id s
  | .xGang mask => Sys2Proof.Machine.execXGang mask s
  | .xAmo cls mark cc a b c d fn res => Sys2Proof.Machine.execXAmo cls mark cc a b c d fn res s
  | .xAmov cls mark cc a b c d fn res c1 => Sys2Proof.Machine.execXAmov cls mark cc a b c d fn res c1 s
  | .xRedm cls mark cc a b op fmt n1 => Sys2Proof.Machine.execXRedm cls mark cc a b op fmt n1 s
  | .xMon cls mark cc a b => Sys2Proof.Machine.execXMon cls mark cc a b s
  | .xColl cls cc a => Sys2Proof.Machine.execXColl cls cc a s
  | .xCwait cc n => Sys2Proof.Machine.execXCwait cc n s
  | .xCpoll cc a n => Sys2Proof.Machine.execXCpoll cc a n s
  | .xCset cc v => Sys2Proof.Machine.execXCset cc v s
  | .xProbe cc a b c w nf => Sys2Proof.Machine.execXProbe cc a b c w nf s
  | .xDisc cls cc a b => Sys2Proof.Machine.execXDisc cls cc a b s
  | .xHint cc a b tier pin => Sys2Proof.Machine.execXHint cc a b tier pin s
  | .xHot cc a b => Sys2Proof.Machine.execXHot cc a b s
  | .xFence cc kind scope => Sys2Proof.Machine.execXFence cc kind scope s
  | .storeCommit core => Sys2Proof.Machine.execStoreCommit core s
  | .resultDeliver core ctx => Sys2Proof.Machine.execResultDeliver core ctx s
  | .cmdNop vi st e => Sys2Proof.Machine.execCmdNop vi st e s
  | .launch vi st e => Sys2Proof.Machine.execLaunch vi st e s
  | .signal vi st e => Sys2Proof.Machine.execSignal vi st e s
  | .wait vi st e => Sys2Proof.Machine.execWait vi st e s
  | .waitSatisfied vi st => Sys2Proof.Machine.execWaitSatisfied vi st s
  | .domainBind vi st e => Sys2Proof.Machine.execDomainBind vi st e s
  | .domainUnbind vi st e => Sys2Proof.Machine.execDomainUnbind vi st e s
  | .domainUnbindComplete vi st => Sys2Proof.Machine.execDomainUnbindComplete vi st s
  | .preempt vi st e => Sys2Proof.Machine.execPreempt vi st e s
  | .keyInstall vi st e => Sys2Proof.Machine.execKeyInstall vi st e s
  | .keyRevoke vi st e => Sys2Proof.Machine.execKeyRevoke vi st e s
  | .launchComplete launch => Sys2Proof.Machine.execLaunchComplete launch s
  | .taskAdmit core => Sys2Proof.Machine.execTaskAdmit core s
  | .taskRelease core ctx => Sys2Proof.Machine.execTaskRelease core ctx s
  | .contextReady core ctx => Sys2Proof.Machine.execContextReady core ctx s
  | .contextSwitch core => Sys2Proof.Machine.execContextSwitch core s
  | .forcedSwitch core => Sys2Proof.Machine.execForcedSwitch core s
  | .barrierPass dom => Sys2Proof.Machine.execBarrierPass dom s
  | .preemptSave dom => Sys2Proof.Machine.execPreemptSave dom s
  | .stragglerTimeout dom => Sys2Proof.Machine.execStragglerTimeout dom s
  | .resumeBarrier dom => Sys2Proof.Machine.execResumeBarrier dom s
  | .tradePhaseA core ctx seq => Sys2Proof.Machine.execTradePhaseA core ctx seq s
  | .tradePhaseB core ctx seq => Sys2Proof.Machine.execTradePhaseB core ctx seq s
  | .tradeCommit core ctx seq => Sys2Proof.Machine.execTradeCommit core ctx seq s
  | .farRetryTimeout core ctx seq => Sys2Proof.Machine.execFarRetryTimeout core ctx seq s
  | .windowRowPlace core ctx seq => Sys2Proof.Machine.execWindowRowPlace core ctx seq s
  | .ringTailMove core ring => Sys2Proof.Machine.execRingTailMove core ring s
  | .homeFlitSend core => Sys2Proof.Machine.execHomeFlitSend core s
  | .rstLanding core => Sys2Proof.Machine.execRstLanding core s
  | .ntileDispense core ctx => Sys2Proof.Machine.execNtileDispense core ctx s
  | .ntileDeliver core ctx => Sys2Proof.Machine.execNtileDeliver core ctx s
  | .cleatAtomic core ctx seq => Sys2Proof.Machine.execCleatAtomic core ctx seq s
  | .cleatReduce core ctx seq => Sys2Proof.Machine.execCleatReduce core ctx seq s
  | .monitorArm core ctx seq => Sys2Proof.Machine.execMonitorArm core ctx seq s
  | .scaleLoadLand core ctx => Sys2Proof.Machine.execScaleLoadLand core ctx s
  | .scaleTileStage core ctx => Sys2Proof.Machine.execScaleTileStage core ctx s
  | .scaleGroupMove core ctx => Sys2Proof.Machine.execScaleGroupMove core ctx s
  | .affPolicyTick die => Sys2Proof.Machine.execAffPolicyTick die s
  | .affDecayTick die => Sys2Proof.Machine.execAffDecayTick die s
  | .affBlockTrade die slot => Sys2Proof.Machine.execAffBlockTrade die slot s
  | .affReviveSweep die dfn => Sys2Proof.Machine.execAffReviveSweep die dfn s
  | .tlbInvalidateComplete vi => Sys2Proof.Machine.execTlbInvalidateComplete vi s
  | .claimHolddownExpire die page => Sys2Proof.Machine.execClaimHolddownExpire die page s
  | .delavoPortDown port noSignal => Sys2Proof.Machine.execDelavoPortDown port noSignal s
  | .shroudChunkReceive core ctx seq rank chunk bytes => Sys2Proof.Machine.execShroudChunkReceive core ctx seq rank chunk bytes s
  | .shroudChunkAck core ctx seq chunk => Sys2Proof.Machine.execShroudChunkAck core ctx seq chunk s
  | .shroudProgressTimeout core ctx seq => Sys2Proof.Machine.execShroudProgressTimeout core ctx seq s
  | .collComplete core ctx seq => Sys2Proof.Machine.execCollComplete core ctx seq s
  | .illegalEncoding core => Sys2Proof.Machine.execIllegalEncoding core s
  | .placementCommandComplete core ctx seq => Sys2Proof.Machine.execPlacementCommandComplete core ctx seq s
  | .keyInstallComplete vi => Sys2Proof.Machine.execKeyInstallComplete vi s
  | .keyRevokeComplete vi => Sys2Proof.Machine.execKeyRevokeComplete vi s
  | .stragExpWrite vi dom v => Sys2Proof.Machine.execStragExpWrite vi dom v s
  | .domResume vi dom => Sys2Proof.Machine.execDomResume vi dom s
  | .barrierNetFail dom => Sys2Proof.Machine.execBarrierNetFail dom s
  | .affAbort die mask => Sys2Proof.Machine.execAffAbort die mask s
  | .mapPortGo die => Sys2Proof.Machine.execMapPortGo die s
  | .bloomClear die => Sys2Proof.Machine.execBloomClear die s
  | .channelRetire die group channel => Sys2Proof.Machine.execChannelRetire die group channel s
  | .rootPortLost die => Sys2Proof.Machine.execRootPortLost die s
  | .tlbInvalidate vi => Sys2Proof.Machine.execTlbInvalidate vi s
  | .rtSwap mask => Sys2Proof.Machine.execRtSwap mask s
  | .sqTailWrite vi st v => Sys2Proof.Machine.execSqTailWrite vi st v s
  | .sqEnable vi st v => Sys2Proof.Machine.execSqEnable vi st v s
  | .sqDisable vi st v => Sys2Proof.Machine.execSqDisable vi st v s
  | .queueHeadWrite vi q v => Sys2Proof.Machine.execQueueHeadWrite vi q v s
  | .evGrant vi v => Sys2Proof.Machine.execEvGrant vi v s
  | .grantWrite vi v half w => Sys2Proof.Machine.execGrantWrite vi v half w s
  | .sgEntWrite vi g w => Sys2Proof.Machine.execSgEntWrite vi g w s
  | .mbQuote vi => Sys2Proof.Machine.execMbQuote vi s
  | .mbLog vi => Sys2Proof.Machine.execMbLog vi s
  | .mbCertificate vi => Sys2Proof.Machine.execMbCertificate vi s
  | .mbTransport vi => Sys2Proof.Machine.execMbTransport vi s
  | .registerWrite vi off v => Sys2Proof.Machine.execRegisterWrite vi off v s
  | .hostApertureRead vi off n => Sys2Proof.Machine.execHostApertureRead vi off n s
  | .hostApertureWrite vi off n v => Sys2Proof.Machine.execHostApertureWrite vi off n v s
  | .delavoFlitReceive port crcOk => Sys2Proof.Machine.execDelavoFlitReceive port crcOk s
  | .delavoSignalTimeout port => Sys2Proof.Machine.execDelavoSignalTimeout port s
  | .delavoPortUp port => Sys2Proof.Machine.execDelavoPortUp port s
  | .shroudAbortNotice core ctx seq => Sys2Proof.Machine.execShroudAbortNotice core ctx seq s
  | .softError at_ => Sys2Proof.Machine.execSoftError at_ s
  | .sNop => Sys2Proof.Machine.execSNop s
  | .sRet => Sys2Proof.Machine.execSRet s
  | .sSegEntry => Sys2Proof.Machine.execSSegEntry s
  | .sSegCommit => Sys2Proof.Machine.execSSegCommit s
  | .sIfence => Sys2Proof.Machine.execSIfence s
  | .sBrk => Sys2Proof.Machine.execSBrk s
  | .sEret => Sys2Proof.Machine.execSEret s
  | .qNop => Sys2Proof.Machine.execQNop s
  | .xPhase => Sys2Proof.Machine.execXPhase s
  | .xGend => Sys2Proof.Machine.execXGend s
  | .xMwait => Sys2Proof.Machine.execXMwait s
  | .xNtile => Sys2Proof.Machine.execXNtile s
  | .xYield => Sys2Proof.Machine.execXYield s
  | .xHalt => Sys2Proof.Machine.execXHalt s
  | .rtSwapCancel => Sys2Proof.Machine.execRtSwapCancel s
  | .rtSwapTake => Sys2Proof.Machine.execRtSwapTake s
  | .powerOnReset => Sys2Proof.Machine.execPowerOnReset s
  | .hostWriteAccepted => Sys2Proof.Machine.execHostWriteAccepted s

end Sys2Proof.Machine
end

