-- ==== Sys2Proof/Machine/Turn.lean ====
section
/-!
DEFINITION. What the machine does next (log entry 2). Within a cycle come first the events whose cycle the spec
fixes; then, in an order that is a free value, the steps of engines and units that the spec leaves unordered,
the inputs of the outside world, and the issue of each core, in ascending order; then the cycle ends.
-/

namespace Sys2Proof.Machine

/-- Whether an event happens. -/
def happens : Out → Bool
  | .next _ => true
  | _ => false

/-- The first event of a list that happens. -/
def firstOf (l : List (Instr × Bool)) : Option Instr := (l.find? (·.2)).map (·.1)

/-- The listed contexts of a core. -/
def Core.listed (c : Core) : List Nat := c.ctxs.map (·.1)

/-- The commands of every context: core, context, issue number. -/
def State.cmdList (s : State) : List (Nat × Nat × Nat) :=
  s.ctxList.flatMap fun p => p.2.2.cmds.map fun m => (p.1, p.2.1, m.seq)

/-! ## Events whose cycle is fixed -/

/-- Those of a core: stores and results, scale loads, readiness and the selector (R25, R26, R95, R131, R239). -/
def State.coreDue (s : State) (k : Nat) (c : Core) : List (Instr × Bool) :=
  [(.storeCommit k, (c.storeDue s.now).any fun st => !c.defers st)] ++
    c.listed.map (fun j => (.resultDeliver k j, happens (execResultDeliver k j s))) ++
    c.listed.map (fun j => (.scaleLoadLand k j, happens (execScaleLoadLand k j s))) ++
    c.listed.map (fun j => (.scaleTileStage k j, happens (execScaleTileStage k j s))) ++
    c.listed.map (fun j => (.contextReady k j, happens (execContextReady k j s))) ++
    [(.contextSwitch k, happens (execContextSwitch k s)), (.forcedSwitch k, happens (execForcedSwitch k s)),
     (.homeFlitSend k, happens (execHomeFlitSend k s))]

/-- Those of commands and collectives: placed rows, the ends of retries and of patience (R68, R301, R323). -/
def State.cmdDue (s : State) : List (Instr × Bool) :=
  (s.cmdList.flatMap fun p =>
    [(.windowRowPlace p.1 p.2.1 p.2.2, happens (execWindowRowPlace p.1 p.2.1 p.2.2 s)),
     (.farRetryTimeout p.1 p.2.1 p.2.2, happens (execFarRetryTimeout p.1 p.2.1 p.2.2 s))]) ++
    s.colls.map fun c : Coll =>
      (.shroudProgressTimeout c.core c.ctx c.cmd, happens (execShroudProgressTimeout c.core c.ctx c.cmd s))

/-- Those of domains, dies and ports (R39, R45, R48, R76, R79, R81, R307, R311, R312, R321). -/
def State.unitDue (s : State) : List (Instr × Bool) :=
  ((List.range 16).flatMap fun d =>
    [(.barrierPass d, happens (execBarrierPass d s)), (.stragglerTimeout d, happens (execStragglerTimeout d s)),
     (.resumeBarrier d, happens (execResumeBarrier d s)),
     (.domResume (s.dom d).owner d, (s.dom d).resuming && s.areaFree d && happens (execDomResume (s.dom d).owner d s))]) ++
  ((List.range 4).flatMap fun d =>
    [(.affPolicyTick d, happens (execAffPolicyTick d s)), (.affDecayTick d, happens (execAffDecayTick d s))] ++
      (s.die d).downs.map fun h => (.claimHolddownExpire d h.1, happens (execClaimHolddownExpire d h.1 s))) ++
  ((List.range 4).flatMap fun d =>
    [(.mapPortGo d, s.mapDue d && happens (execMapPortGo d s)), (.bloomClear d, happens (execBloomClear d s))] ++
      (s.die d).worn.map fun p => (.channelRetire d p.1 p.2, happens (execChannelRetire d p.1 p.2 s))) ++
  s.ports.map fun p => (.delavoPortDown p.1 false, happens (execDelavoPortDown p.1 false s))

/-- The event that happens next because its cycle has come. -/
def State.due (s : State) : Option Instr :=
  firstOf (s.cores.flatMap (fun kc => s.coreDue kc.1 kc.2) ++ s.cmdDue ++ s.unitDue)

/-! ## Events that may happen now -/

/-- Steps of a command's engine or unit (R56, R102, R103, R252, R258). -/
def State.cmdMay (s : State) : List (Instr × Bool) :=
  s.cmdList.flatMap fun p =>
    [(.tradePhaseA p.1 p.2.1 p.2.2, happens (execTradePhaseA p.1 p.2.1 p.2.2 s)),
     (.tradePhaseB p.1 p.2.1 p.2.2, happens (execTradePhaseB p.1 p.2.1 p.2.2 s)),
     (.tradeCommit p.1 p.2.1 p.2.2, happens (execTradeCommit p.1 p.2.1 p.2.2 s)),
     (.cleatAtomic p.1 p.2.1 p.2.2, happens (execCleatAtomic p.1 p.2.1 p.2.2 s)),
     (.cleatReduce p.1 p.2.1 p.2.2, happens (execCleatReduce p.1 p.2.1 p.2.2 s)),
     (.monitorArm p.1 p.2.1 p.2.2, happens (execMonitorArm p.1 p.2.1 p.2.2 s)),
     (.placementCommandComplete p.1 p.2.1 p.2.2, happens (execPlacementCommandComplete p.1 p.2.1 p.2.2 s)),
     (.collComplete p.1 p.2.1 p.2.2, happens (execCollComplete p.1 p.2.1 p.2.2 s))]

/-- The chunks that the device itself can bring to a participant: its contribution, its own part, and at scope
0 what the other participants send; and the acknowledgements at scope 0 (R278). -/
def State.collMay (s : State) : List (Instr × Bool) :=
  s.colls.flatMap fun c : Coll =>
    let recv := fun q i => (Instr.shroudChunkReceive c.core c.ctx c.cmd q i [],
      happens (execShroudChunkReceive c.core c.ctx c.cmd q i [] s))
    let ranks := if c.scope = 0 then List.range c.n else [c.rank]
    let chunks := (List.range c.total).filter fun i => (AMap.find? c.got i).isNone
    (if c.taken then ranks.flatMap fun q => chunks.map (recv q) else [recv c.rank 0]) ++
      (if c.scope = 0 then (List.range c.total).map fun i =>
        (.shroudChunkAck c.core c.ctx c.cmd i, happens (execShroudChunkAck c.core c.ctx c.cmd i s)) else []) ++
      [(.shroudAbortNotice c.core c.ctx c.cmd, s.noticed c && happens (execShroudAbortNotice c.core c.ctx c.cmd s))]

/-- The command that a stream dispatches next (R15, R32). -/
def State.cmdNext (s : State) : List (Instr × Bool) :=
  match s.granted with
  | none => []
  | some ((_, vi, st, e), _) =>
    [(.cmdNop vi st e, happens (execCmdNop vi st e s)), (.launch vi st e, happens (execLaunch vi st e s)),
     (.signal vi st e, happens (execSignal vi st e s)), (.wait vi st e, happens (execWait vi st e s)),
     (.domainBind vi st e, happens (execDomainBind vi st e s)),
     (.domainUnbind vi st e, happens (execDomainUnbind vi st e s)), (.preempt vi st e, happens (execPreempt vi st e s)),
     (.keyInstall vi st e, happens (execKeyInstall vi st e s)), (.keyRevoke vi st e, happens (execKeyRevoke vi st e s))]

/-- Steps of an interface and of the launches. -/
def State.viMay (s : State) : List (Instr × Bool) :=
  (s.vis.flatMap fun v =>
    (v.2.streams.flatMap fun t =>
      [(.waitSatisfied v.1 t.1, happens (execWaitSatisfied v.1 t.1 s)),
       (.domainUnbindComplete v.1 t.1, happens (execDomainUnbindComplete v.1 t.1 s))]) ++
    [(.keyInstallComplete v.1, happens (execKeyInstallComplete v.1 s)),
     (.keyRevokeComplete v.1, happens (execKeyRevokeComplete v.1 s)),
     (.tlbInvalidateComplete v.1, happens (execTlbInvalidateComplete v.1 s))]) ++
  s.launches.map fun l => (.launchComplete l.1, happens (execLaunchComplete l.1 s))

/-- The cores that the flits on their way go to (R42). -/
def State.flitTargets (s : State) : List Nat :=
  (s.doms.flatMap fun d => d.2.flits.filterMap fun f => (s.flitSent f).map fun m => m.arg 2).eraseDups

/-- Steps of cores, domains and dies. -/
def State.unitMay (s : State) : List (Instr × Bool) :=
  (s.cores.flatMap fun kc =>
    (.taskAdmit kc.1, happens (execTaskAdmit kc.1 s)) ::
      kc.2.listed.flatMap fun j =>
        [(.taskRelease kc.1 j, happens (execTaskRelease kc.1 j s)),
         (.ntileDispense kc.1 j, happens (execNtileDispense kc.1 j s)),
         (.ntileDeliver kc.1 j, happens (execNtileDeliver kc.1 j s))]) ++
  (s.flitTargets.map fun k => (.rstLanding k, happens (execRstLanding k s))) ++
  ((List.range 16).map fun d => (.preemptSave d, happens (execPreemptSave d s))) ++
  (s.dies.flatMap fun d =>
    (d.2.swaps.map fun w => (.affBlockTrade d.1 w.1, happens (execAffBlockTrade d.1 w.1 s))) ++
      (d.2.map.filter (·.2.revive)).map fun e => (.affReviveSweep d.1 e.1, happens (execAffReviveSweep d.1 e.1 s))) ++
  [(.rtSwapTake, happens (execRtSwapTake s)), (.hostWriteAccepted, happens (execHostWriteAccepted s))]

/-- The events that may happen now. -/
def State.may (s : State) : List Instr :=
  ((s.cmdMay ++ s.collMay ++ s.cmdNext ++ s.viMay ++ s.unitMay).filter (·.2)).map (·.1)

/-! ## The end of a cycle, and the next step -/

/-- The ring tails and the scale groups that move at the end of a cycle (R238, R245). -/
def State.groupDue (s : State) : Option Instr :=
  firstOf ((s.cores.flatMap fun kc => kc.2.rings.map fun r =>
      (.ringTailMove kc.1 r.1, happens (execRingTailMove kc.1 r.1 s))) ++
    s.ctxList.map fun p => (.scaleGroupMove p.1 p.2.1, happens (execScaleGroupMove p.1 p.2.1 s)))

/-- The end of a cycle: the waits and the selectors, the queues and the streams, and the checkpoints that the
supervisor makes (R335). -/
def State.endCycle (s : State) : State :=
  (s.dies.map (·.1)).foldl State.checkpoint s.tick.drainAll.noteStreams

/-- The core that issues next in this cycle. -/
def State.nextIssuer (s : State) : Option Nat := ((List.range 1024).find? s.issues).map s.firstIssuer

/-- A core whose oldest store is due and has waited for an engine (R95, R97). -/
def State.lateStore (s : State) : Option Nat := (List.find? (fun kc : Nat × Core => (kc.2.storeDue s.now).isSome) s.cores).map (·.1)

/-- What remains of a cycle: stores that are due, the next core, the tails and groups that move, or its end. -/
def State.later (s : State) : Turn :=
  match s.lateStore, s.nextIssuer with
  | some k, _ => .event (.storeCommit k)
  | none, some k => .issue k
  | none, none => match s.groupDue with
    | some i => .event i
    | none => .tick

/-- One of the steps that may come next: an event, an input of the outside world, or the rest of the cycle. -/
def State.choose (s : State) (n : Nat) : State :=
  let evs := s.may
  match evs[n % (evs.length + 2)]? with
  | some i => { s with turn := .event i }
  | none =>
    match s.inputs with
    | i :: is => if n % (evs.length + 2) = evs.length then { s with turn := .event i, inputs := is }
      else { s with turn := s.later }
    | [] => { s with turn := s.later }

/-- Chooses the next step. -/
def State.settle (s : State) : State :=
  match s.due with
  | some i => { s.fresh with turn := .event i }
  | none => match s.gangNext with
    | some k => { s.fresh with turn := (s.lateStore.map fun c => .event (.storeCommit c)).getD (.issue k) }
    | none => s.fresh.choose (Config.pick s.free)

/-- What the outcome of an instruction makes of the machine: an event that does not happen changes nothing. -/
def State.after (s : State) : Out → Out
  | .next t => .next t.settle
  | .refused (.notEnabled _) => .next s.settle
  | o => o

/-! ## A step -/

/-- What a step does: it runs one instruction on the machine, or it has done its work. -/
inductive Act where
  | run (i : Instr) (s : State)
  | done (s : State)

/-- The issue of the context that a core runs: a bundle of one slot is that slot's instruction, what has no
definition is ILLEGAL_ENCODING, and several slots, or a redundant pair, issue together. -/
def State.issueAct (s : State) (k j : Nat) : Act :=
  if (s.pairOf k j).isSome then .done ((s.begin_ k j).issueDue k j)
  else match s.single k j with
    | some (a, i) => .run i ((s.atAddr k j a).begin_ k j)
    | none =>
      if s.undefined k j then .run (.illegalEncoding k) (s.begin_ k j)
      else .done ((s.begin_ k j).issueDue k j)

/-- What the next step does. -/
def State.act (s : State) : Act :=
  match s.turn with
  | .tick => .done s.endCycle
  | .event i => .run i s
  | .issue k => match s.readyOn k with
    | none => .done s
    | some j => s.issueAct k j

/-! ## A word of the opcode table at the program counter -/

/-- The bundle whose only slot is a word of the opcode table: its decoding says which slot. -/
def wordBundle (nbits w : Nat) : List Byte :=
  let kd : SlotKind := match decodeTableWord nbits w with
    | some i => ((encode i).slot.map (·.1)).getD .s
    | none => if nbits = 48 then .ld else if nbits = 64 then .x else .s
  BitVec.ofNat 8 (2 ^ kd.bit) :: leBytes kd.width w

/-- The context at hand with a bundle of `n` bytes next, in its line. -/
def Ctx.readied (x : Ctx) (now n : Nat) : Ctx :=
  { x with status := .ready, frozen := none, notB := min x.notB now, gtrap := none, again := none,
           pc := if x.pc % 64 + n ≤ 64 then x.pc else x.pc / 64 * 64 }

/-- A core whose context at hand issues these bytes next. -/
def Core.given (c : Core) (now : Nat) (bs : List Byte) : Core :=
  let j := c.run.getD 0
  let x := (c.ctx j).readied now bs.length
  { c.setCtx j { x with half := x.pc / 0x8000 } with
    imem := c.imem.writeBytes x.pc bs, iq := [], flips := c.flips.filter (fun f => f.array != 5), heldB := false,
    pair := false, run := some j, issueAt := min c.issueAt now }

end Sys2Proof.Machine
end

