-- ==== Sys2Proof/Machine/Step.lean ====
section
/-!
DEFINITION. One step of the machine: the running context of a core issues its next bundle, an event happens, or
the cycle ends (`State.act`); then the next step is chosen (`State.settle`, log entry 2).
-/

namespace Sys2Proof.Machine

/-- One step. -/
def step (s : State) : Host.Outcome State Fault Refusal :=
  match s.act with
  | .run i t => t.after (exec i t)
  | .done t => .next t.settle

/-- The machine with the instruction of an opcode-table word as the next bundle of the core at hand (log entry
15). -/
def State.withFetchWord (s : State) (nbits w : Nat) : State :=
  let s1 := s.modCore s.cur fun c => c.given s.now (wordBundle nbits w)
  { s1 with turn := .issue s.cur }

end Sys2Proof.Machine
end

