-- ==== Sys2Proof/Safety.lean ====
section
/-!
DEFINITION. The terms in which claims are stated: when a slot completes, what the end of a bundle leaves as it
was, results that arrive later, and the invariants.
-/

namespace Sys2Proof.Machine

/-! ## When a slot completes -/

/-- Context `j` of core `k` is the one whose bundle issues, and nothing but the slot itself decides what its
bundle does: the core has the turn and runs the context, which is ready (R25) and no member of a redundant pair
(R296); no 0x16 of a gang waits for it and its beat agrees with its gang (R230, R298); no deferred fault is due
(R286); no part of it has had its effect already (R290); the core holds no bit in error (R293, R340). -/
structure State.Calm (s : State) (k j : Nat) (i : Instr) : Prop where
  cur    : s.cur = k
  run    : (s.core k).run = some j
  ready  : (s.ctx k j).status = .ready
  alone  : s.pairOf k j = none
  gtrap  : (s.ctx k j).gtrap = none
  ltrap  : (s.ctx k j).ltrap = none
  clash  : gangClash (s.env k j i) = none
  faults : (s.ctx k j).inTrap = true ∨ ((s.ctx k j).faults = [] ∧ (s.ctx k j).guard = none)
  flips  : (s.core k).flips = []
  inject : (s.core k).inject.getLsbD 0 = false
  again  : (s.ctx k j).again = none

/-- No result in flight goes to a destination (R131). -/
def Ctx.NoneFor (x : Ctx) (d : Dest) : Prop := ∀ p ∈ x.pend, p.dest ≠ d

/-- The length of the bundle whose only slot is an instruction (R144). -/
def bundleOf (i : Instr) : Nat :=
  let kd : SlotKind := ((encode i).slot.map (·.1)).getD .s
  1 + kd.width

/-! ## What the end of a bundle leaves as it was -/

/-- A context without what the end of its bundle moves: the place in the program and the loop (R132), the
counts (R26, R29, R143), and the two register files that a loop's increments (R133) and arriving coordinates
(R29) write, with the snapshot that keeps such a coordinate (R134), and the mark of a bundle that issues again
(R290). -/
def Ctx.frame (x : Ctx) : Ctx :=
  { x with pc := 0, half := 0, lastHdr := 0, status := .free, loop := none, retired := 0, bundles := 0,
           counted := 0, ntiles := [], s := [], a := [], snap := none, again := none }

/-- A core without its contexts and without what the end of a bundle moves: the issue cycles, the lock's count,
the wish to switch (R26, R69), and the bits in error, of which those of registers that are written whole go (R293). -/
def Core.frame (c : Core) : Core :=
  { c with ctxs := [], ord := 0, last := 0, issueAt := 0, lock := none, leave := false, flips := [] }

/-- The machine without its cores and without the counter of the free values. -/
def State.frame (s : State) : State := { s with cores := [], free := 0 }

/-- A context after its bundle, against the context with the effects of the bundle's slots: every register but
the program counter is as it was, except a coordinate that becomes readable (R29), which an open segment's
snapshot may take too (R134), and the a-registers of a running loop (R133); the bundle is counted. -/
structure Ctx.Ended (x y : Ctx) : Prop where
  rest    : y.frame = x.frame
  s       : ∀ n, (∀ t ∈ x.ntiles, t.reg ≠ n) → y.rdS n = x.rdS n
  a       : ∀ n, (∀ l, x.loop = some l → ∀ v ∈ l.levels, v.areg ≠ n) → y.rdA n = x.rdA n
  retired : y.retired = x.retired + 1
  snap    : y.snap.isSome = x.snap.isSome ∧ (x.ntiles = [] → y.snap = x.snap)
  again   : (x.again = none → y.again = none) ∧ (x.inTrap = true → y.again = x.again)

/-- The machine `t` after a bundle of context `j` of core `k`, against the machine `u` with the effects of the
bundle's slots: nothing else has changed, in no register, no other context, core or unit, and in no byte of a
scratchpad, an instruction scratchpad, a pool, level D or host memory. -/
structure State.Ended (k j : Nat) (u t : State) : Prop where
  rest  : t.frame = u.frame
  cores : ∀ n, n ≠ k → t.core n = u.core n
  core  : (t.core k).frame = (u.core k).frame
  ctxs  : ∀ n, n ≠ j → (t.core k).ctx n = (u.core k).ctx n
  ctx   : Ctx.Ended (u.ctx k j) (t.ctx k j)
  flips : (∀ f ∈ (t.core k).flips, f ∈ (u.core k).flips) ∧
    ((u.ctx k j).loop = none → (u.ctx k j).ntiles = [] → (t.core k).flips = (u.core k).flips)
  sp    : ∀ n a, (t.core n).spByte a = (u.core n).spByte a
  imem  : ∀ n a, (t.core n).imem.read a = (u.core n).imem.read a
  pmem  : ∀ a, t.pmem.read a = u.pmem.read a
  dmem  : ∀ a, t.dmem.read a = u.dmem.read a
  hmem  : ∀ a, t.hmem.read a = u.hmem.read a

/-- The next bundle is the one that follows, in the next cycle (R25, R132), where no loop runs and no
coordinate is due (R29). -/
def State.GoesOn (s : State) (k j : Nat) (i : Instr) (t : State) : Prop :=
  (s.ctx k j).loop = none → (s.ctx k j).ntiles = [] →
    (t.ctx k j).pc = (s.ctx k j).pc + bundleOf i ∧ (t.ctx k j).status = .ready ∧
      (t.core k).issueAt = max (s.core k).issueAt (s.now + 1)

/-! ## Canonical states -/

/-- A table lists its keys in rising order, each once. -/
def AMap.sorted {α : Type} (m : AMap α) : Prop := (AMap.keys m).Pairwise (· < ·)

/-- Equal machines are equal data: every memory is in its canonical form, and the tables of cores and contexts list each
key once. -/
structure State.Canonical (s : State) : Prop where
  level : s.dmem.wf = true ∧ s.pmem.wf = true ∧ s.hmem.wf = true
  cores : ∀ k, (s.core k).sp.wf = true ∧ (s.core k).imem.wf = true
  keys  : AMap.sorted s.cores ∧ ∀ k, AMap.sorted (s.core k).ctxs

/-! ## Results that arrive later (R131) -/

/-- A result of latency `lat` that a slot with header bit `hb` issues for `lanes` of a destination, to be
delivered in cycle `at_`; a load keeps what it has read (R97). -/
def State.sends (s : State) (k j : Nat) (d : Dest) (lanes : BitVec 32) (v : VReg) (lat hb at_ : Nat)
    (load : Option Load := none) : State :=
  s.modCtx k j fun x =>
    { x with pend := x.pend ++ [{ dest := d, val := v, lanes := lanes, due := s.now + lat, at_ := at_,
                                  ord := ((s.core k).ord + 1) * 16 + hb, load := load }] }

/-- An s-register takes a value. -/
def State.putS (s : State) (k j n : Nat) (v : W64) : State := s.modCtx k j fun x => x.wrS n v

/-- An a-register takes a value; a0 stays zero. -/
def State.putA (s : State) (k j n : Nat) (v : W64) : State := s.modCtx k j fun x => x.wrA n v

/-- The instruction completes at a context with the effects in `u`, and the program goes on behind it. -/
def Completes (i : Instr) (s : State) (k j : Nat) (u : State) : Prop :=
  ∃ t, exec i s = .next t ∧ State.Ended k j u t ∧ s.GoesOn k j i t

/-- The instruction completes and issues a result with latency `lat`, on top of the effects in `u`. -/
def Delivers (i : Instr) (s : State) (k j : Nat) (u : State) (d : Dest) (lanes : BitVec 32) (v : VReg)
    (lat hb : Nat) : Prop :=
  ∃ at_, s.now < at_ ∧ at_ ≤ s.now + lat ∧ Completes i s k j (u.sends k j d lanes v lat hb at_)

/-- The instruction completes and issues what a load has read as a result of latency 5 (R192), on top of the effects
in `u`; while it is in flight, an access that is independent of it may still come before it (R97). -/
def DeliversLoad (i : Instr) (s : State) (k j : Nat) (u : State) (d : Dest) (l : Load) : Prop :=
  ∃ at_, s.now < at_ ∧ at_ ≤ s.now + 5 ∧ Completes i s k j (u.sends k j d allLanes l.value 5 2 at_ (some l))

/-- The instruction completes with a value for an s-register: at once where the latency is 1, since no bundle of
the context reads before the next cycle, and as a result in flight where it is longer (R131). -/
def GivesS (i : Instr) (s : State) (k j n lat : Nat) (v : W64) : Prop :=
  if lat = 1 then Completes i s k j (s.putS k j n v)
  else Delivers i s k j s (.sreg n) allLanes (v.zeroExtend 1024) lat 0

/-- The instruction completes with the effects in `u` and transfers control: the target is the next bundle, the
loop ends, and two cycles are lost (R132, R175). -/
def Transfers (i : Instr) (s : State) (k j : Nat) (u : State) (target : Nat) : Prop :=
  ∃ t, exec i s = .next t ∧ State.Ended k j u t ∧ (t.ctx k j).pc = target ∧ (t.ctx k j).half = target / 0x8000 ∧
    (t.ctx k j).loop = none ∧ (t.core k).issueAt = max (s.core k).issueAt (s.now + 3)

/-- The instruction completes with the effects in `u` and the context waits (R25); it goes on behind the bundle. -/
def Blocks (i : Instr) (s : State) (k j : Nat) (u : State) (ws : List Wait) : Prop :=
  ∃ t, exec i s = .next t ∧ State.Ended k j u t ∧
    (t.ctx k j).status = .blocked ws (.next ((s.ctx k j).pc + bundleOf i) false)

/-- The context after a trap entry (R287, R288), with these images of trap.cause and the info words: the saved
privilege and loop, privilege P, and the handler's address; every other register is as it was. -/
def Ctx.handling (x : Ctx) (vec : Nat) (cause pc i0 i1 i2 i3 : W64) : Ctx :=
  { x with trCause := cause, trPc := pc, trI0 := i0, trI1 := i1, trI2 := i2, trI3 := i3, priv := true,
           inTrap := true, nest := if x.inTrap then x.nest + 1 else 0, susp := x.loop.or x.susp, loop := none, pc := vec,
           half := 1, status := .ready }

/-- The machine after the trap entry of a context with a handler (R287): nothing but the context's trap registers,
privilege, loop and place has changed, a lock of the context has ended, and the core issues no earlier than t + 3
and than every result in flight. -/
def State.handled (s : State) (k j : Nat) (cause pc i0 i1 i2 i3 : W64) : State :=
  s.modCore k fun c =>
    { (c.setCtx j ((c.ctx j).handling c.vec cause pc i0 i1 i2 i3)) with
      lock := if (c.lock.map (·.ctx)) = some j then none else c.lock,
      issueAt := max c.issueAt (max (s.now + 3) ((c.ctx j).quiet s.now)) }

/-- A context that has a handler, is in none, belongs to no gang and has no partner (R287, R296, R298). -/
def State.CanHandle (s : State) (k j : Nat) : Prop :=
  (s.core k).vec ≠ 0 ∧ (s.ctx k j).inTrap = false ∧ s.gangOf k j = none ∧ s.pairOf k j = none

/-- trap.cause of a precise trap that a slot raises (R288): cause, slot with its validity, and the privilege
before. -/
def causeImage (cause slot : Nat) (pp : Bool) : W64 :=
  BitVec.ofNat 64 (cause + slot * 2 ^ 8 + 2 ^ 11 + if pp then 2 ^ 12 else 0)

end Sys2Proof.Machine
end

