-- ==== Sys2Proof/Certificates/Slice0/Obligations.lean ====
section
/-!
DEFINITION. The statements for the provers. A table beside a statement says what the rule gives each instruction, in
the rule's own terms.
-/

open Sys2Proof Sys2Proof.Machine

namespace Sys2Proof.Claims

/-- R173: one step of the CRC over a byte, bit by bit. -/
def crcByte (c : W32) (b : Byte) : W32 :=
  (List.range 8).foldl (fun c _ => if c.getLsbD 0 then (c >>> 1) ^^^ 0x82F63B78 else c >>> 1) (c ^^^ b.zeroExtend 32)

/-- R167, R168, R173: destination, sources, latency and value of the register forms of the S slot: division truncates
toward zero and has its corner values; s.crc runs the bytes of S[b] through the CRC-32C step from S[a][31:0]. -/
def registerForm : Instr → Option (Nat × Nat × Nat × Nat × (W64 → W64 → W64))
  | .sAdd d a b => some (d.toNat, a.toNat, b.toNat, 1, fun x y => BitVec.ofInt 64 (x.toInt + y.toInt))
  | .sSub d a b => some (d.toNat, a.toNat, b.toNat, 1, fun x y => BitVec.ofInt 64 (x.toInt - y.toInt))
  | .sMul d a b => some (d.toNat, a.toNat, b.toNat, 3, fun x y => BitVec.ofInt 64 (x.toInt * y.toInt))
  | .sMulh d a b => some (d.toNat, a.toNat, b.toNat, 3, fun x y =>
      (BitVec.ofInt 128 (x.toInt * y.toInt)).extractLsb' 64 64)
  | .sMulhu d a b => some (d.toNat, a.toNat, b.toNat, 3, fun x y =>
      (BitVec.ofNat 128 (x.toNat * y.toNat)).extractLsb' 64 64)
  | .sAnd d a b => some (d.toNat, a.toNat, b.toNat, 1, fun x y => x &&& y)
  | .sOr d a b => some (d.toNat, a.toNat, b.toNat, 1, fun x y => x ||| y)
  | .sXor d a b => some (d.toNat, a.toNat, b.toNat, 1, fun x y => x ^^^ y)
  | .sShl d a b => some (d.toNat, a.toNat, b.toNat, 1, fun x y => x <<< (y.extractLsb' 0 6).toNat)
  | .sShr d a b => some (d.toNat, a.toNat, b.toNat, 1, fun x y => x >>> (y.extractLsb' 0 6).toNat)
  | .sSra d a b => some (d.toNat, a.toNat, b.toNat, 1, fun x y => x.sshiftRight (y.extractLsb' 0 6).toNat)
  | .sMin d a b => some (d.toNat, a.toNat, b.toNat, 1, fun x y => BitVec.ofInt 64 (min x.toInt y.toInt))
  | .sMax d a b => some (d.toNat, a.toNat, b.toNat, 1, fun x y => BitVec.ofInt 64 (max x.toInt y.toInt))
  | .sMinu d a b => some (d.toNat, a.toNat, b.toNat, 1, fun x y => BitVec.ofNat 64 (min x.toNat y.toNat))
  | .sMaxu d a b => some (d.toNat, a.toNat, b.toNat, 1, fun x y => BitVec.ofNat 64 (max x.toNat y.toNat))
  | .sSlt d a b => some (d.toNat, a.toNat, b.toNat, 1, fun x y => if x.toInt < y.toInt then 1 else 0)
  | .sSltu d a b => some (d.toNat, a.toNat, b.toNat, 1, fun x y => if x.toNat < y.toNat then 1 else 0)
  | .sSeq d a b => some (d.toNat, a.toNat, b.toNat, 1, fun x y => if x = y then 1 else 0)
  | .sDiv d a b => some (d.toNat, a.toNat, b.toNat, 20, fun x y =>
      if y = 0 then -1 else if x.toInt = -2 ^ 63 ∧ y.toInt = -1 then BitVec.ofInt 64 (-2 ^ 63)
      else BitVec.ofInt 64 (x.toInt.tdiv y.toInt))
  | .sDivu d a b => some (d.toNat, a.toNat, b.toNat, 20, fun x y =>
      if y = 0 then BitVec.ofNat 64 (2 ^ 64 - 1) else BitVec.ofNat 64 (x.toNat / y.toNat))
  | .sRem d a b => some (d.toNat, a.toNat, b.toNat, 20, fun x y =>
      if y = 0 then x else if x.toInt = -2 ^ 63 ∧ y.toInt = -1 then 0
      else BitVec.ofInt 64 (x.toInt - y.toInt * x.toInt.tdiv y.toInt))
  | .sRemu d a b => some (d.toNat, a.toNat, b.toNat, 20, fun x y =>
      if y = 0 then x else BitVec.ofNat 64 (x.toNat - y.toNat * (x.toNat / y.toNat)))
  | .sCrc d a b => some (d.toNat, a.toNat, b.toNat, 2, fun x y =>
      ((List.range 8).foldl (fun c n => crcByte c (y.extractLsb' (8 * n) 8)) (x.extractLsb' 0 32)).zeroExtend 64)
  | _ => none

/-- R169 to R172: destination, source and value of the immediate forms, the constants, the counts and the bit fields,
from the old S[d] and the source. -/
def immediateForm : Instr → Option (Nat × Nat × (W64 → W64 → W64))
  | .sAddi d a imm => some (d.toNat, a.toNat, fun _ x => BitVec.ofInt 64 (x.toInt + imm.toInt))
  | .sAndi d a imm => some (d.toNat, a.toNat, fun _ x => x &&& BitVec.ofInt 64 imm.toInt)
  | .sOri d a imm => some (d.toNat, a.toNat, fun _ x => x ||| BitVec.ofInt 64 imm.toInt)
  | .sXori d a imm => some (d.toNat, a.toNat, fun _ x => x ^^^ BitVec.ofInt 64 imm.toInt)
  | .sShli d a n => some (d.toNat, a.toNat, fun _ x => x <<< n.toNat)
  | .sShri d a n => some (d.toNat, a.toNat, fun _ x => x >>> n.toNat)
  | .sSrai d a n => some (d.toNat, a.toNat, fun _ x => x.sshiftRight n.toNat)
  | .sSlti d a imm => some (d.toNat, a.toNat, fun _ x => if x.toInt < imm.toInt then 1 else 0)
  | .sMovi d imm => some (d.toNat, d.toNat, fun _ _ => BitVec.ofInt 64 imm.toInt)
  | .sMovk d hw imm => some (d.toNat, d.toNat, fun _ x =>
      (x &&& ~~~(0xFFFF#64 <<< (16 * hw.toNat))) ||| (imm.zeroExtend 64 <<< (16 * hw.toNat)))
  | .sClz d a => some (d.toNat, a.toNat, fun _ x =>
      BitVec.ofNat 64 (((List.range 64).find? fun n => x.getMsbD n).getD 64))
  | .sCtz d a => some (d.toNat, a.toNat, fun _ x =>
      BitVec.ofNat 64 (((List.range 64).find? fun n => x.getLsbD n).getD 64))
  | .sPop d a => some (d.toNat, a.toNat, fun _ x =>
      BitVec.ofNat 64 ((List.range 64).countP fun n => x.getLsbD n))
  | .sBext d a pos w1 => some (d.toNat, a.toNat, fun _ x =>
      (x.extractLsb' pos.toNat (w1.toNat + 1)).zeroExtend 64)
  | .sBins d a pos w1 => some (d.toNat, a.toNat, fun old x =>
      (old &&& ~~~((BitVec.allOnes (w1.toNat + 1)).zeroExtend 64 <<< pos.toNat)) |||
        ((x.extractLsb' 0 (w1.toNat + 1)).zeroExtend 64 <<< pos.toNat))
  | _ => none

/-- R124, R131: the value of A[n] as an instruction other than an LD or ST reads it: the old value, or that of a
result on its way to the register. -/
def MayRead (x : Ctx) (n : Nat) (v : W64) : Prop :=
  v = (if n = 0 then 0 else x.rdA n) ∨
    (n ≠ 0 ∧ ∃ p ∈ x.pend, p.dest = .areg n ∧ p.done = false ∧ v = p.val.extractLsb' 0 64)

end Sys2Proof.Claims

open Sys2Proof.Claims

/-! ## The S slot -/

/-- R167, R168, R173: a register form gives S[d] its value with its latency, traps on no operand, and changes nothing
else. -/
def Obligations.ScalarRegisterForms : Prop :=
  ∀ (s : State) (k j : Nat) (i : Instr) (d a b lat : Nat) (f : W64 → W64 → W64),
    registerForm i = some (d, a, b, lat, f) → s.Calm k j i → (s.ctx k j).NoneFor (.sreg d) →
      GivesS i s k j d lat (f ((s.ctx k j).rdS a) ((s.ctx k j).rdS b))

/-- R169 to R172: an immediate form, a constant, a count or a bit field gives S[d] its value with latency 1; s.movk and
s.bins keep the other bits of S[d]. -/
def Obligations.ScalarImmediates : Prop :=
  ∀ (s : State) (k j : Nat) (i : Instr) (d a : Nat) (f : W64 → W64 → W64),
    immediateForm i = some (d, a, f) → i.wfError = none → s.Calm k j i → (s.ctx k j).NoneFor (.sreg d) →
      GivesS i s k j d 1 (f ((s.ctx k j).rdS d) ((s.ctx k j).rdS a))

/-- R174, R187: the copies between the classes: an LD or ST of the bundle behind s.toa reads the old address, since
the new one arrives at t + 2; s.bc sets the broadcast port, and s.nop changes nothing but the count of bundles. -/
def Obligations.CopiesBetweenClasses : Prop :=
  ∀ (s : State) (k j : Nat) (d a : BitVec 6),
    (s.Calm k j (.sToa d a) → d.toNat < 32 → (s.ctx k j).NoneFor (.areg d.toNat) →
      Completes (.sToa d a) s k j (s.sends k j (.areg d.toNat) allLanes
        (((s.ctx k j).rdS a.toNat).zeroExtend 1024) 2 0 (s.now + 2))) ∧
    (s.Calm k j (.sFroma d a) → a.toNat < 32 → (s.ctx k j).NoneFor (.sreg d.toNat) →
      ∃ v, MayRead (s.ctx k j) a.toNat v ∧ GivesS (.sFroma d a) s k j d.toNat 2 v) ∧
    (s.Calm k j (.sBc a) →
      Completes (.sBc a) s k j (s.modCtx k j fun x => { x with port := (s.ctx k j).rdS a.toNat })) ∧
    (s.Calm k j .sNop → Completes .sNop s k j s)

namespace Sys2Proof.Claims

/-- R175: tested register, offset and condition of the branches. -/
def branchForm : Instr → Option (Nat × BitVec 19 × (W64 → Bool))
  | .sBz t off => some (t.toNat, off, fun x => x == 0)
  | .sBnz t off => some (t.toNat, off, fun x => x != 0)
  | .sBlt t off => some (t.toNat, off, fun x => decide (x.toInt < 0))
  | .sBge t off => some (t.toNat, off, fun x => decide (0 ≤ x.toInt))
  | _ => none

/-- The byte address `off` from a bundle's header lies in the running half (R138, R175). -/
def Lands (x : Ctx) (off : BitVec 19) (a : Nat) : Prop := (x.pc : Int) + off.toInt = a ∧ a / 0x8000 = x.half

end Sys2Proof.Claims

/-- R175: a branch whose target lies in the running half goes there when its condition holds, and to the bundle
behind it otherwise; nothing else changes. -/
def Sys2Proof.Claims.BranchesGo : Prop :=
  ∀ (s : State) (k j : Nat) (i : Instr) (n a : Nat) (off : BitVec 19) (p : W64 → Bool),
    branchForm i = some (n, off, p) → s.Calm k j i → Lands (s.ctx k j) off a →
      if p ((s.ctx k j).rdS n) then Transfers i s k j s a else Completes i s k j s

/-- R175, R289: a branch whose target lies outside the running half traps with cause 0x01, whether or not it would
be taken, with the slot's bits and the header byte in the record. -/
def Sys2Proof.Claims.BranchesOutsideTrap : Prop :=
  ∀ (s : State) (k j : Nat) (i : Instr) (n : Nat) (off : BitVec 19) (p : W64 → Bool),
    branchForm i = some (n, off, p) → s.Calm k j i → s.CanHandle k j → (∀ a, ¬ Lands (s.ctx k j) off a) →
      exec i s = .next (s.handled k j (causeImage 1 0 (s.ctx k j).priv) (BitVec.ofNat 64 (s.ctx k j).pc)
        (rawOf i) 1 0 0)

/-- R175, R289: the conditional branches, within the running half and beyond it. -/
def Obligations.ConditionalBranches : Prop := Claims.BranchesGo ∧ Claims.BranchesOutsideTrap

/-- R176, R183: the unconditional transfers; s.call writes the address behind it to S[63], and s.bswap goes to the
other half, outside every loop. -/
def Obligations.UnconditionalTransfers : Prop :=
  ∀ (s : State) (k j a : Nat) (off : BitVec 19) (r : BitVec 6),
    (s.Calm k j (.sJmp off) → Lands (s.ctx k j) off a → Transfers (.sJmp off) s k j s a) ∧
    (s.Calm k j (.sJr r) → (s.ctx k j).rdS r.toNat = BitVec.ofNat 64 a → a < 2 ^ 16 → a / 0x8000 = (s.ctx k j).half →
      Transfers (.sJr r) s k j s a) ∧
    (s.Calm k j .sRet → (s.ctx k j).rdS 63 = BitVec.ofNat 64 a → a < 2 ^ 16 → a / 0x8000 = (s.ctx k j).half →
      Transfers .sRet s k j s a) ∧
    (s.Calm k j (.sCall off) → Lands (s.ctx k j) off a → (s.ctx k j).NoneFor (.sreg 63) →
      Transfers (.sCall off) s k j (s.putS k j 63 (BitVec.ofNat 64 ((s.ctx k j).pc + 5))) a) ∧
    (s.Calm k j (.sBswap off) → ((s.ctx k j).pc : Int) + off.toInt = a → a < 2 ^ 16 →
      a / 0x8000 ≠ (s.ctx k j).half → (s.ctx k j).loop = none → Transfers (.sBswap off) s k j s a)

/-- R177, R178, R133: outside a loop, s.loop and s.nest start one over the bundles that follow, with the trip counts
and increments read at issue; a trip count of 0 skips the body and loses two cycles. -/
def Sys2Proof.Claims.LoopsOpen : Prop :=
  ∀ (s : State) (k j len : Nat) (i : Instr) (ls : List Level) (r : BitVec 6) (len1 : BitVec 5),
    s.Calm k j i → (s.ctx k j).loop = none →
    ((i = .sLoop r len1 ∧ len = len1.toNat + 1 ∧
        ls = [{ trip := (((s.ctx k j).rdS r.toNat).extractLsb' 0 32).toNat, areg := 0, inc := 0, i := 0 }]) ∨
      (i = .sNest r ∧ goodDesc ((s.ctx k j).rdS r.toNat) 64 = true ∧
        memTrap (s.env k j i) i ((List.range 8).map fun n => ((s.ctx k j).rdS r.toNat).toNat + 8 * n) 8 true = none ∧
        nestBad (nestWords (s.env k j i) r) = false ∧ ls = nestLevels (nestWords (s.env k j i) r) ∧
        len = bitsOf ((nestWords (s.env k j i) r).getD 0 0) 8 5 + 1)) →
    let next := (s.ctx k j).pc + 5
    if ls.all (fun l => l.trip != 0) then
      ∃ t, exec i s = .next t ∧ State.Ended k j (s.modCtx k j fun x => { x with
          susp := none, loop := some { start := next, len := len, levels := ls, cnt := 0 } }) t ∧
        (t.ctx k j).loop = some { start := next, len := len, levels := ls, cnt := 0 } ∧
        (t.ctx k j).pc = next ∧ (t.core k).issueAt = max (s.core k).issueAt (s.now + 1)
    else
      ∃ t, exec i s = .next t ∧ State.Ended k j (s.modCtx k j fun x => { x with susp := none }) t ∧
        (t.ctx k j).loop = none ∧
        (t.ctx k j).pc = ((s.core k).body s.free (s.ctx k j).half 513 len next).2 ∧
        (t.core k).issueAt = max (s.core k).issueAt (s.now + 3)

namespace Sys2Proof.Claims

/-- R133: the lowest level of a nest with a pass left, and the levels below it, which have run all theirs. -/
structure NextPass (ls low rest : List Level) (v : Level) : Prop where
  all  : ls = low ++ v :: rest
  past : ∀ m ∈ low, m.trip ≤ m.i + 1
  left : v.i + 1 < v.trip

/-- R132, R133, R177: a bundle of a loop's body that transfers nowhere is followed by the next one of the body; the last
of a pass by the first one of the next pass, in the next cycle, with the increments of the levels that step: the lowest
level with a pass left goes on and advances its register, and the levels below it start over and take their increments
back; after the last pass the bundle behind the body follows and the loop is over. -/
def LoopsRun : Prop :=
  ∀ (s : State) (k j : Nat) (i : Instr) (l : Loop),
    s.Calm k j i → (i = .sNop ∨ ((immediateForm i).isSome = true ∧ i.wfError = none)) →
    (s.ctx k j).loop = some l → (s.ctx k j).ntiles = [] →
    ∃ t, exec i s = .next t ∧
      let x := s.ctx k j
      let y := t.ctx k j
      y.status = .ready ∧ (t.core k).issueAt = max (s.core k).issueAt (s.now + 1) ∧
      (l.cnt + 1 < l.len →
        y.pc = x.pc + 5 ∧ y.loop = some { l with cnt := l.cnt + 1 } ∧ ∀ n, y.rdA n = x.rdA n) ∧
      (l.len ≤ l.cnt + 1 →
        (∀ low rest v, NextPass l.levels low rest v →
          y.pc = l.start ∧
          y.loop = some { l with
            levels := low.map (fun m => { m with i := 0 }) ++ { v with i := v.i + 1 } :: rest, cnt := 0 } ∧
          ∀ n, n ≠ 0 → y.rdA n = x.rdA n + BitVec.ofInt 64 ((if v.areg = n then v.inc else 0) -
            ((low.filter fun m => m.areg = n).map fun m => ((m.trip : Int) - 1) * m.inc).sum)) ∧
        ((∀ m ∈ l.levels, m.trip ≤ m.i + 1) →
          y.pc = x.pc + 5 ∧ y.loop = none ∧ ∀ n, y.rdA n = x.rdA n))

/-- R177, R178: an s.eret to a bundle of the suspended loop's body resumes the loop at that bundle, in the pass that was
interrupted; one to an address from which no bundle of the body comes first drops it. -/
def LoopsResume : Prop :=
  ∀ (s : State) (k j : Nat) (l : Loop), s.Calm k j .sEret → (s.ctx k j).priv = true → (s.ctx k j).susp = some l →
    ∃ t, exec .sEret s = .next t ∧
      let a := ((s.ctx k j).trPc.extractLsb' 0 16).toNat
      let body := ((s.core k).body s.free (l.start / 0x8000) 513 l.len l.start).1
      (t.ctx k j).pc = a ∧ (t.ctx k j).susp = none ∧
      (∀ n, body[n]? = some a → (t.ctx k j).loop = some { l with cnt := n }) ∧
      ((s.core k).skipPad s.free (l.start / 0x8000) a ∉ body → (t.ctx k j).loop = none)

end Sys2Proof.Claims

/-- R132, R133, R177, R178: loops start, run their passes, and resume. -/
def Obligations.LoopsStart : Prop := Claims.LoopsOpen ∧ Claims.LoopsRun ∧ Claims.LoopsResume

/-- R179, R180: s.wait goes on when the cycle counter has reached S[a] and blocks until then otherwise; s.lock holds
the banks of the mask for `count` bundles, its own the first. -/
def Sys2Proof.Claims.WaitAndLock : Prop :=
  ∀ (s : State) (k j : Nat) (a : BitVec 6) (count : BitVec 13),
    (s.Calm k j (.sWait a) →
      if ((s.ctx k j).rdS a.toNat).toNat ≤ s.now then Completes (.sWait a) s k j s
      else Blocks (.sWait a) s k j s [.cycle ((s.ctx k j).rdS a.toNat).toNat]) ∧
    (s.Calm k j (.sLock a count) → 1 ≤ count.toNat → count.toNat ≤ 16 → (s.ctx k j).ntiles = [] →
      ∃ t, exec (.sLock a count) s = .next t ∧ State.Ended k j s t ∧ s.GoesOn k j (.sLock a count) t ∧
        (t.core k).lock = if count = 1 then none else
          some { ctx := j, mask := ((s.ctx k j).rdS a.toNat).extractLsb' 0 32, left := count.toNat - 1 })

/-- R181, R134: outside a loop, s.seg.entry commits an open segment and opens one at the next bundle, with a
snapshot of the files, of the results in flight, which belong to it, and of every ring; s.seg.commit closes
the open segment, counts it and frees its pops. -/
def Obligations.SegmentsOpenAndCommit : Prop :=
  ∀ (s : State) (k j : Nat), (s.ctx k j).loop = none →
    (s.Calm k j .sSegEntry →
      let c := (s.core k).commitSeg j s.now
      let entry := (s.core k).skipPad s.free (s.ctx k j).half ((s.ctx k j).pc + 5)
      Completes .sSegEntry s k j (s.setCore k (c.setCtx j { c.ctx j with
        snap := some { s := (s.ctx k j).s, a := (s.ctx k j).a, late := (s.ctx k j).pend, entry := entry,
                       rings := (List.range 16).map fun r => ((c.ring r).tail, (c.ring r).head),
                       bundle := (s.ctx k j).bundles },
        segPc := entry, rewinds := 0 }))) ∧
    (s.Calm k j .sSegCommit →
      if (s.ctx k j).snap = none then Completes .sSegCommit s k j s
      else Completes .sSegCommit s k j (s.modCore k fun c =>
        (c.setCtx j { c.ctx j with snap := none, commits := (c.ctx j).commits + 1, rewinds := 0 }).freeHeld j s.now))

/-- R182, R196: s.ifence orders the context's st.i stores before every fetch, and leaves those of another context as
they are; those that stand behind no unordered store are written into the instruction scratchpad at the fence itself
(log entry 26, deduced). The next bundle issues no earlier than t + 3. -/
def Sys2Proof.Claims.InstructionFence : Prop :=
  ∀ (s : State) (k j : Nat), s.Calm k j .sIfence →
    ∃ t, exec .sIfence s = .next t ∧ State.Ended k j (s.modCore k fun c => c.ifence j) t ∧
      (∀ st ∈ (t.core k).iq, st.ctx = j → st.fenced = true) ∧
      (∀ line here, ∀ st ∈ here, st.fenced = true → st ∈ seenIStores s.free line here) ∧
      (let iq := (s.core k).iq.map fun st : IStore => if st.ctx = j then { st with fenced := true } else st
       ∃ n, (∀ st ∈ iq.take n, st.fenced = true) ∧ (∀ st, (iq.drop n).head? = some st → st.fenced = false) ∧
        (t.core k).iq = iq.drop n ∧ (t.core k).imem =
          (iq.take n).foldl (fun m st => m.writeBytes st.addr st.data) (s.core k).imem) ∧
      (t.core k).issueAt = max (s.core k).issueAt (s.now + 3)

/-- R179, R180, R182: s.wait, s.lock and s.ifence. -/
def Obligations.WaitsLocksFences : Prop := Claims.WaitAndLock ∧ Claims.InstructionFence

namespace Sys2Proof.Claims

/-- R143, R24, R37, R136, R237, R288, R338, R340: what a CSR reads as in P, for context `j` of core `k`. -/
def csrInP (s : State) (k j : Nat) : List (Nat × W64) :=
  let c := s.core k
  let x := s.ctx k j
  [(0x000, BitVec.ofNat 64 j), (0x001, BitVec.ofNat 64 k), (0x002, BitVec.ofNat 64 (k / 8 % 32)),
   (0x003, BitVec.ofNat 64 (k / 256)), (0x011, x.phase), (0x021, BitVec.ofNat 64 c.vec), (0x022, x.trCause),
   (0x023, x.trPc), (0x024, x.trI0), (0x025, x.trI1), (0x026, x.trI2), (0x027, x.trI3), (0x031, c.sAddr),
   (0x040, x.mxStat), (0x041, x.mxMode), (0x042, x.mxCoord), (0x050, BitVec.ofNat 64 x.segPc),
   (0x060, BitVec.ofNat 64 s.now), (0x061, x.retired), (0x070, c.ridx), (0x072, c.inject),
   (0x020, (if x.priv then 1 else 0) + (c.smode.zeroExtend 64 <<< 1) + (if c.pair then 8 else 0) +
     BitVec.ofNat 64 (c.partner % 1024 * 16)),
   (0x030, (if c.hit then 1 else 0) + if c.wr then 2 else 0),
   (0x051, x.commits.zeroExtend 64 + BitVec.ofNat 64 (x.rewinds % 4 * 2 ^ 32) +
     if x.snap.isSome then 0x400000000 else 0),
   (0x004, BitVec.ofNat 64 ((x.dom.map fun d => (s.dom d).owner).getD 0)),
   (0x010, BitVec.ofNat 64 (x.dom.getD 0)),
   (0x012, (if x.phase.getLsbD 0 then 1 else 0) +
     if (x.dom.map fun d => (s.dom d).pend) = some true then 2 else 0),
   (0x080, BitVec.ofNat 64 (x.vaMap.length + x.vbMap.length * 16 + x.accMap.length * 256 +
     (if x.persist then 2048 else 0) + x.rot * 4096))]

/-- R142: the CSRs that read zero in U. -/
def zeroInU : List Nat := [0x020, 0x021, 0x070, 0x071, 0x072]

/-- R24: a footprint within the fields of regfoot. -/
def FootFits (x : Ctx) : Prop := x.vaMap.length < 16 ∧ x.vbMap.length < 16 ∧ x.accMap.length < 8 ∧ x.rot < 4

/-- R338: the row that repair.idx selects, and its array. -/
def portRow (c : Core) : Nat := (c.ridx.extractLsb' 0 20).toNat
def portArray (c : Core) : Nat := (c.ridx.extractLsb' 20 3).toNat

/-- R337, R338: whether the raw port works on a row: the repair table in every mode, the other arrays in test mode for
the sole resident context, and no row beyond its array. -/
def PortWorks (c : Core) : Prop :=
  (portArray c = 4 ∧ portRow c < 16) ∨
    c.smode = 2 ∧ c.residents.length ≤ 1 ∧
      ((portArray c = 0 ∧ portRow c < 131072) ∨ (portArray c = 1 ∧ portRow c < 65536) ∨
        ((portArray c = 2 ∨ portArray c = 3) ∧ portRow c < 16384) ∨ (portArray c = 5 ∧ portRow c < 8192))

/-- R338: the stored bits of the row that repair.idx selects, where no slot of the scratchpad has undefined contents and
no st.i waits (log entry 8). -/
def rowBits (c : Core) : W64 :=
  let row := portRow c
  match portArray c with
  | 0 => BitVec.ofNat 64 (leNat (c.sp.bytes (row * 8) 8))
  | 1 => BitVec.ofNat 64 (leNat (c.sp.bytes (0x100000 + row * 8) 8))
  | 2 => (AMap.get c.va (row / 16) 0).extractLsb' (64 * (row % 16)) 64
  | 3 => (AMap.get c.vb (row / 16) 0).extractLsb' (64 * (row % 16)) 64
  | 4 => AMap.get c.repair row 0
  | _ => BitVec.ofNat 64 (leNat (c.imem.bytes (row * 8) 8))

/-- R184: a field of the bits `m` after one of the three writes, where the field is rw. -/
def written (op : CsrOp) (m old v : W64) : W64 :=
  (old &&& ~~~m) ||| (match op with
    | .write => v
    | .set => old ||| v
    | .clear => old &&& ~~~v) &&& m

/-- The three write instructions (R184). -/
def csrWriteForm : Instr → Option (CsrOp × Nat × Nat)
  | .sCsrw a csr => some (.write, csr.toNat, a.toNat)
  | .sCsrs a csr => some (.set, csr.toNat, a.toNat)
  | .sCsrc a csr => some (.clear, csr.toNat, a.toNat)
  | _ => none

end Sys2Proof.Claims

/-- R184, R141 to R143: s.csrr delivers with latency 1 the value of the CSR in the context's view: the register's
own value, or zero in U for the CSRs whose U view is zero. -/
def Sys2Proof.Claims.CsrsRead : Prop :=
  ∀ (s : State) (k j : Nat) (d : BitVec 6) (csr : BitVec 13) (v : W64),
    (Instr.sCsrr d csr).wfError = none → s.Calm k j (.sCsrr d csr) → (s.ctx k j).NoneFor (.sreg d.toNat) →
    (s.core k).partner < 1024 → (s.ctx k j).rewinds < 4 → FootFits (s.ctx k j) → (csr.toNat, v) ∈ csrInP s k j →
      GivesS (.sCsrr d csr) s k j d.toNat 1
        (if (s.ctx k j).priv = false ∧ csr.toNat ∈ zeroInU then 0 else v)

/-- R184, R338: s.csrr of repair.data gives in P the row that repair.idx selects, as it stands at issue, where the raw
port works on it, and zero elsewhere and in U. -/
def Sys2Proof.Claims.RawPortReads : Prop :=
  ∀ (s : State) (k j : Nat) (d : BitVec 6), s.Calm k j (.sCsrr d 0x071) → (s.ctx k j).NoneFor (.sreg d.toNat) →
    (∀ n, ((s.core k).slotSb n).stale = none) → (s.core k).iq = [] →
      ((s.ctx k j).priv = true → PortWorks (s.core k) → GivesS (.sCsrr d 0x071) s k j d.toNat 1 (rowBits (s.core k))) ∧
      ((s.ctx k j).priv = false ∨ ¬ PortWorks (s.core k) → GivesS (.sCsrr d 0x071) s k j d.toNat 1 0)

/-- R184, R141 to R143, R338: the reads of the CSRs. -/
def Obligations.CsrReads : Prop := Claims.CsrsRead ∧ Claims.RawPortReads

/-- R184: every CSR write completes, and its effect is that of `csrWrite`, in U and in P; no write traps for
privilege. -/
def Sys2Proof.Claims.CsrWritesComplete : Prop :=
  ∀ (s : State) (k j : Nat) (i : Instr) (op : CsrOp) (csr a : Nat),
    csrWriteForm i = some (op, csr, a) → i.wfError = none → s.Calm k j i →
      Completes i s k j (csrWrite s k j op csr ((s.ctx k j).rdS a))

/-- R184, R141, R143, R237, R287, R288, R338, R340: what a CSR write does to the registers. The matrix CSRs follow
it in both views; trap.pc, trap.vec, repair.idx, test.inject and sticky.flag follow it in P, and a write to
them in U is ignored. A handler address below 0x8000 other than 0 is ignored, and test.inject only takes a write in
test mode. -/
def Sys2Proof.Claims.CsrWriteEffects : Prop :=
  ∀ (s : State) (k j : Nat) (op : CsrOp) (v : W64),
    let x := s.ctx k j
    let c := s.core k
    ((csrWrite s k j op 0x041 v).ctx k j).mxMode = written op 0xFF03 x.mxMode v ∧
    ((csrWrite s k j op 0x040 v).ctx k j).mxStat =
      (match op with
        | .set => written op 0xFF00 x.mxStat v
        | _ => written op 0xFF00 x.mxStat v &&& ~~~(v &&& 7)) ∧
    (x.priv = false → ∀ n, n ≠ 0x040 → n ≠ 0x041 → csrWrite s k j op n v = s) ∧
    (x.priv = true →
      ((csrWrite s k j op 0x023 v).ctx k j).trPc = written op 0xFFFF x.trPc v ∧
      ((csrWrite s k j op 0x070 v).core k).ridx = written op 0x7FFFFF c.ridx v ∧
      ((csrWrite s k j op 0x072 v).core k).inject =
        (if c.smode = 2 then written op 0x7FFFFFFF c.inject v else c.inject) ∧
      (let w := (written op 0xFFC0 (BitVec.ofNat 64 c.vec) v).toNat
       ((csrWrite s k j op 0x021 v).core k).vec = if w = 0 ∨ 0x8000 ≤ w then w else c.vec) ∧
      ((csrWrite s k j op 0x030 v).core k).hit = (c.hit && (op == .set || !v.getLsbD 0)))

/-- R143, R184, R337, R339, R340: what a write of mode does in P. pair and partner take their bits; smode takes its own,
unless the write would enter or leave test mode beside another resident context; the write that leaves test mode puts
the repair table into effect and ends an injection. A row of a main file that the only entry of the table begins to
serve reads zero from then on. -/
def Sys2Proof.Claims.ModeWrites : Prop :=
  ∀ (s : State) (k j : Nat) (op : CsrOp) (v old : W64), (0x020, old) ∈ csrInP s k j → (s.core k).partner < 1024 →
    (s.ctx k j).priv = true →
      let c := s.core k
      let d := (csrWrite s k j op 0x020 v).core k
      let w := written op 0x3FFE old v
      let m := w.extractLsb' 1 2
      let kept := (m = 2 ∨ c.smode = 2) ∧ ∃ n ∈ c.residents, n ≠ j
      d.pair = w.getLsbD 3 ∧ d.partner = (w.extractLsb' 4 10).toNat ∧
      (kept → d.smode = c.smode) ∧ (¬ kept → d.smode = m) ∧ d.repair = c.repair ∧ d.ridx = c.ridx ∧ d.vec = c.vec ∧
      (if c.smode = 2 ∧ d.smode ≠ 2 then d.inject = c.inject &&& ~~~1 ∧ d.active = c.repair
       else d.inject = c.inject ∧ d.active = c.active) ∧
      (∀ e r w1, c.smode = 2 → d.smode ≠ 2 → c.active = [] → c.repair = [(e, w1)] → e < 16 → r < 16384 →
        (w1 = BitVec.ofNat 64 (1 + 2 * r + 2 * 2 ^ 21) →
          (AMap.get d.va (r / 16) 0).extractLsb' (64 * (r % 16)) 64 = 0) ∧
        (w1 = BitVec.ofNat 64 (1 + 2 * r + 3 * 2 ^ 21) →
          (AMap.get d.vb (r / 16) 0).extractLsb' (64 * (r % 16)) 64 = 0))

/-- R143, R184, R338, R339: what a write of repair.data does in P: the row that repair.idx selects takes the value, where
the raw port works on it, but for a row of the instruction scratchpad in a half that a resident context runs; no other
row of its array changes. Elsewhere the write is ignored. Of an entry of the repair table only bits 23:0 are kept. -/
def Sys2Proof.Claims.RawPortWrites : Prop :=
  ∀ (s : State) (k j : Nat) (op : CsrOp) (v : W64), (s.ctx k j).priv = true → (s.core k).flips = [] →
    (s.core k).inject.getLsbD 0 = false → (∀ n, ((s.core k).slotSb n).stale = none) → (s.core k).iq = [] →
    (s.core k).sp.wf = true → (s.core k).imem.wf = true →
      let c := s.core k
      let d := (csrWrite s k j op 0x071 v).core k
      let a := portArray c
      let row := portRow c
      let w := written op (BitVec.allOnes 64) (rowBits c) v
      let word := fun (f : AMap VReg) (r : Nat) => (AMap.get f (r / 16) 0).extractLsb' (64 * (r % 16)) 64
      (¬ PortWorks c → d = c) ∧
      (PortWorks c → a = 4 → ∀ r, AMap.get d.repair r 0 = if r = row then w &&& 0xFFFFFF else AMap.get c.repair r 0) ∧
      (PortWorks c → a = 2 → ∀ r, word d.va r = if r = row then w else word c.va r) ∧
      (PortWorks c → a = 3 → ∀ r, word d.vb r = if r = row then w else word c.vb r) ∧
      (PortWorks c → a < 2 → ∀ b, d.sp.read b =
        if a * 0x100000 + 8 * row ≤ b ∧ b < a * 0x100000 + 8 * row + 8 then
          (leBytes 8 w.toNat).getD (b - (a * 0x100000 + 8 * row)) 0 else c.sp.read b) ∧
      (PortWorks c → a = 5 → ∀ b, d.imem.read b =
        if (c.halfRuns (row / 4096) = [] ∧ 8 * row ≤ b ∧ b < 8 * row + 8) then
          (leBytes 8 w.toNat).getD (b - 8 * row) 0 else c.imem.read b)

/-- R184, R338: every CSR write completes, and what it does to each register. -/
def Obligations.CsrWrites : Prop :=
  Claims.CsrWritesComplete ∧ Claims.CsrWriteEffects ∧ Claims.ModeWrites ∧ Claims.RawPortWrites

/-- R185, R287, R288, R289: s.trap and s.brk enter the handler with cause 0x12 and 0x13, the code and the address
behind the bundle in the info words, and trap.pc at the bundle itself; s.eret in U enters it with cause 0x02 and returns
nowhere (R186); nothing else changes. -/
def Obligations.SoftwareTraps : Prop :=
  ∀ (s : State) (k j : Nat) (code : BitVec 13), s.CanHandle k j →
    (s.Calm k j (.sTrap code) →
      exec (.sTrap code) s = .next (s.handled k j (causeImage 0x12 0 (s.ctx k j).priv)
        (BitVec.ofNat 64 (s.ctx k j).pc) (code.zeroExtend 64) (BitVec.ofNat 64 ((s.ctx k j).pc + 5)) 0 0)) ∧
    (s.Calm k j .sBrk →
      exec .sBrk s = .next (s.handled k j (causeImage 0x13 0 (s.ctx k j).priv)
        (BitVec.ofNat 64 (s.ctx k j).pc) 0 (BitVec.ofNat 64 ((s.ctx k j).pc + 5)) 0 0)) ∧
    (s.Calm k j .sEret → (s.ctx k j).priv = false →
      exec .sEret s = .next (s.handled k j (causeImage 2 0 false) (BitVec.ofNat 64 (s.ctx k j).pc)
        (rawOf .sEret) 1 0 0))

/-- R186, R290, R177: in P, s.eret goes to trap.pc[15:0] at the saved privilege, in the half of the target, and no
earlier than t + 3; it changes no other register, no memory and no unit but for stopped commands, which resume. -/
def Obligations.ReturnFromException : Prop :=
  ∀ (s : State) (k j : Nat), s.Calm k j .sEret → (s.ctx k j).priv = true →
    ∃ t, exec .sEret s = .next t ∧
      let x := s.ctx k j
      let y := t.ctx k j
      let a := (x.trPc.extractLsb' 0 16).toNat
      y.pc = a ∧ y.half = a / 0x8000 ∧ y.priv = x.trCause.getLsbD 12 ∧ y.status = .ready ∧ y.susp = none ∧
      (t.core k).issueAt = max (s.core k).issueAt (s.now + 3) ∧ y.retired = x.retired + 1 ∧
      y.s = x.s ∧ y.a = x.a ∧ y.oa = x.oa ∧ y.ob = x.ob ∧ y.ka = x.ka ∧ y.kb = x.kb ∧ y.cc = x.cc ∧
      y.trCause = x.trCause ∧ y.trPc = x.trPc ∧ y.trI0 = x.trI0 ∧ y.trI1 = x.trI1 ∧ y.trI2 = x.trI2 ∧
      y.trI3 = x.trI3 ∧ y.phase = x.phase ∧ y.cmds.length = x.cmds.length ∧
      (∀ m ∈ y.cmds, ∀ r, m.status ≠ .stopped r) ∧
      t.frame = s.frame ∧ (∀ n, n ≠ k → t.core n = s.core n) ∧
      (∀ n, n ≠ j → (t.core k).ctx n = (s.core k).ctx n) ∧ (t.core k).frame = (s.core k).frame ∧ (t.core k).flips = []

/-! ## The LD and ST slots -/

namespace Sys2Proof.Claims

/-- R191: operand fields, width in bytes and extension to 64 bits of the scalar loads. -/
def loadForm : Instr → Option (LsOp × Nat × (Nat → W64))
  | .ldB o => some (o, 1, fun v => (BitVec.ofNat 8 v).signExtend 64)
  | .ldBu o => some (o, 1, fun v => (BitVec.ofNat 8 v).zeroExtend 64)
  | .ldH o => some (o, 2, fun v => (BitVec.ofNat 16 v).signExtend 64)
  | .ldHu o => some (o, 2, fun v => (BitVec.ofNat 16 v).zeroExtend 64)
  | .ldW o => some (o, 4, fun v => (BitVec.ofNat 32 v).signExtend 64)
  | .ldWu o => some (o, 4, fun v => (BitVec.ofNat 32 v).zeroExtend 64)
  | .ldD o => some (o, 8, fun v => BitVec.ofNat 64 v)
  | _ => none

/-- R188: the access address of a width: base, index and sign-extended offset, the low bits cleared. -/
def accessAddr (x : Ctx) (o : LsOp) (w : Nat) : Nat :=
  (x.rdA o.base.toNat + x.rdA o.idx.toNat + BitVec.ofInt 64 o.off.toInt).toNat / w * w

/-- R193: the addresses of the 32 elements of a strided access, in lane order. -/
def elementAddrs (x : Ctx) (o : LsOp) : List Nat :=
  (List.range 32).map fun n =>
    (x.rdA o.base.toNat + BitVec.ofInt 64 o.off.toInt + BitVec.ofNat 64 n * x.rdA o.idx.toNat).toNat / 4 * 4

/-- An access finds its block: it lies in the map, in no guard slot, and not in a poisoned block (R70, R189, R190). -/
def Reaches (c : Core) (a : Nat) : Prop := c.offLimits a = false ∧ c.poisoned (a / 2048) = false

/-- The addresses and bytes that an ST slot writes (R191 to R193, R195): one unit, or one for each lane. -/
def storeUnits (s : State) (k j : Nat) : Instr → Option (BitVec 2 × List (Nat × List Byte))
  | .stB o => some (o.cls, [(accessAddr (s.ctx k j) o 1, lsSource (s.env k j (.stB o)) o.file o.reg.toNat 1)])
  | .stH o => some (o.cls, [(accessAddr (s.ctx k j) o 2, lsSource (s.env k j (.stH o)) o.file o.reg.toNat 2)])
  | .stW o => some (o.cls, [(accessAddr (s.ctx k j) o 4, lsSource (s.env k j (.stW o)) o.file o.reg.toNat 4)])
  | .stD o => some (o.cls, [(accessAddr (s.ctx k j) o 8, lsSource (s.env k j (.stD o)) o.file o.reg.toNat 8)])
  | .stV o => some (o.cls, [(accessAddr (s.ctx k j) o 128, lsSource (s.env k j (.stV o)) o.file o.reg.toNat 128)])
  | .stVs o => some (o.cls, (List.range 32).map fun n =>
      ((elementAddrs (s.ctx k j) o).getD n 0,
        ((lsSource (s.env k j (.stVs o)) o.file o.reg.toNat 128).drop (4 * n)).take 4))
  | .stRing o =>
      let g := (s.core k).ring o.ring.toNat
      some (o.cls, [((g.base + g.tail % g.len) * 2048 + o.off.toNat,
        lsSource (s.env k j (.stRing o)) o.file o.reg.toNat (if o.file = .s then 8 else 128))])
  | _ => none

/-- The register of an LD or ST slot lies within the footprint (R23, R192). -/
def InFootprint (x : Ctx) (f : LsFile) (reg : BitVec 10) : Prop := lsFootprint x f reg.toNat = false

/-- A st.ring finds a ring with a slot open to its producer and no window (R195); no other form has a ring. -/
def RingOpen (c : Core) : Instr → Prop
  | .stRing o => (c.ring o.ring.toNat).cfg = true ∧ (c.ring o.ring.toNat).win = none ∧
      (c.ring o.ring.toNat).open_ ≠ 0
  | _ => True

/-- R95, R97: what a load of a class reads, of `w` bytes at each address. That it reads them in its issue cycle, and that
only an access that is independent of it may change them while it is in flight, is the model's choice (log entry 29,
deduced). -/
def ReadBy (s : State) (k j : Nat) (cls : BitVec 2) (as : List Nat) (w : Nat) (l : Load) : Prop :=
  l.cls = cls.toNat ∧ l.addrs = as ∧ l.w = w ∧ l.t = s.now ∧
    l.bytes = as.flatMap fun a => (s.core k).ldBytes j cls.toNat s.free a w

/-- R97: results in flight after a store of a class. A load that is independent of it and not yet delivered may read
other bytes, or come before it; after a store of class 0 no load up to its bundle is still open. Every other result is
as it was. -/
def Overtaken (cls : BitVec 2) (ps qs : List Pend) : Prop :=
  ps.length = qs.length ∧ ∀ p q, (p, q) ∈ ps.zip qs → q = p ∨
    (cls = 0 ∧ p.load.isSome ∧ q = { p with load := none }) ∨
    ∃ l bs n v, p.load = some l ∧ p.done = false ∧ indep l.cls cls.toNat = true ∧
      (v = p.val ∨ v = ({ l with bytes := bs } : Load).value) ∧
      q = { p with load := some { l with bytes := bs, past := List.replicate n cls.toNat ++ l.past }, val := v }

/-- The register that an ST slot names. -/
def stReg : Instr → Option (LsFile × BitVec 10)
  | .stB o | .stH o | .stW o | .stD o | .stV o | .stVs o | .stI o => some (o.file, o.reg)
  | .stRing o => some (o.file, o.reg)
  | _ => none

end Sys2Proof.Claims

/-- R188, R191: a scalar load delivers, no later than t + 5, the bytes at its address as the context sees them,
extended to 64 bits, and changes nothing else. -/
def Sys2Proof.Claims.ScalarLoads : Prop :=
  ∀ (s : State) (k j w : Nat) (i : Instr) (o : LsOp) (ext : Nat → W64),
    loadForm i = some (o, w, ext) → i.wfError = none → s.Calm k j i →
    Reaches (s.core k) (accessAddr (s.ctx k j) o w) → (s.ctx k j).NoneFor (lsDest o.file o.reg.toNat) →
      ∃ l, ReadBy s k j o.cls [accessAddr (s.ctx k j) o w] w l ∧
        l.value = (ext (leNat l.bytes)).zeroExtend 1024 ∧ DeliversLoad i s k j s (lsDest o.file o.reg.toNat) l

/-- R192, R193: ld.v delivers 128 bytes, and ld.vs 32 elements of 4 bytes, lane by lane. -/
def Sys2Proof.Claims.VectorLoads : Prop :=
  ∀ (s : State) (k j : Nat) (o : LsOp), (s.ctx k j).NoneFor (lsDest o.file o.reg.toNat) →
    InFootprint (s.ctx k j) o.file o.reg →
    (s.Calm k j (.ldV o) → (Instr.ldV o).wfError = none → Reaches (s.core k) (accessAddr (s.ctx k j) o 128) →
      ∃ l, ReadBy s k j o.cls [accessAddr (s.ctx k j) o 128] 128 l ∧ l.value = vregOf l.bytes ∧
        DeliversLoad (.ldV o) s k j s (lsDest o.file o.reg.toNat) l) ∧
    (s.Calm k j (.ldVs o) → (Instr.ldVs o).wfError = none →
      (∀ a ∈ elementAddrs (s.ctx k j) o, Reaches (s.core k) a) →
      ∃ l, ReadBy s k j o.cls (elementAddrs (s.ctx k j) o) 4 l ∧
        l.value = ofList 32 ((List.range 32).map fun n => leNat ((l.bytes.drop (4 * n)).take 4)) ∧
        DeliversLoad (.ldVs o) s k j s (lsDest o.file o.reg.toNat) l)

/-- R194, R66: ld.ring reads the slot at head of a ring with a filled slot; its last-read mark pops the slot. -/
def Sys2Proof.Claims.RingLoads : Prop :=
  ∀ (s : State) (k j : Nat) (o : RingOp),
    let g := (s.core k).ring o.ring.toNat
    let a := (g.base + g.head % g.len) * 2048 + o.off.toNat
    let n := if o.file = .s then 8 else 128
    s.Calm k j (.ldRing o) → (Instr.ldRing o).wfError = none → g.cfg = true → g.filled ≠ 0 →
    InFootprint (s.ctx k j) o.file o.reg → Reaches (s.core k) a →
    (s.ctx k j).NoneFor (lsDest o.file o.reg.toNat) →
      ∃ l, ReadBy s k j o.cls [a] n l ∧
        l.value = (if o.file = .s then BitVec.ofNat 1024 (leNat l.bytes) else vregOf l.bytes) ∧
        DeliversLoad (.ldRing o) s k j
          (if o.lr then s.modCore k fun c => c.setRing o.ring.toNat (g.pop j 1 (s.ctx k j).inSeg) else s)
          (lsDest o.file o.reg.toNat) l

/-- R188, R191 to R194: the loads. -/
def Obligations.Loads : Prop := Claims.ScalarLoads ∧ Claims.VectorLoads ∧ Claims.RingLoads

/-- R95, R53: a load of class 0 reads a byte of the block when no store of its context that has not committed
covers it, zero where the block is not present, and the byte of the context's last such store when it covers the
address. -/
def Obligations.LoadsSeeOwnStores : Prop :=
  ∀ (c : Core) (j free a : Nat),
    ((∀ st ∈ c.stq, st.ctx = j → ¬ (st.addr ≤ a ∧ a < st.addr + st.data.length)) →
      ((c.slotSb (a / 2048)).state ≠ .present → c.ldByte j 0 free a = 0) ∧
      ((c.slotSb (a / 2048)).state = .present → (c.slotSb (a / 2048)).stale = none →
        c.ldByte j 0 free a = c.sp.read (c.phys a))) ∧
    (∀ (q : List Store) (st : Store), c.stq = q ++ [st] → st.ctx = j → st.addr ≤ a →
      a < st.addr + st.data.length → c.ldByte j 0 free a = st.data.getD (a - st.addr) 0)

/-- R189, R70, R292: in normal service a load outside the map or in a guard slot delivers zero and, when the context
has no touch pending, records the touch of its address; nothing traps at the load. -/
def Obligations.OutOfRangeLoads : Prop :=
  ∀ (s : State) (k j w : Nat) (i : Instr) (o : LsOp) (ext : Nat → W64),
    loadForm i = some (o, w, ext) → i.wfError = none → s.Calm k j i → (s.core k).smode = 0 →
    (s.core k).offLimits (accessAddr (s.ctx k j) o w) = true → (s.ctx k j).guard = none →
    (s.ctx k j).NoneFor (lsDest o.file o.reg.toNat) →
      let a := accessAddr (s.ctx k j) o w
      ∃ l, ReadBy s k j o.cls [a] w l ∧ l.value = 0 ∧ DeliversLoad i s k j (s.modCtx k j fun x => { x with
          guard := some { cause := 6, fatal := false, info0 := BitVec.ofNat 64 (a / 2048 % 32),
                          info1 := BitVec.ofNat 64 a, info2 := 0, info3 := 0, cc := none, seq := 0 } })
        (lsDest o.file o.reg.toNat) l

/-- R95, R191 to R193, R195, R297: a store whose units reach their blocks waits in the store queue with its address,
its bytes, its class and its cycle, and is counted into the CRC of the context; a load in flight that is independent
of it may come after it (R97), also one that an open segment's snapshot waits for (R134); no block, no register and
nothing else changes. A pending store of an independent
class of an earlier bundle is left out (R97). -/
def Obligations.StoresAreQueued : Prop :=
  ∀ (s : State) (k j : Nat) (i : Instr) (cls : BitVec 2) (us : List (Nat × List Byte)) (f : LsFile) (reg : BitVec 10),
    storeUnits s k j i = some (cls, us) → stReg i = some (f, reg) → i.wfError = none → s.Calm k j i →
    InFootprint (s.ctx k j) f reg → RingOpen (s.core k) i → (∀ u ∈ us, Reaches (s.core k) u.1) →
    (∀ p ∈ (s.core k).stq, indep p.cls cls.toNat = false) →
      ∃ ps, Overtaken cls (s.ctx k j).pend ps ∧ Completes i s k j (s.modCore k fun c =>
        { (c.setCtx j { c.ctx j with
            pend := ps, snap := if cls = 0 then (c.ctx j).snap else (c.ctx j).snap.map (·.follow ps),
            stCrc := us.foldl (fun v u => crcBytes v (leBytes 8 u.1 ++ u.2)) (c.ctx j).stCrc }) with
          stq := c.stq ++ us.map fun u => { ctx := j, addr := u.1, data := u.2, cls := cls.toNat, t := s.now } })

/-- R95, R54, R53: two cycles after its issue the oldest store commits, and in test mode, where only the raw port sees
it, in the cycle after (R338; log entry 111): it leaves the queue, its bytes are in the block,
which is present from now on, and every other byte of the scratchpad reads as before; a poisoned block keeps its state
and takes no byte. -/
def Obligations.StoreCommits : Prop :=
  ∀ (s : State) (k : Nat) (st : Store) (q : List Store),
    let slot := st.addr / 2048
    let poisoned := ((s.core k).slotSb slot).state = .poisoned
    (s.core k).stq = st :: q → st.t + (if (s.core k).smode = 2 then 3 else 2) ≤ s.now → slot = (st.addr + st.data.length - 1) / 2048 →
    st.addr + st.data.length ≤ 0x140000 → (s.core k).sp.wf = true → (s.core k).flips = [] →
      ∃ t, exec (.storeCommit k) s = .next t ∧ (t.core k).stq = q ∧
        (poisoned → (t.core k).slotSb slot = (s.core k).slotSb slot ∧
          ∀ a, (t.core k).spByte a = (s.core k).spByte a) ∧
        (¬ poisoned → ((t.core k).slotSb slot).state = .present ∧ ((t.core k).slotSb slot).clean = false ∧
          (∀ n, n < st.data.length → (t.core k).spByte (st.addr + n) = st.data.getD n 0) ∧
          (∀ a, a < 0x140000 → (a < st.addr ∨ st.addr + st.data.length ≤ a) →
            (t.core k).spByte a = (s.core k).spByte a)) ∧
        (∀ n, n ≠ slot → (t.core k).slotSb n = (s.core k).slotSb n) ∧
        (∀ n, (t.core k).ctx n = (s.core k).ctx n) ∧ (∀ n, n ≠ k → t.core n = s.core n) ∧
        t.frame = s.frame

/-- R196, R139, R287: in a half in which no resident context runs, and outside the handler lines or in P, st.i waits
as a store into the instruction scratchpad; nothing else changes until a fence. -/
def Obligations.InstructionStores : Prop :=
  ∀ (s : State) (k j : Nat) (o : LsOp),
    let n := match o.file with | .s | .a => 8 | _ => 128
    let a := accessAddr (s.ctx k j) o n % 65536
    s.Calm k j (.stI o) → (Instr.stI o).wfError = none → InFootprint (s.ctx k j) o.file o.reg →
    (s.core k).runners (a / 0x8000) = 0 →
    ((s.ctx k j).priv = true ∨ (s.core k).vec = 0 ∨ a + n ≤ (s.core k).vec) →
      let bs := lsSource (s.env k j (.stI o)) o.file o.reg.toNat n
      Completes (.stI o) s k j (s.modCore k fun c =>
        { (c.setCtx j { c.ctx j with stCrc := crcBytes (c.ctx j).stCrc (leBytes 8 a ++ bs) }) with
          iq := c.iq ++ [{ ctx := j, addr := a, data := bs, t := s.now }] })

/-- R197: the address forms write A[d] with latency 1, from the addresses that they read (R131); a0 ignores the write, and ag.wrap corrects the sum once into
the buffer. -/
def Obligations.AddressForms : Prop :=
  ∀ (s : State) (k j : Nat) (slot : AgSlot) (d b n : BitVec 5) (off : BitVec 18),
    (s.ctx k j).NoneFor (.areg d.toNat) → ∃ vb vn, MayRead (s.ctx k j) b.toNat vb ∧ MayRead (s.ctx k j) n.toNat vn ∧
    let sum := vb + BitVec.ofInt 64 off.toInt
    let lo := (vn.extractLsb' 0 32).toNat
    let hi := (vn.extractLsb' 32 32).toNat
    (s.Calm k j (.agAdd slot d b n) → Completes (.agAdd slot d b n) s k j (s.putA k j d.toNat (vb + vn))) ∧
    (s.Calm k j (.agAddi slot d b off) → Completes (.agAddi slot d b off) s k j (s.putA k j d.toNat sum)) ∧
    (s.Calm k j (.agMov slot d b) → Completes (.agMov slot d b) s k j (s.putA k j d.toNat vb)) ∧
    (s.Calm k j (.agWrap slot d b n off) →
      Completes (.agWrap slot d b n off) s k j (s.putA k j d.toNat
        (if hi ≤ lo then sum
         else if hi ≤ sum.toNat then BitVec.ofNat 64 (sum.toNat - (hi - lo))
         else if sum.toNat < lo then BitVec.ofNat 64 (sum.toNat + (hi - lo)) else sum)))

/-! ## The VA and VB slots -/

namespace Sys2Proof.Claims

/-- The signed value of a `w`-bit code. -/
def signed (w x : Nat) : Int := (BitVec.ofNat w x).toInt

/-- R199, R209: an exact integer result in `w` bits: clamped under code 101, wrapped otherwise. -/
def fits (w : Nat) (r : Rnd) (v : Int) : Nat :=
  if r = .sat then (BitVec.ofInt w (max (-2 ^ (w - 1)) (min v (2 ^ (w - 1) - 1)))).toNat else (BitVec.ofInt w v).toNat

/-- R203, R221: the order of the codes of a floating format, −0 below +0. -/
def place (f : Fmt) (x : Nat) : Int := if f.signOf x then -(f.magOf x : Int) - 1 else f.magOf x

/-- R203: the smaller and the larger code: NaN when either is NaN, and unsigned for integers. -/
def smaller (f : Fmt) (a b : Nat) : Nat :=
  if f.isFloat then
    if f.isNan a ∨ f.isNan b then f.nanCode else if place f b < place f a then b else a
  else min a b
def larger (f : Fmt) (a b : Nat) : Nat :=
  if f.isFloat then
    if f.isNan a ∨ f.isNan b then f.nanCode else if place f a < place f b then b else a
  else max a b

/-- R202: the exact sum of values, rounded once. -/
def roundedSum (o : VOp) (vs : List Val) : Nat := o.fmt.round o.rnd (sumVals o.rnd vs)

/-- R121: the value of a function is rounded once; an infinite one is delivered as the table of R121 gives it, under
every rounding code. -/
def functionCode (o : VOp) (v : Val) : Nat :=
  match v with
  | .inf neg => o.fmt.join neg o.fmt.infCode
  | v => o.fmt.round o.rnd v

/-- R202 to R205, R209, R210: the fields, the latency and the value of an element of the element-wise instructions,
from the elements a, b and c of s1, s2 and s3. -/
def elementForm : Instr → Option (VOp × Nat × (Nat → Nat → Nat → Nat))
  | .vAdd o => some (o, 2, fun a b _ => roundedSum o [o.fmt.val a, o.fmt.val b])
  | .vSub o => some (o, 2, fun a b _ => roundedSum o [o.fmt.val a, (o.fmt.val b).neg])
  | .vMul o => some (o, 2, fun a b _ => o.fmt.round o.rnd ((o.fmt.val a).mul (o.fmt.val b)))
  | .vFma o => some (o, 4, fun a b c => roundedSum o [(o.fmt.val a).mul (o.fmt.val b), o.fmt.val c])
  | .vFms o => some (o, 4, fun a b c => roundedSum o [(o.fmt.val a).mul (o.fmt.val b), (o.fmt.val c).neg])
  | .vFnma o => some (o, 4, fun a b c => roundedSum o [o.fmt.val c, ((o.fmt.val a).mul (o.fmt.val b)).neg])
  | .vMin o => some (o, 2, fun a b _ => smaller o.fmt a b)
  | .vMax o => some (o, 2, fun a b _ => larger o.fmt a b)
  | .vAbs o => some (o, 2, fun a _ _ =>
      if o.fmt.isFloat then if o.fmt.isNan a then o.fmt.nanCode else a % 2 ^ (o.fmt.width - 1)
      else fits o.fmt.width .rne ((signed o.fmt.width a).natAbs : Int))
  | .vNeg o => some (o, 2, fun a _ _ =>
      if o.fmt.isFloat then
        if o.fmt.isNan a then o.fmt.nanCode else (a + 2 ^ (o.fmt.width - 1)) % 2 ^ o.fmt.width
      else fits o.fmt.width .rne (-signed o.fmt.width a))
  | .vClamp o => some (o, 2, fun a b c => smaller o.fmt (larger o.fmt a b) c)
  | .vRcp o => some (o, 6, fun a _ _ => rcpCode o.fmt (o.fmt.val a))
  | .vRsq o => some (o, 6, fun a _ _ => rsqCode o.fmt (o.fmt.val a))
  | .vSqrt o => some (o, 6, fun a _ _ => functionCode o (sqrtVal (o.fmt.val a)))
  | .vExp2 o => some (o, 6, fun a _ _ => functionCode o (exp2Val (o.fmt.val a)))
  | .vLog2 o => some (o, 6, fun a _ _ => functionCode o (log2Val (o.fmt.val a)))
  | .vRint o => some (o, 6, fun a _ _ => o.fmt.round o.rnd (rintVal o.rnd (o.fmt.val a)))
  | .vIadd o => some (o, 2, fun a b _ => fits o.fmt.width o.rnd (signed o.fmt.width a + signed o.fmt.width b))
  | .vIsub o => some (o, 2, fun a b _ => fits o.fmt.width o.rnd (signed o.fmt.width a - signed o.fmt.width b))
  | .vImul o => some (o, 2, fun a b _ => fits o.fmt.width o.rnd (signed o.fmt.width a * signed o.fmt.width b))
  | .vImad o => some (o, 2, fun a b c =>
      fits o.fmt.width o.rnd (signed o.fmt.width a * signed o.fmt.width b + signed o.fmt.width c))
  | .vAnd o => some (o, 2, fun a b _ => a &&& b)
  | .vOr o => some (o, 2, fun a b _ => a ||| b)
  | .vXor o => some (o, 2, fun a b _ => a ^^^ b)
  | .vShl o => some (o, 2, fun a b _ => (a <<< (b % o.fmt.width)) % 2 ^ o.fmt.width)
  | .vShr o => some (o, 2, fun a b _ => a >>> (b % o.fmt.width))
  | .vSra o => some (o, 2, fun a b _ => ((BitVec.ofNat o.fmt.width a).sshiftRight (b % o.fmt.width)).toNat)
  | .vPop o => some (o, 2, fun a _ _ => (List.range o.fmt.width).countP fun n => a.testBit n)
  | .vClz o => some (o, 2, fun a _ _ =>
      ((List.range o.fmt.width).find? fun n => a.testBit (o.fmt.width - 1 - n)).getD o.fmt.width)
  | .vImin o => some (o, 2, fun a b _ => if signed o.fmt.width b < signed o.fmt.width a then b else a)
  | .vImax o => some (o, 2, fun a b _ => if signed o.fmt.width a < signed o.fmt.width b then b else a)
  | _ => none

/-- A vector slot that issues: well-formed, in a compute superstep (R38), its operands within the footprint (R23). -/
structure VectorReady (s : State) (k j : Nat) (i : Instr) : Prop where
  calm  : s.Calm k j i
  wf    : i.wfError = none
  phase : (s.ctx k j).phase.getLsbD 0 = false
  foot  : vFootprint (s.env k j i) i = none

/-- R127: the sources of a vector slot, as registers. -/
def source1 (s : State) (k j : Nat) (i : Instr) (o : VOp) : VReg := vsrc (s.env k j i) o.unit o.fmt 1 o.s1.toNat
def source2 (s : State) (k j : Nat) (i : Instr) (o : VOp) : VReg := vsrc (s.env k j i) o.unit o.fmt 2 o.s2.toNat
def source3 (s : State) (k j : Nat) (i : Instr) (o : VOp) : VReg := vsrc (s.env k j i) o.unit o.fmt 3 o.s3.toNat

/-- R129: the holds of an instruction take effect. -/
def held (s : State) (k j : Nat) (i : Instr) (o : VOp) : State := s.modCtx k j (holdAll (s.env k j i) i o)

/-- R128, R131, R199: the instruction completes; its holds take effect, its result is under way to the lanes of its
destination, and the latches have moved. -/
def GivesV (i : Instr) (o : VOp) (s : State) (k j lat : Nat) (lanes : BitVec 32) (v : VReg) : Prop :=
  ∃ at_, s.now < at_ ∧ at_ ≤ s.now + lat ∧
    Completes i s k j (((held s k j i o).sends k j (.vreg o.unit o.d.toNat) lanes v lat (hbOf o.unit) at_).modCtx k j
      fun x => x.moveLatch o.unit lanes v (s.now + lat) s.now s.free)

/-- The lanes on which a vector slot works (R164, R199). -/
def lanesOf (s : State) (k j : Nat) (o : VOp) : BitVec 32 := (s.ctx k j).rdK o.unit o.mask.toNat

/-- R127: 1 in the format. -/
def oneCode : Fmt → Nat
  | .f32 => 0x3F800000
  | .bf16 => 0x3F80
  | .f16 => 0x3C00
  | .e4m3 => 0x38
  | .e5m2 => 0x3C
  | .i32 | .i16 | .i8 => 1

end Sys2Proof.Claims

/-- R126, R127, R129: what an operand code reads: a register, a latch whose entry is readable, the port, zero, one, or
the held value; a s.bc of the bundle supplies the port. -/
def Obligations.VectorOperandCodes : Prop :=
  ∀ (e : Env) (u : VUnit) (f : Fmt) (pos code n : Nat), n < f.count →
    (code < 800 → vsrc e u f pos code = e.c.rdV e.j u code) ∧
    ((e.x.latch0 u).due ≤ e.s.now → vsrc e u f pos 800 = (e.x.latch0 u).val) ∧
    ((e.x.latch1 u).due ≤ e.s.now → vsrc e u f pos 801 = (e.x.latch1 u).val) ∧
    elemOf f.width (vsrc e u f pos 802) n = (e.port.extractLsb' 0 f.width).toNat ∧
    elemOf f.width (vsrc e u f pos 803) n = 0 ∧
    elemOf f.width (vsrc e u f pos 804) n = oneCode f ∧
    vsrc e u f pos 1023 = e.x.hold u pos ∧
    (∀ (a : BitVec 6) (is : List Instr), e.ins = .sBc a :: is → e.port = e.x.rdS a.toNat) ∧
    (e.ins.all (fun i => match i with | .sBc _ => false | _ => true) = true → e.port = e.x.port)

/-- R202 to R205, R209, R210: an element-wise instruction gives every element of its destination its value, in the
active lanes, with its latency; the latches move, holds take effect, and nothing else changes. That v.exp2 and v.log2 are
computed to a fixed precision before they are rounded is log entry 31 (presumed), and that an infinite result of a function
stays infinite under .sat log entry 27 (deduced). -/
def Obligations.VectorElementwise : Prop :=
  ∀ (s : State) (k j lat : Nat) (i : Instr) (o : VOp) (f : Nat → Nat → Nat → Nat),
    elementForm i = some (o, lat, f) → VectorReady s k j i → (s.ctx k j).NoneFor (.vreg o.unit o.d.toNat) →
      ∃ v, GivesV i o s k j lat (lanesOf s k j o) v ∧
        ∀ n, n < o.fmt.count → elemOf o.fmt.width v n =
          f (elemOf o.fmt.width (source1 s k j i o) n) (elemOf o.fmt.width (source2 s k j i o) n)
            (elemOf o.fmt.width (source3 s k j i o) n)

namespace Sys2Proof.Claims

/-- R206: the order of a comparison, where −0 equals +0 and integers are signed. -/
def rank (f : Fmt) (x : Nat) : Int :=
  if f.isFloat then if f.signOf x then -(f.magOf x : Int) else f.magOf x else signed f.width x

/-- R206: the conditions. -/
def condition (f : Fmt) (cond : BitVec 4) (a b : Nat) : Bool :=
  let nan := f.isFloat && (f.isNan a || f.isNan b)
  if cond = 0 then !nan && rank f a == rank f b
  else if cond = 1 then nan || rank f a != rank f b
  else if cond = 2 then !nan && decide (rank f a < rank f b)
  else if cond = 3 then !nan && decide (rank f a ≤ rank f b)
  else if cond = 4 then !nan && decide (rank f b < rank f a)
  else if cond = 5 then !nan && decide (rank f b ≤ rank f a)
  else nan

/-- The elements of a lane (R199). -/
def inLane (f : Fmt) (lane n : Nat) : Prop := n < f.count ∧ n * f.width / 32 = lane

/-- R208: the operations on masks. -/
def maskOp (op : BitVec 4) (a b : Bool) : Bool :=
  if op = 0 then a && b else if op = 1 then a || b else if op = 2 then xor a b
  else if op = 3 then a && !b else !a

end Sys2Proof.Claims

/-- R206, R207, R208: comparisons and mask operations set a bit only in an active lane, and move no latch; v.kpop
counts the bits of a mask in active lanes; v.sel moves whole lanes. -/
def Obligations.VectorMasks : Prop :=
  ∀ (s : State) (k j : Nat) (o : VOp),
    let x := s.ctx k j
    (VectorReady s k j (.vCmp o) → x.NoneFor (.vmask o.unit o.d.toNat) →
      ∃ m : W32, Delivers (.vCmp o) s k j (held s k j (.vCmp o) o) (.vmask o.unit o.d.toNat) allLanes
          (m.zeroExtend 1024) 2 (hbOf o.unit) ∧
        ∀ l, l < 32 → (m.getLsbD l = true ↔ (lanesOf s k j o).getLsbD l = true ∧ ∀ n, inLane o.fmt l n →
          condition o.fmt o.sub (elemOf o.fmt.width (source1 s k j (.vCmp o) o) n)
            (elemOf o.fmt.width (source2 s k j (.vCmp o) o) n) = true)) ∧
    (VectorReady s k j (.vKop o) → x.NoneFor (.vmask o.unit o.d.toNat) →
      ∃ m : W32, Delivers (.vKop o) s k j s (.vmask o.unit o.d.toNat) allLanes (m.zeroExtend 1024) 2 (hbOf o.unit) ∧
        ∀ l, l < 32 → m.getLsbD l = ((lanesOf s k j o).getLsbD l && maskOp o.sub
          ((x.rdK o.unit o.s1.toNat).getLsbD l) ((x.rdK o.unit o.s2.toNat).getLsbD l))) ∧
    (VectorReady s k j (.vKpop o) → x.NoneFor (.sreg o.d.toNat) →
      Delivers (.vKpop o) s k j s (.sreg o.d.toNat) allLanes (BitVec.ofNat 1024
        ((List.range 32).countP fun l => (x.rdK o.unit o.s1.toNat).getLsbD l && (lanesOf s k j o).getLsbD l))
        3 (hbOf o.unit)) ∧
    (VectorReady s k j (.vSel o) → x.NoneFor (.vreg o.unit o.d.toNat) →
      ∃ v, GivesV (.vSel o) o s k j 2 (lanesOf s k j o) v ∧
        ∀ l, l < 32 → elemOf 32 v l =
          if (x.rdK o.unit o.sub.toNat).getLsbD l then elemOf 32 (source1 s k j (.vSel o) o) l
          else elemOf 32 (source2 s k j (.vSel o) o) l)

namespace Sys2Proof.Claims

/-- R115: one element under an ef code, from the residual `res`: its output, and the residual after it. An exact number
m · 2^e is written (m, e). -/
def feedback (src : Fmt) (tgt : Target) (r : Rnd) (res : Int × Int) (x : Nat) : Nat × (Int × Int) :=
  if src.val x = .nan ∨ (∃ neg, src.val x = .inf neg) then (convert src tgt r x, (0, 0))
  else
    let xs := dyAdd (src.val x).dyadic res
    let exact := Val.dy xs.1 xs.2
    match tgt with
    | .dp8 =>
      let y := toDp8 exact
      (y, if 2 * 2 ^ (-xs.2).toNat < xs.1.natAbs * 2 ^ xs.2.toNat then (0, 0) else dyAdd xs (-(dp8Units y), -6))
    | .fmt f =>
      if f.maxCode < f.roundMag .rne (decide (xs.1 < 0)) xs.1.natAbs xs.2 ∧ xs.1 ≠ 0 then
        (f.overflow r (decide (xs.1 < 0)), (0, 0))
      else
        let y := f.round .rne exact
        (y, dyAdd xs (-(f.val y).dyadic.1, (f.val y).dyadic.2))
    | .uint32 => (convert src tgt r x, (0, 0))

/-- R115: the outputs for a list of elements, each with whether it is active: an inactive one has no output, and leaves
the residual as it is. -/
def outputs (src : Fmt) (tgt : Target) (r : Rnd) : Int × Int → List (Nat × Bool) → List (Option Nat)
  | _, [] => []
  | res, (_, false) :: xs => none :: outputs src tgt r res xs
  | res, (x, true) :: xs =>
    some (feedback src tgt r res x).1 :: outputs src tgt r (feedback src tgt r res x).2 xs

/-- R211, R213: what a conversion makes of element `n` of a list: each is converted on its own, or under an ef code in
element order; `lanes` are the lanes of the destination that are active. -/
def converted (o : VOp) (tgt : Target) (lanes : BitVec 32) (xs : List Nat) (n y : Nat) : Prop :=
  let act := fun n => lanes.getLsbD (n / (32 / tgt.width))
  if o.rnd = .ef ∨ o.rnd = .efsat then
    act n = true → some y = ((outputs o.fmt tgt o.rnd (0, 0)
      ((List.range xs.length).map fun m => (xs.getD m 0, act m)))[n]?).join
  else y = convert o.fmt tgt o.rnd (xs.getD n 0)

end Sys2Proof.Claims

/-- R211 to R214, R115: the conversions. v.cvt writes zeros beyond the elements of its source, and reads unsigned words,
with sh fraction bits where frac is set; v.pack takes s1's elements and then s2's; v.unpack widens 32 elements. Under an ef
code each active element is rounded with the residual of the active ones before it added, which is what their roundings
left over, and 0 after an overflow, an infinity or a NaN. -/
def Obligations.VectorConversions : Prop :=
  ∀ (s : State) (k j : Nat) (o : VOp), (s.ctx k j).NoneFor (.vreg o.unit o.d.toNat) →
    let lanes := lanesOf s k j o
    let elems := fun v => (List.range o.fmt.count).map (elemOf o.fmt.width v)
    (∀ tgt, VectorReady s k j (.vCvt o) → Target.ofCode o.sub.toNat = some tgt →
      ∃ v, GivesV (.vCvt o) o s k j 4 lanes v ∧
        ∀ n, n < 1024 / tgt.width →
          let src := source1 s k j (.vCvt o) o
          if o.s2.getLsbD 9 then
            n < 32 → ∀ f, tgt = .fmt f → elemOf f.width v n = f.round o.rnd (
              if o.s2.getLsbD 8 then
                Val.dy ((elemOf 32 src n >>> (o.s2.extractLsb' 0 5).toNat : Nat) : Int)
                  (((o.s2.extractLsb' 0 5).toNat : Int) - 32)
              else Val.dy ((elemOf 32 src n : Nat) : Int) 0)
          else if n < o.fmt.count then converted o tgt lanes (elems src) n (elemOf tgt.width v n)
          else elemOf tgt.width v n = 0) ∧
    (∀ tgt, VectorReady s k j (.vPack o) → Target.ofCode o.sub.toNat = some tgt →
      ∃ v, GivesV (.vPack o) o s k j 4 lanes v ∧
        ∀ n, n < 2 * o.fmt.count → converted o tgt lanes
          (elems (source1 s k j (.vPack o) o) ++ elems (source2 s k j (.vPack o) o)) n (elemOf tgt.width v n)) ∧
    (VectorReady s k j (.vUnpack o) →
      ∃ v, GivesV (.vUnpack o) o s k j 2 (lanesOf s k j o) v ∧
        ∀ n, n < 32 → elemOf 32 v n = convert o.fmt (.fmt (if o.fmt.isFloat then .f32 else .i32)) .rne
          (elemOf o.fmt.width (source1 s k j (.vUnpack o) o) (32 * o.sub.toNat + n)))

namespace Sys2Proof.Claims

/-- R215, R216: the element that a lane movement puts at place `n`, from the elements of its sources; the width of an
element, and the fields. -/
def movementForm (s : State) (k j : Nat) : Instr → Option (VOp × Nat × (Nat → Nat))
  | .vPerm o => some (o, 32, fun n =>
      elemOf 32 (source1 s k j (.vPerm o) o) (elemOf 32 (source2 s k j (.vPerm o) o) n % 32))
  | .vRot o => some (o, 32, fun n =>
      elemOf 32 (source1 s k j (.vRot o) o) ((n + elemOf 32 (source2 s k j (.vRot o) o) 0) % 32))
  | .vZip o => some (o, o.fmt.width, fun n =>
      elemOf o.fmt.width (if n % 2 = 0 then source1 s k j (.vZip o) o else source2 s k j (.vZip o) o)
        (o.sub.toNat * (o.fmt.count / 2) + n / 2))
  | .vUnzip o => some (o, o.fmt.width, fun n =>
      if 2 * n + o.sub.toNat < o.fmt.count then
        elemOf o.fmt.width (source1 s k j (.vUnzip o) o) (2 * n + o.sub.toNat)
      else elemOf o.fmt.width (source2 s k j (.vUnzip o) o) (2 * n + o.sub.toNat - o.fmt.count))
  | .vSplat o => some (o, o.fmt.width, fun _ =>
      elemOf o.fmt.width (source1 s k j (.vSplat o) o) (elemOf 32 (source2 s k j (.vSplat o) o) 0 % o.fmt.count))
  | .vIns o => some (o, o.fmt.width, fun n =>
      if n = elemOf 32 (source3 s k j (.vIns o) o) 0 % o.fmt.count then
        elemOf o.fmt.width (source2 s k j (.vIns o) o) 0
      else elemOf o.fmt.width (source1 s k j (.vIns o) o) n)
  | .vIota o => some (o, o.fmt.width, fun n =>
      (elemOf o.fmt.width (source1 s k j (.vIota o) o) 0 + n) % 2 ^ o.fmt.width)
  | .vMov o => some (o, 32, fun n => elemOf 32 (source1 s k j (.vMov o) o) n)
  | .vXcp o => some (o, 32, fun n =>
      elemOf 32 ((s.core k).rdV j (match o.unit with | .va => .vb | .vb => .va) o.s1.toNat) n)
  | .vMovi o => some (o, o.fmt.width, fun _ =>
      match o.fmt with
      | .i32 => ((o.s1 ++ o.s2).signExtend 32).toNat
      | .f32 => ((o.s1 ++ o.s2) ++ (0 : BitVec 12)).toNat
      | .bf16 | .f16 | .i16 => ((o.s1 ++ o.s2).extractLsb' 0 16).toNat
      | .e4m3 | .e5m2 | .i8 => (o.s2.extractLsb' 0 8).toNat)
  | _ => none

end Sys2Proof.Claims

/-- R215, R216, R223, R155: lane movements, moves and constants, with latency 2; v.ext moves one element to the
s-file with latency 3, and moves no latch (R217); v.rng draws from the port in every active lane, with latency 3
(R222). -/
def Obligations.VectorMovement : Prop :=
  ∀ (s : State) (k j : Nat),
    (∀ (i : Instr) (o : VOp) (w : Nat) (f : Nat → Nat), movementForm s k j i = some (o, w, f) →
      VectorReady s k j i → (s.ctx k j).NoneFor (.vreg o.unit o.d.toNat) →
        ∃ v, GivesV i o s k j 2 (lanesOf s k j o) v ∧ ∀ n, n < 1024 / w → elemOf w v n = f n) ∧
    (∀ o : VOp, VectorReady s k j (.vExt o) → (s.ctx k j).NoneFor (.sreg o.d.toNat) →
      Delivers (.vExt o) s k j (held s k j (.vExt o) o) (.sreg o.d.toNat) allLanes
        (BitVec.ofNat 1024 (elemOf o.fmt.width (source1 s k j (.vExt o) o)
          (elemOf 32 (source2 s k j (.vExt o) o) 0 % o.fmt.count))) 3 (hbOf o.unit)) ∧
    (∀ o : VOp, VectorReady s k j (.vRng o) → (s.ctx k j).NoneFor (.vreg o.unit o.d.toNat) →
      ∃ v, GivesV (.vRng o) o s k j 3 (lanesOf s k j o) v ∧
        ∀ n, n < 32 → elemOf 32 v n = (kch32 (BitVec.ofNat 32 (elemOf 32 (source1 s k j (.vRng o) o) n))
          ((s.ctx k j).port.extractLsb' 0 32)).toNat)

namespace Sys2Proof.Claims

/-- R218: the elements of the active lanes up to place `n`, in element order. -/
def activeUpTo (f : Fmt) (lanes : BitVec 32) (v : VReg) (n : Nat) : List Nat :=
  ((List.range n).filter fun m => lanes.getLsbD (m * f.width / 32)).map (elemOf f.width v)

/-- R218, R219: the sum of a set, exact and rounded once, or wrapped or clamped. -/
def sumOf (o : VOp) (xs : List Nat) : Nat :=
  if o.fmt.isFloat then roundedSum o (xs.map o.fmt.val)
  else fits o.fmt.width o.rnd (xs.map (signed o.fmt.width)).sum

/-- R218, R220: the order of a reduction: −0 below +0, NaN above every number, integers signed. -/
def height (f : Fmt) (x : Nat) : Int :=
  if f.isFloat then if f.isNan x then 2 ^ 40 else place f x else signed f.width x

/-- R218: the largest or smallest element, or NaN where there is one. -/
def IsExtreme (f : Fmt) (big : Bool) (xs : List Nat) (m : Nat) : Prop :=
  if f.isFloat ∧ ∃ x ∈ xs, f.isNan x = true then m = f.nanCode
  else m ∈ xs ∧ ∀ x ∈ xs, if big then height f x ≤ height f m else height f m ≤ height f x

/-- The instruction completes and writes nothing but its holds. -/
def WritesNothing (i : Instr) (o : VOp) (s : State) (k j : Nat) : Prop := Completes i s k j (held s k j i o)

end Sys2Proof.Claims

/-- R218 to R220: the reductions put their result into every element, and write nothing when no lane is active; a scan
gives each element the sum of its prefix. That the latches do not move when no lane is active is the model's choice (log
entry 39, deduced). -/
def Obligations.VectorReductions : Prop :=
  ∀ (s : State) (k j : Nat) (o : VOp), (s.ctx k j).NoneFor (.vreg o.unit o.d.toNat) →
    let lanes := lanesOf s k j o
    let all := fun i => activeUpTo o.fmt lanes (source1 s k j i o) o.fmt.count
    (VectorReady s k j (.vRsum o) →
      if lanes = 0 then WritesNothing (.vRsum o) o s k j
      else ∃ v, GivesV (.vRsum o) o s k j 2 lanes v ∧
        ∀ n, n < o.fmt.count → elemOf o.fmt.width v n = sumOf o (all (.vRsum o))) ∧
    (VectorReady s k j (.vRmax o) →
      if lanes = 0 then WritesNothing (.vRmax o) o s k j
      else ∃ v, GivesV (.vRmax o) o s k j 2 lanes v ∧
        ∀ n, n < o.fmt.count → IsExtreme o.fmt true (all (.vRmax o)) (elemOf o.fmt.width v n)) ∧
    (VectorReady s k j (.vRmin o) →
      if lanes = 0 then WritesNothing (.vRmin o) o s k j
      else ∃ v, GivesV (.vRmin o) o s k j 2 lanes v ∧
        ∀ n, n < o.fmt.count → IsExtreme o.fmt false (all (.vRmin o)) (elemOf o.fmt.width v n)) ∧
    (VectorReady s k j (.vArgmax o) →
      if lanes = 0 then WritesNothing (.vArgmax o) o s k j
      else ∃ v e, GivesV (.vArgmax o) o s k j 2 lanes v ∧ (∀ n, n < 32 → elemOf 32 v n = e) ∧
        e < o.fmt.count ∧ lanes.getLsbD (e * o.fmt.width / 32) = true ∧
        ∀ n, n < o.fmt.count → lanes.getLsbD (n * o.fmt.width / 32) = true →
          let h := fun n => height o.fmt (elemOf o.fmt.width (source1 s k j (.vArgmax o) o) n)
          h n ≤ h e ∧ (h n = h e → e ≤ n)) ∧
    (VectorReady s k j (.vScan o) →
      ∃ v, GivesV (.vScan o) o s k j 4 lanes v ∧
        ∀ n, n < o.fmt.count → elemOf o.fmt.width v n =
          sumOf o (activeUpTo o.fmt lanes (source1 s k j (.vScan o) o) (if o.sub = 0 then n + 1 else n)))

namespace Sys2Proof.Claims

/-- R221: the entries of two register pairs: key and payload of lane n of s1, then of s2. -/
def entries (s : State) (k j : Nat) (o : VOp) : List (Nat × Nat) :=
  let pair := fun code => (List.range 32).map fun n =>
    (elemOf 32 ((s.core k).rdV j o.unit code) n, elemOf 32 ((s.core k).rdV j o.unit (code + 1)) n)
  pair o.s1.toNat ++ pair o.s2.toNat

/-- R221: Before(x, y). -/
def before (o : VOp) (x y : Nat × Nat) : Bool :=
  if o.sub.getLsbD 0 then decide (height o.fmt y.1 < height o.fmt x.1)
  else decide (height o.fmt x.1 < height o.fmt y.1)

/-- R221: 64 entries in their stable order: a rearrangement in which no entry comes before an earlier one, and equal
ones keep the order of the list. -/
def StableOrder (o : VOp) (xs : List (Nat × Nat)) (p : List Nat) : Prop :=
  p.Perm (List.range xs.length) ∧
    p.Pairwise fun a b => before o (xs.getD b (0, 0)) (xs.getD a (0, 0)) = false ∧
      (before o (xs.getD a (0, 0)) (xs.getD b (0, 0)) = true ∨ a < b)

/-- R221: the procedure of v.merge, `i` and `j` entries of the two lists having gone out. -/
def mergeFrom (o : VOp) (xs : List (Nat × Nat)) : Nat → Nat → Nat → List (Nat × Nat)
  | 0, _, _ => []
  | n + 1, i, j =>
    let x := xs.getD i (0, 0)
    let y := xs.getD (32 + j) (0, 0)
    if j = 32 ∨ (i < 32 ∧ before o y x = false) then x :: mergeFrom o xs n (i + 1) j
    else y :: mergeFrom o xs n i (j + 1)

/-- R221: 32 entries go to d and d + 1 in eight cycles; a NaN key is written as the canonical NaN, and the latches take
d. -/
def GivesEntries (i : Instr) (o : VOp) (s : State) (k j : Nat) (out : Nat → Nat × Nat) : Prop :=
  ∃ v w a b, s.now < a ∧ a ≤ s.now + 8 ∧ s.now < b ∧ b ≤ s.now + 8 ∧
    (∀ n, n < 32 → elemOf 32 v n =
      if o.fmt.isFloat ∧ o.fmt.isNan (out n).1 = true then o.fmt.nanCode else (out n).1) ∧
    (∀ n, n < 32 → elemOf 32 w n = (out n).2) ∧
    Completes i s k j (((s.sends k j (.vreg o.unit o.d.toNat) allLanes v 8 (hbOf o.unit) a).modCtx k j
      fun x => x.moveLatch o.unit allLanes v (s.now + 8) s.now s.free).sends k j
        (.vreg o.unit (o.d.toNat + 1)) allLanes w 8 (hbOf o.unit) b)

end Sys2Proof.Claims

/-- R221: v.sort writes the 32 first of 64 entries in stable order; v.merge writes the first or the last 32 entries
of the merge of two lists, sorted or not. -/
def Obligations.VectorSortAndMerge : Prop :=
  ∀ (s : State) (k j : Nat) (o : VOp), (s.ctx k j).NoneFor (.vreg o.unit o.d.toNat) →
    (s.ctx k j).NoneFor (.vreg o.unit (o.d.toNat + 1)) →
    (VectorReady s k j (.vSort o) → ∃ p, StableOrder o (entries s k j o) p ∧
      GivesEntries (.vSort o) o s k j fun n => (entries s k j o).getD (p.getD n 0) (0, 0)) ∧
    (VectorReady s k j (.vMerge o) → GivesEntries (.vMerge o) o s k j fun n =>
      (mergeFrom o (entries s k j o) 64 0 0).getD (if o.sub.getLsbD 1 then 32 + n else n) (0, 0))

/-- R137, R224: v.park copies a register into a free column, and writes no register; v.unpark gives the whole register
its parked value with latency 2 and frees the column. A register that is parked already has its column
overwritten. -/
def Obligations.VectorParking : Prop :=
  ∀ (s : State) (k j : Nat) (o : VOp),
    let c := s.core k
    (VectorReady s k j (.vPark o) →
      let holds := held s k j (.vPark o) o
      (∀ b, c.parked j o.unit o.s1.toNat = none → c.parkBank j = some b →
        ∃ p : Parked, p.ctx = j ∧ p.u = o.unit ∧ p.reg = o.s1.toNat ∧ p.val = c.rdV j o.unit o.s1.toNat ∧
          p.bank = b ∧ p.due = s.now + 2 ∧
          Completes (.vPark o) s k j (holds.modCore k fun c => { c with spill := c.spill ++ [p] })) ∧
      (∀ p, c.parked j o.unit o.s1.toNat = some p → c.spill.Nodup →
        Completes (.vPark o) s k j (holds.modCore k fun c => { c with spill := c.spill.map fun q =>
          if q = p then { q with old := q.val, val := c.rdV j o.unit o.s1.toNat, due := s.now + 2 } else q }))) ∧
    (VectorReady s k j (.vUnpark o) → (s.ctx k j).NoneFor (.vreg o.unit o.d.toNat) →
      ∀ p, c.parked j o.unit o.d.toNat = some p → p.due ≤ s.now →
        ∃ at_, s.now < at_ ∧ at_ ≤ s.now + 2 ∧
          Completes (.vUnpark o) s k j (((s.sends k j (.vreg o.unit o.d.toNat) allLanes p.val 2 (hbOf o.unit)
            at_).modCtx k j fun x => x.moveLatch o.unit allLanes p.val (s.now + 2) s.now s.free).modCore k
              fun c => { c with spill := c.spill.filter (· != p) }))

namespace Sys2Proof.Claims

/-- R127, R221: the main-file codes that a vector slot names as registers, by the kind of each position. -/
def namesMain (r : VRow) (o : VOp) (code : Nat) : Prop :=
  ((r.d = .vec ∨ r.d = .main) ∧ code = o.d.toNat) ∨ (r.d = .pair ∧ (code = o.d.toNat ∨ code = o.d.toNat + 1)) ∨
  ((r.s1 = .src ∨ r.s1 = .main) ∧ code = o.s1.toNat) ∨
  (r.s1 = .pair ∧ (code = o.s1.toNat ∨ code = o.s1.toNat + 1)) ∨
  (r.s2 = .src ∧ code = o.s2.toNat) ∨ (r.s2 = .pair ∧ (code = o.s2.toNat ∨ code = o.s2.toNat + 1)) ∨
  (r.s3 = .src ∧ code = o.s3.toNat)

end Sys2Proof.Claims

/-- R23, R127, R158, R289: any vector slot with a main-file code at or beyond 64 times the footprint, as its destination
or as a source register, traps with cause 0x01, its bits and the header byte. -/
def Sys2Proof.Claims.VectorFootprintTraps : Prop :=
  ∀ (s : State) (k j code : Nat) (r : VRow) (o : VOp) (i : Instr),
    i.vrow? = some (r, o) → i.wfError = none → s.Calm k j i → s.CanHandle k j → namesMain r o code → code < 768 →
    64 * ((s.ctx k j).vMap o.unit).length ≤ code →
      exec i s = .next (s.handled k j (causeImage 1 (hbOf o.unit) (s.ctx k j).priv)
        (BitVec.ofNat 64 (s.ctx k j).pc) (rawOf i) (BitVec.ofNat 64 (2 ^ hbOf o.unit)) 0 0)

/-- R38, R146, R289: a vector instruction (but v.park and v.unpark, whose operands depend on the columns), a shift, a
zeroing or a q.nop in an exchange superstep takes 0x03 with its bits and the phase counter where no cause 0x01 goes
before it, and so does x.gend in a compute superstep; nothing else changes. -/
def Sys2Proof.Claims.SuperstepLegality : Prop :=
  ∀ (s : State) (k j bit : Nat) (i : Instr), i.wfError = none → s.Calm k j i → s.CanHandle k j →
    ((s.ctx k j).phase.getLsbD 0 = true ∧
        (∃ r o, i.vrow? = some (r, o) ∧ bit = hbOf o.unit) ∧ vFootprint (s.env k j i) i = none ∧
        (∀ o, i ≠ .vPark o) ∧ (∀ o, i ≠ .vUnpark o) ∨
      (s.ctx k j).phase.getLsbD 0 = true ∧ bit = 6 ∧
        (∃ b : BitVec 2, (i = .mShift b ∨ i = .mZero b) ∧ b.toNat < (s.ctx k j).accMap.length) ∨
      (s.ctx k j).phase.getLsbD 0 = true ∧ bit = 7 ∧ i = .qNop ∨
      (s.ctx k j).phase.getLsbD 0 = false ∧ bit = 1 ∧ i = .xGend) →
      exec i s = .next (s.handled k j (causeImage 3 bit (s.ctx k j).priv)
        (BitVec.ofNat 64 (s.ctx k j).pc) (rawOf i) (s.ctx k j).phase 0 0)

/-- R23, R38, R146: slots beyond the footprint or in the wrong superstep. -/
def Obligations.SlotLegality : Prop := Claims.VectorFootprintTraps ∧ Claims.SuperstepLegality

/-! ## The M and Q slots -/

namespace Sys2Proof.Claims

/-- R119, R226: the depth of a pair, and the bytes of an element of its A side and of its B side. -/
def depth : Pair → Nat
  | .bf16 | .f16 => 1
  | .e4m3 | .e5m2 | .e4m3e5m2 | .i8 | .bf16dp8 => 2
  | .e4m3dp8 => 4
def unitA : Pair → Nat
  | .bf16 | .f16 | .bf16dp8 => 2
  | _ => 1
def unitB : Pair → Nat
  | .bf16 | .f16 => 2
  | _ => 1

/-- R226: the bytes of a beat row, and its address in the slot at the head of a ring. -/
def rowLength (p : Pair) (b : Bool) : Nat := 32 * depth p * (if b then unitB p else unitA p)
def rowAddress (c : Core) (ring : Nat) (p : Pair) (b : Bool) (row : BitVec 5) : Nat :=
  ((c.ring ring).base + (c.ring ring).head % (c.ring ring).len) * 2048 + rowLength p b * row.toNat % 2048

/-- R227: a side finds a filled ring, and a beat row that lies in the map, in no guard slot and in no poisoned block. -/
def RowThere (c : Core) (ring : Nat) (p : Pair) (b : Bool) (row : BitVec 5) : Prop :=
  (c.ring ring).cfg = true ∧ (c.ring ring).filled ≠ 0 ∧
    ∀ n, n < rowLength p b → Reaches c (rowAddress c ring p b row + n)

/-- R66: the last-read mark of a side pops the head of its ring. -/
def popped (s : State) (k j : Nat) (ring : Nat) : State :=
  s.modCore k fun c => c.setRing ring ((c.ring ring).pop j 1 (s.ctx k j).inSeg)

/-- R238: entries that a pop has removed before they landed are still to land. -/
def QueueSound (q : ScaleQ) : Prop :=
  q.drop ≤ q.pending + q.staged.length + ((q.tile.map fun l => l.vals.length).getD 0)

/-- A slot of M or Q that issues. -/
structure SlotReady (s : State) (k j : Nat) (i : Instr) : Prop where
  calm  : s.Calm k j i
  wf    : i.wfError = none
  phase : (s.ctx k j).phase.getLsbD 0 = false

end Sys2Proof.Claims

/-- R228, R226: m.push puts the bytes of a beat row into an edge latch and zeros above them; the last-read mark pops the
ring. -/
def Obligations.MatrixPush : Prop :=
  ∀ (s : State) (k j : Nat) (p : Pair) (b lr : Bool) (ring : BitVec 4) (row : BitVec 5),
    let i := Instr.mPush p b ring row lr
    let c := s.core k
    SlotReady s k j i → RowThere c ring.toNat p b row →
      ∃ v, (∀ n, n < 128 → elemOf 8 v n =
          if n < rowLength p b then (c.ldByte j 0 s.free (rowAddress c ring.toNat p b row + n)).toNat else 0) ∧
        Completes i s k j ((if lr then popped s k j ring.toNat else s).modCtx k j fun x =>
          if b then { x with elb := v } else { x with ela := v })

/-- R232: m.shift rotates the rows of a bank and its checksum column; m.zero clears the bank and its checksums and
marks it checked. -/
def Obligations.MatrixShiftAndZero : Prop :=
  ∀ (s : State) (k j : Nat) (bank : BitVec 2),
    let a := (s.core k).acc j bank.toNat
    bank.toNat < (s.ctx k j).accMap.length →
    (SlotReady s k j (.mShift bank) → ∃ b : AccBank,
      (∀ r q, r < 32 → q < 32 → b.cell r q = a.cell ((r + 1) % 32) q) ∧
      (∀ r, r < 32 → AMap.get b.ckc r 0 = AMap.get a.ckc ((r + 1) % 32) 0) ∧ b.ckr = a.ckr ∧
      b.checked = a.checked ∧
      Completes (.mShift bank) s k j (s.modCore k fun c => c.setAcc j bank.toNat b)) ∧
    (SlotReady s k j (.mZero bank) → ∃ b : AccBank, (∀ r q, b.cell r q = 0) ∧ (∀ n, AMap.get b.ckr n 0 = 0) ∧
      (∀ n, AMap.get b.ckc n 0 = 0) ∧ b.checked = true ∧
      Completes (.mZero bank) s k j (s.modCore k fun c => c.setAcc j bank.toNat b))

namespace Sys2Proof.Claims

/-- R229, R230: the fields of a beat and whether it is m.dist. -/
def beatForm : Instr → Option (BeatOp × Bool)
  | .mAcc o => some (o, false)
  | .mDist o => some (o, true)
  | _ => none

/-- The bytes of a side of a beat: of its ring, or of its edge latch. -/
def sideRow (s : State) (k j : Nat) (o : BeatOp) (b : Bool) (n : Nat) : Byte :=
  if (if b then o.bsrc else o.asrc) then
    ((if b then (s.ctx k j).elb else (s.ctx k j).ela).extractLsb' (8 * n) 8)
  else (s.core k).ldByte j 0 s.free
    (rowAddress (s.core k) (if b then o.bring.toNat else o.aring.toNat) o.pair b o.row + n)

/-- The code of element `n` of k-row `q` of a side. -/
def operand (row : Nat → Byte) (w q n : Nat) : Nat :=
  leNat ((List.range w).map fun m => row (q * 32 * w + n * w + m))

/-- R119, R120: the exact contribution of k-row `q` to cell (r, c): the product of the operands, or the square of
their difference, where the B operand of pairs 6 and 7 is scaled. -/
def term (p : Pair) (dist : Bool) (a b : Nat → Byte) (scale : Nat → BitVec 16) (q r c : Nat) : Val :=
  let x := (pairA p).val (operand a (unitA p) q r)
  let y := (pairB p).val (operand b (unitB p) q c)
  let w := if p = .e4m3dp8 ∨ p = .bf16dp8 then y.mul (Fmt.bf16.val (scale c).toNat) else y
  if dist then
    let d := sumVals .rne [x, w.neg]
    d.mul d
  else x.mul w

/-- R119, R231: a word of a bank after a list of exact contributions: one sum rounded once, or wrapped for pair 5. -/
def added (p : Pair) (w : Nat) (ts : List Val) : Nat :=
  if p = .i8 then (BitVec.ofInt 32 (signed 32 w + (ts.map intOf).sum)).toNat
  else Fmt.f32.round .rne (sumVals .rne (Fmt.f32.val w :: ts))

/-- R119, R120, R231: a bank after a beat. -/
structure AfterBeat (p : Pair) (t : Nat → Nat → Nat → Val) (a b : AccBank) : Prop where
  cell : ∀ r c, r < 32 → c < 32 → b.cell r c = added p (a.cell r c) ((List.range (depth p)).map fun q => t q r c)
  row : ∀ c, c < 32 → (AMap.get b.ckr c 0).toNat = added p (AMap.get a.ckr c 0).toNat
    ((List.range 32).flatMap fun r => (List.range (depth p)).map fun q => t q r c)
  col : ∀ r, r < 32 → (AMap.get b.ckc r 0).toNat = added p (AMap.get a.ckc r 0).toNat
    ((List.range 32).flatMap fun c => (List.range (depth p)).map fun q => t q r c)
  unchecked : b.checked = false

/-- R230: a beat of a member other than the leader of its gang. -/
def follows (s : State) (k j : Nat) (o : BeatOp) : Bool :=
  o.gang && (s.gangOf k j).any fun g => (g.members.headD (0, 0)).1 != k

/-- R229, R230, R238: what a beat needs: a bank of the grant, a gang where it is ganged, its own sides, and 32 landed
scale entries where it reads its own queue. -/
structure BeatCan (s : State) (k j : Nat) (o : BeatOp) : Prop where
  bank   : o.bank.toNat < (s.ctx k j).accMap.length
  gang   : o.gang = true → (s.gangOf k j).isSome = true
  a      : o.asrc = false → RowThere (s.core k) o.aring.toNat o.pair false o.row
  b      : o.bsrc = false → follows s k j o = false → RowThere (s.core k) o.bring.toNat o.pair true o.row
  scales : (o.pair = .e4m3dp8 ∨ o.pair = .bf16dp8) → follows s k j o = false →
    32 ≤ (s.ctx k j).sq.landed.length ∧ QueueSound (s.ctx k j).sq

/-- R229: the pops of a beat: each ring once, and 32 scale entries at the end of a K-block. -/
def beatPops (s : State) (k j : Nat) (o : BeatOp) : State :=
  let s1 := if o.asrc = false ∧ o.alr then popped s k j o.aring.toNat else s
  let again := o.asrc = false ∧ o.alr ∧ o.aring = o.bring
  let s2 := if o.bsrc = false ∧ follows s k j o = false ∧ o.blr ∧ ¬ again then popped s1 k j o.bring.toNat else s1
  if (o.pair = .e4m3dp8 ∨ o.pair = .bf16dp8) ∧ follows s k j o = false ∧ depth o.pair * (o.row.toNat + 1) % 32 = 0
  then s2.modCtx k j fun x => { x with sq := { x.sq with landed := x.sq.landed.drop 32 } } else s2

/-- R130, R225: the state after a beat: its pops, its bank, and the cycle in which it is final. -/
def beatDone (s : State) (k j : Nat) (o : BeatOp) (b : AccBank) : State :=
  ((beatPops s k j o).modCore k fun c => c.setAcc j o.bank.toNat b).modCtx k j fun x => { x with mxDue := s.now + 4 }

end Sys2Proof.Claims

/-- R229, R231, R119, R120: a beat outside a gang adds its contributions to every cell of its bank and to the checksums,
each word rounded once, marks the bank unchecked, pops what it consumes, and is final four cycles on (R225). -/
def Sys2Proof.Claims.MatrixBeats : Prop :=
  ∀ (s : State) (k j : Nat) (i : Instr) (o : BeatOp) (dist : Bool),
    beatForm i = some (o, dist) → o.gang = false → SlotReady s k j i → BeatCan s k j o →
      ∃ b, AfterBeat o.pair (term o.pair dist (sideRow s k j o false) (sideRow s k j o true)
          fun c => (s.ctx k j).sq.landed.getD c 0) ((s.core k).acc j o.bank.toNat) b ∧
        Completes i s k j (beatDone s k j o b)

/-- R230: a ganged beat of the leader computes as any beat and keeps its B beat row and its scales for the others of the
cycle; a beat of another member takes them, and neither reads nor pops a B ring or a scale queue of its own. -/
def Sys2Proof.Claims.MatrixGangBeats : Prop :=
  ∀ (s : State) (k j : Nat) (i : Instr) (o : BeatOp) (dist : Bool) (g : Gang),
    beatForm i = some (o, dist) → o.gang = true → SlotReady s k j i → BeatCan s k j o → s.gangOf k j = some g →
    s.gangs.Nodup →
      if follows s k j o then
        g.beatRow.length = rowLength o.pair true → g.scales.length = 32 →
        ∃ b, AfterBeat o.pair (term o.pair dist (sideRow s k j o false) (fun n => g.beatRow.getD n 0)
            fun c => g.scales.getD c 0) ((s.core k).acc j o.bank.toNat) b ∧
          Completes i s k j (beatDone s k j o b)
      else
        ∃ b bytes scales, AfterBeat o.pair (term o.pair dist (sideRow s k j o false) (sideRow s k j o true)
            fun c => (s.ctx k j).sq.landed.getD c 0) ((s.core k).acc j o.bank.toNat) b ∧
          bytes = (List.range (rowLength o.pair true)).map (sideRow s k j o true) ∧
          ((o.pair = .e4m3dp8 ∨ o.pair = .bf16dp8) → scales = (s.ctx k j).sq.landed.take 32) ∧
          Completes i s k j (let u := beatDone s k j o b
            { u with gangs := u.gangs.map fun h =>
              if h = g then { h with beatAt := some s.now, beatRow := bytes, scales := scales } else h })

/-- R229 to R231: beats outside a gang and within one. -/
def Obligations.MatrixBeatsAndGangs : Prop := Claims.MatrixBeats ∧ Claims.MatrixGangBeats

namespace Sys2Proof.Claims

/-- R233, R234: pair, bank, destination and value of a drain. -/
def drainForm : Instr → Option (Pair × BitVec 2 × VUnit × BitVec 10 × ((Nat → Nat) → VReg → Prop))
  | .mDrain p bank u reg cvt rnd => some (p, bank, u, reg, fun bottom v =>
      let tgt := Fmt.ofCode cvt.toNat
      let src : Fmt := if p = .i8 then .i32 else .f32
      ∀ n, n < tgt.count → elemOf tgt.width v n = if n < 32 then convert src (.fmt tgt) rnd (bottom n) else 0)
  | .mTopk p bank u reg k big => some (p, bank, u, reg, fun bottom v =>
      let h := fun n => height (if p = .i8 then .i32 else .f32) (bottom n)
      ∃ q : List Nat, q.Perm (List.range 32) ∧
        q.Pairwise (fun a b => if big then h b < h a ∨ h b = h a ∧ a < b else h a < h b ∨ h a = h b ∧ a < b) ∧
        ∀ n, n < 32 → elemOf 32 v n = if n < k.toNat then bottom (q.getD n 0)
          else if 8 ≤ n ∧ n < 8 + k.toNat then q.getD (n - 8) 0 else 0)
  | _ => none

/-- R231, R233: the sum of words of a bank: rounded once, or wrapped for an INT32 bank. -/
def total (p : Pair) (xs : List Nat) : Nat :=
  if p = .i8 then xs.sum % 2 ^ 32 else Fmt.f32.round .rne (sumVals .rne (xs.map Fmt.f32.val))

/-- R233: a bank after its bottom row has left. -/
structure Drained (p : Pair) (a b : AccBank) : Prop where
  cell : ∀ r c, r < 32 → c < 32 → b.cell r c = if r = 31 then 0 else a.cell (r + 1) c
  row : ∀ c, c < 32 → (AMap.get b.ckr c 0).toNat = total p ((List.range 32).map fun r => b.cell r c)
  col : ∀ r, r < 32 → (AMap.get b.ckc r 0).toNat = total p ((List.range 32).map fun c => b.cell r c)
  checked : b.checked = true

end Sys2Proof.Claims

/-- R233, R234, R130: a drain of a checked bank, of one whose sums match, or of any bank with mx.uemode.ckoff, delivers the bottom row, or its
best values and their columns, with latency 6, moves the rows down and makes the checksums anew. -/
def Obligations.MatrixDrains : Prop :=
  ∀ (s : State) (k j : Nat) (i : Instr) (p : Pair) (bank : BitVec 2) (u : VUnit) (reg : BitVec 10)
    (val : (Nat → Nat) → VReg → Prop), drainForm i = some (p, bank, u, reg, val) → SlotReady s k j i →
    let a := (s.core k).acc j bank.toNat
    bank.toNat < (s.ctx k j).accMap.length → reg.toNat < 64 * ((s.ctx k j).vMap u).length →
    (a.checked = true ∨ (s.ctx k j).mxMode.getLsbD 1 = true ∨
      a.misses (p == .i8) ((s.ctx k j).mxMode.extractLsb' 8 8).toNat = ([], [])) → (s.ctx k j).NoneFor (.vreg u reg.toNat) →
      ∃ b v, Drained p a b ∧ val (a.cell 0) v ∧
        Delivers i s k j (s.modCore k fun c => c.setAcc j bank.toNat b) (.vreg u reg.toNat) allLanes v 6 6

/-- R235, R231, R289: an unchecked bank with one row and one column whose sums do not match has their cell set from the
row's checksum before it drains, delivers what a drain of the corrected bank delivers, and mx.status records it; with
any other mismatch the drain is not made, the bank is as it was, and outside a segment the context enters its handler
with cause 0x09. The same holds of m.topk. That a sum over a cell which a soft error has changed does not match, where
rounding hides the change and the tolerance is 0, is the model's choice (log entry 33, for R332). -/
def Obligations.MatrixChecks : Prop :=
  ∀ (s : State) (k j : Nat) (i : Instr) (p : Pair) (bank : BitVec 2) (u : VUnit) (reg : BitVec 10)
    (val : (Nat → Nat) → VReg → Prop), drainForm i = some (p, bank, u, reg, val) →
    let a := (s.core k).acc j bank.toNat
    let tol := ((s.ctx k j).mxMode.extractLsb' 8 8).toNat
    let ms := a.misses (p == .i8) tol
    SlotReady s k j i → bank.toNat < (s.ctx k j).accMap.length → reg.toNat < 64 * ((s.ctx k j).vMap u).length →
    a.checked = false → (s.ctx k j).mxMode.getLsbD 1 = false →
    (∀ r c, ms = ([r], [c]) → (s.ctx k j).NoneFor (.vreg u reg.toNat) →
      ∃ b v fixed, (∀ m n, m < 32 → n < 32 → (m, n) ≠ (r, c) → AccBank.cell fixed m n = a.cell m n) ∧
        (let others := ((List.range 32).filter fun n => n != c).map (a.cell r)
         fixed.cell r c = if p = .i8 then
             (BitVec.ofInt 32 ((AMap.get a.ckc r 0).toNat - (others.sum : Int))).toNat
           else Fmt.f32.round .rne (sumVals .rne (Fmt.f32.val (AMap.get a.ckc r 0).toNat ::
             others.map fun y => (Fmt.f32.val y).neg))) ∧
        Drained p fixed b ∧ val (AccBank.cell fixed 0) v ∧
        Delivers i s k j ((s.modCtx k j fun x => { x with
            mxStat := mxAfter x.mxStat 1 bank.toNat 1 1 (min 255 ((x.mxStat.extractLsb' 8 8).toNat + 1)) }).modCore k
              fun c => c.setAcc j bank.toNat b) (.vreg u reg.toNat) allLanes v 6 6) ∧
    (ms ≠ ([], []) → (∀ r c, ms ≠ ([r], [c])) → (s.ctx k j).snap = none → s.CanHandle k j →
      exec i s = .next ((s.modCtx k j fun x => { x with
          mxStat := mxAfter x.mxStat 2 bank.toNat ms.1.length ms.2.length (x.mxStat.extractLsb' 8 8).toNat }).handled
        k j (causeImage 9 6 (s.ctx k j).priv) (BitVec.ofNat 64 (s.ctx k j).pc) 0
          (BitVec.ofNat 64 (bank.toNat + ms.1.length * 256 + ms.2.length * 65536))
          (BitVec.ofNat 64 (s.ctx k j).rewinds) 0))

/-- R239, R117, R238, R131: from the address in A[base] as it reads it, q.ld reads 32 entries that land at t + 4; q.ldt reads a tile whose 16 groups are staged, unswizzled,
no later than t + 8; q.skip removes the oldest entries; q.nop does nothing. -/
def Obligations.ScaleSlots : Prop :=
  ∀ (s : State) (k j : Nat) (base : BitVec 5) (off : BitVec 16),
    let c := s.core k
    let x := s.ctx k j
    let word := fun a n => BitVec.ofNat 16 (leNat (c.ldBytes j 0 s.free (a + 2 * n) 2))
    ∃ v, MayRead x base.toNat v ∧
    let addr := (v + BitVec.ofInt 64 (64 * off.toInt)).toNat
    (SlotReady s k j .qNop → Completes .qNop s k j s) ∧
    (SlotReady s k j (.qLd base off) → x.sq.landed.length + x.sq.pending ≤ 32 → x.sq.staged = [] → x.sq.tile = none →
      Reaches c (addr / 64 * 64) →
        Completes (.qLd base off) s k j (s.modCtx k j fun x => { x with sq := { x.sq with
          loads := x.sq.loads ++ [{ at_ := s.now + 4, due := s.now + 4,
                                    vals := (List.range 32).map (word (addr / 64 * 64)) }] } })) ∧
    (SlotReady s k j (.qLdt base off 16) → addr % 1024 = 0 → x.sq.staged = [] → x.sq.tile = none →
      Reaches c addr →
        ∃ l : ScaleLoad, s.now < l.at_ ∧ l.at_ ≤ s.now + 8 ∧ l.vals.length = 512 ∧
          (∀ g n, g < 16 → n < 32 → l.vals.getD (32 * g + n) 0 = word addr (32 * g + (n ^^^ (2 * g % 32)))) ∧
          Completes (.qLdt base off 16) s k j (s.modCtx k j fun x => { x with sq := { x.sq with tile := some l } })) ∧
    (∀ n : BitVec 7, SlotReady s k j (.qSkip n) → QueueSound x.sq →
      x.sq.drop + (n.toNat - x.sq.landed.length) ≤ x.sq.pending + x.sq.staged.length →
      n.toNat ≤ x.sq.landed.length + x.sq.pending + x.sq.staged.length →
      Completes (.qSkip n) s k j (s.modCtx k j fun x => { x with sq := { x.sq with
        landed := x.sq.landed.drop n.toNat, drop := x.sq.drop + (n.toNat - x.sq.landed.length) } }))

/-! ## The X slot -/

namespace Sys2Proof.Claims

/-- R149, R241: a counted command as its engine takes it: the instruction, its number, its cycle and bundle, the
s-registers that its slot names, and its elements, none of them done. -/
structure Handed (s : State) (k j : Nat) (i : Instr) (n : Nat) (m : Cmd) : Prop where
  ins    : m.ins = i
  seq    : m.seq = (s.ctx k j).cmdSeq
  t      : m.t = s.now
  pc     : m.pc = (s.ctx k j).pc
  args   : m.args = [42, 36, 30, 24].map fun lo => (s.ctx k j).rdS ((rawOf i).extractLsb' lo 6).toNat
  n      : m.n = n
  undone : m.i = 0 ∧ m.status = .queued

/-- R241: the command joins those of the context that have not completed, and the context goes on; `more` is what else
happens at its issue. -/
def HandsOver (i : Instr) (s : State) (k j n : Nat) (more : State → State) : Prop :=
  ∃ m, Handed s k j i n m ∧
    Completes i s k j (more (s.modCtx k j fun x => { x with cmdSeq := x.cmdSeq + 1, cmds := x.cmds ++ [m] }))

/-- An operand, as a number. -/
def reg (s : State) (k j : Nat) (r : BitVec 6) : Nat := ((s.ctx k j).rdS r.toNat).toNat

/-- R241: a level-D address of an alignment; R243, R251: a piece of the working slots, aligned to its size. -/
def farAt (a align : Nat) : Prop := a < 2 ^ 52 ∧ a % align = 0
def nearAt (a size : Nat) : Prop := a % size = 0 ∧ a + size ≤ 0x100000

/-- R258: a range. -/
def goodRange (a n : Nat) : Prop :=
  a % 2048 = 0 ∧ n % 2048 = 0 ∧ n ≠ 0 ∧ a + n ≤ 2 ^ 52 ∧ a / 2 ^ 50 = (a + n - 1) / 2 ^ 50

/-- R61: no slot of a run is a guard slot. -/
def noGuard (s : State) (k slot n : Nat) : Prop := ∀ d, d < n → (s.core k).isGuardSlot (slot + d) = false

/-- R61 to R63, R68, R101, R243 to R247, R250 to R252, R258 to R260: the operand limits and the elements of the counted
commands that do nothing else at their issue. -/
def countedForm (s : State) (k j : Nat) : Instr → Option (Prop × Nat)
  | .xXch _ _ _ a slot n1 => some (slot.toNat + n1.toNat + 1 ≤ 640 ∧ farAt (reg s k j a) 2048 ∧
      noGuard s k slot.toNat (n1.toNat + 1), n1.toNat + 1)
  | .xXchp _ _ a slot n1 => some (slot.toNat + n1.toNat + 1 ≤ 640 ∧ reg s k j a + n1.toNat + 1 ≤ 4096 ∧
      noGuard s k slot.toNat (n1.toNat + 1), n1.toNat + 1)
  | .xXchn c m cc a => some (nearAt (reg s k j a) 64 ∧
      nestIll (s.core k) (nestDesc (s.env k j (.xXchn c m cc a)) a) = false,
      nestCount (nestDesc (s.env k j (.xXchn c m cc a)) a))
  | .xXchs _ _ _ a b c c1 => some (nearAt (reg s k j a) 512 ∧ nearAt (reg s k j b) 128 ∧
      farAt (reg s k j c) 2048 ∧ noGuard s k (reg s k j a / 2048) 1, c1.toNat + 1)
  | .xWadv _ _ ring m => some (((s.core k).ring ring.toNat).win.isSome = true, m.toNat)
  | .xWcls _ _ ring => some (((s.core k).ring ring.toNat).win.isSome = true, ((s.core k).ring ring.toNat).len)
  | .xRst _ _ a b c g1 => some (reg s k j c < 1024 ∧
      (∃ d, (s.ctx k j).dom = some d ∧ (s.dom d).clusters.getLsbD (reg s k j c / 8) = true) ∧
      reg s k j a % 64 = 0 ∧ reg s k j b % 64 = 0 ∧ reg s k j a + 64 * (g1.toNat + 1) ≤ 0x140000 ∧
      0x100000 ≤ reg s k j b ∧ reg s k j b + 64 * (g1.toNat + 1) ≤ 0x140000, g1.toNat + 1)
  | .xPhq _ _ => some (True, 0)
  | .xAmo _ _ _ a _ _ _ _ _ => some (farAt (reg s k j a) 8, 1)
  | .xAmov _ _ _ a b c d fn res c1 => some (farAt (reg s k j a) 8 ∧ nearAt (reg s k j b) 128 ∧
      (fn ≠ 10 → nearAt (reg s k j c) 256) ∧ (res = true → nearAt (reg s k j d) 256), c1.toNat + 1)
  | .xRedm _ _ _ a b _ fmt n1 =>
      let w := if fmt = 1 then 2 else 4
      some (farAt (reg s k j a) w ∧ reg s k j b % w = 0 ∧ reg s k j b + w * (n1.toNat + 1) ≤ 0x140000,
        n1.toNat + 1)
  | .xProbe _ a b _ _ _ => some (goodRange (reg s k j a) (reg s k j b), 1)
  | .xDisc _ _ a b => some (goodRange (reg s k j a) (reg s k j b), 1)
  | .xHint _ a b _ _ => some (goodRange (reg s k j a) (reg s k j b) ∧
      ∀ m ∈ (s.ctx k j).cmds, m.seq ≠ (s.ctx k j).cmdSeq, 1)
  | .xHot _ _ b => some (reg s k j b < 2 ^ 52, 1)
  | .xFence _ _ _ => some (True, 0)
  | _ => none

/-- R38: the supersteps in which an X instruction is legal: none, compute only, or exchange only. -/
def onlyIn : Instr → Option Bool
  | .xXch .. | .xXchn .. | .xXchs .. | .xWin .. | .xWadv .. | .xWcls .. | .xProbe .. | .xDisc .. | .xHint ..
  | .xHot .. => some false
  | .xXchp .. | .xRst .. | .xGang .. | .xGend | .xColl .. => some true
  | _ => none

/-- R101: what an X instruction does at its issue beside the hand-over: with an x.fence every load of the context that
is in flight, of whatever class, has been performed. -/
def atIssue (k j : Nat) : Instr → State → State
  | .xFence .. => fun u => u.modCtx k j fun x => { x with pend := x.pend.map fun p => { p with load := none } }
  | _ => id

/-- An X slot that issues. -/
structure CommandReady (s : State) (k j : Nat) (i : Instr) : Prop where
  calm  : s.Calm k j i
  wf    : i.wfError = none
  phase : ∀ b, onlyIn i = some b → (s.ctx k j).phase.getLsbD 0 = b

/-- The bit of a slot in the header byte. -/
def xBit : W64 := 2

end Sys2Proof.Claims

/-- R241, R242, and the operand limits of R243 to R260: a counted command whose operands are within its limits goes to
its engine and the context goes on at once. -/
def Sys2Proof.Claims.CommandsHandOver : Prop :=
  ∀ (s : State) (k j n : Nat) (i : Instr) (limits : Prop), countedForm s k j i = some (limits, n) →
    CommandReady s k j i → (s.ctx k j).cmds.length < 64 → limits → HandsOver i s k j n (atIssue k j i)

/-- R241, R289: a counted command issued with 64 not yet completed traps with cause 0x01, and goes to no engine. -/
def Sys2Proof.Claims.CommandLimitTraps : Prop :=
  ∀ (s : State) (k j n : Nat) (i : Instr) (limits : Prop), countedForm s k j i = some (limits, n) →
    CommandReady s k j i → s.CanHandle k j → 64 ≤ (s.ctx k j).cmds.length →
      exec i s = .next (s.handled k j (causeImage 1 1 (s.ctx k j).priv) (BitVec.ofNat 64 (s.ctx k j).pc)
        (rawOf i) xBit 0 0)

/-- R241, R242, R289, and the operand limits of R243 to R260: counted commands at their issue. -/
def Obligations.CountedCommands : Prop := Claims.CommandsHandOver ∧ Claims.CommandLimitTraps

/-- R253, R103, R241: x.mon goes to the Cleat and disarms the previous monitor at its issue. -/
def Sys2Proof.Claims.MonitorCommands : Prop :=
  ∀ (s : State) (k j : Nat) (cls : BitVec 2) (mark : Mark) (cc a b : BitVec 6),
    let i := Instr.xMon cls mark cc a b
    CommandReady s k j i → (s.ctx k j).cmds.length < 64 → farAt (reg s k j a) 8 →
      HandsOver i s k j 1 fun u => u.modCtx k j fun x =>
        { x with mon := .waiting, monSeq := (s.ctx k j).cmdSeq }

/-- R254, R255, R277: x.coll with a readable descriptor within its ranges and a group that holds its participants, with
no port down where it is of a group (R321), goes to the Shroud: its participation is recorded under its group's or
cluster's next number. -/
def Sys2Proof.Claims.CollectiveCommands : Prop :=
  ∀ (s : State) (k j : Nat) (cls : BitVec 2) (cc a : BitVec 6),
    let i := Instr.xColl cls cc a
    let ws := collDesc (s.env k j i) a
    CommandReady s k j i → (s.ctx k j).cmds.length < 64 → nearAt (reg s k j a) 64 → collIll ws = false →
    s.collBad (s.ctx k j) ws = false → (∀ c ∈ s.colls, c.cmd ≠ (s.ctx k j).cmdSeq) →
    ((s.core k).slotSb (reg s k j a / 2048)).state ≠ .poisoned →
    ((ws.getD 0 0).getLsbD 8 = true → ∀ p, p < 16 → s.portDown p = false) →
      ∃ c : Coll, c.core = k ∧ c.ctx = j ∧ c.cmd = (s.ctx k j).cmdSeq ∧ c.vi = (s.ctx k j).vi ∧ c.desc = ws ∧
        c.scope = ((ws.getD 0 0).extractLsb' 8 1).toNat ∧ c.group = ((ws.getD 0 0).extractLsb' 16 8).toNat ∧
        c.n = ((ws.getD 0 0).extractLsb' 32 16).toNat ∧ c.rank = ((ws.getD 0 0).extractLsb' 48 16).toNat ∧
        c.seq = (if c.scope = 1 then AMap.get s.sgSeq c.group 0 else AMap.get s.clSeq (k / 8) 0) ∧
        c.done = false ∧
        HandsOver i s k j 1 fun u =>
          if c.scope = 1 then
            { u with colls := u.colls ++ [c], sgSeq := AMap.set u.sgSeq c.group (c.seq + 1) }
          else { u with colls := u.colls ++ [c], clSeq := AMap.set u.clSeq (k / 8) (c.seq + 1) }

/-- R253, R254: the counted commands with a further effect at their issue. -/
def Obligations.MonitorsAndCollectives : Prop := Claims.MonitorCommands ∧ Claims.CollectiveCommands

/-- R67, R244: x.win opens a window on a ring that has none and whose slots are all open, with the base, the rows and
the stride of its operands and the cursor at zero. -/
def Sys2Proof.Claims.WindowsOpen : Prop :=
  ∀ (s : State) (k j : Nat) (a b : BitVec 6),
    let v0 := (s.ctx k j).rdS a.toNat
    let v1 := (s.ctx k j).rdS b.toNat
    let r := (v1.extractLsb' 56 4).toNat
    let g := (s.core k).ring r
    CommandReady s k j (.xWin a b) → winIll v0 v1 = false → g.cfg = true → g.win = none → g.tail = g.free →
      Completes (.xWin a b) s k j (s.modCore k fun c => c.setRing r { g with win := some {
        tbase := (v0.extractLsb' 11 41).toNat * 2048, nrows := (v1.extractLsb' 0 32).toNat,
        stride := (v1.extractLsb' 32 24).toNat, cursor := 0 } })

/-- R64 to R66, R245: x.ring sets a ring up with all pointers zero, and keeps tail moves that x.rap has still due (log
entry 45, deduced); x.rap's tail move is due in cycle t + 2, after its bundles; x.rac pops n slots. -/
def Sys2Proof.Claims.RingCommands : Prop :=
  ∀ (s : State) (k j : Nat) (a : BitVec 6) (ring : BitVec 4) (n : BitVec 10),
    let v := (s.ctx k j).rdS a.toNat
    let r := (v.extractLsb' 24 4).toNat
    let g := (s.core k).ring ring.toNat
    (CommandReady s k j (.xRing a) → ringIll v = false → ((s.core k).ring r).win = none →
      Completes (.xRing a) s k j (s.modCore k fun c => c.setRing r {
        cfg := true, base := (v.extractLsb' 0 10).toNat, len := (v.extractLsb' 10 10).toNat, guard := v.getLsbD 20,
        tail := 0, head := 0, free := 0, win := none, held := [], raps := (c.ring r).raps })) ∧
    (CommandReady s k j (.xRap ring n) → g.cfg = true → g.win = none → n.toNat ≤ g.openLeft →
      Completes (.xRap ring n) s k j (if n = 0 then s else s.modCore k fun c =>
        c.setRing ring.toNat { g with raps := g.raps ++ [(s.now + 2, j, n.toNat)] })) ∧
    (CommandReady s k j (.xRac ring n) → g.cfg = true → n.toNat ≤ g.filled →
      Completes (.xRac ring n) s k j (if n = 0 then s else s.modCore k fun c =>
        c.setRing ring.toNat (g.pop j n.toNat (s.ctx k j).inSeg)))

/-- R64 to R67, R244, R245: windows and rings at issue. -/
def Obligations.WindowsAndRings : Prop := Claims.WindowsOpen ∧ Claims.RingCommands

/-- R25, R65, R245, R253, R256: the engine waits go on where their condition holds at issue, and block the context
where it does not: filled slots, open slots, a counter, a monitor. -/
def Sys2Proof.Claims.EngineWaits : Prop :=
  ∀ (s : State) (k j : Nat) (ring : BitVec 4) (n : BitVec 10) (cc : BitVec 6) (m : BitVec 24),
    let g := (s.core k).ring ring.toNat
    (CommandReady s k j (.xRwf ring n) → g.cfg = true → 1 ≤ n.toNat → n.toNat ≤ g.len →
      if n.toNat ≤ g.filled then Completes (.xRwf ring n) s k j s
      else Blocks (.xRwf ring n) s k j s [.rwf ring.toNat n.toNat]) ∧
    (CommandReady s k j (.xRwe ring n) → g.cfg = true → 1 ≤ n.toNat → n.toNat ≤ g.len →
      if n.toNat ≤ g.open_ then Completes (.xRwe ring n) s k j s
      else Blocks (.xRwe ring n) s k j s [.rwe ring.toNat n.toNat]) ∧
    (CommandReady s k j (.xCwait cc m) →
      if m.toNat ≤ (AMap.get (s.ctx k j).cc cc.toNat 0).toNat then Completes (.xCwait cc m) s k j s
      else Blocks (.xCwait cc m) s k j s [.cwait cc.toNat m.toNat]) ∧
    (CommandReady s k j .xMwait →
      if (s.ctx k j).mon = .none ∨ (s.ctx k j).mon = .fired then
        Completes .xMwait s k j (s.modCtx k j fun x => { x with mon := .none })
      else Blocks .xMwait s k j s [.mwait])

/-- R256, R241: x.cpoll delivers with latency 2 whether a counter has reached n; x.cset writes a counter, in every
member of a standing gang where it is a gang counter. -/
def Sys2Proof.Claims.CounterCommands : Prop :=
  ∀ (s : State) (k j : Nat) (cc a : BitVec 6) (n : BitVec 24),
    (CommandReady s k j (.xCpoll cc a n) → (s.ctx k j).NoneFor (.sreg a.toNat) →
      Delivers (.xCpoll cc a n) s k j s (.sreg a.toNat) allLanes
        (if n.toNat ≤ (AMap.get (s.ctx k j).cc cc.toNat 0).toNat then 1 else 0) 2 1) ∧
    (CommandReady s k j (.xCset cc n) → s.gangOf k j = none ∨ cc.toNat < 48 →
      Completes (.xCset cc n) s k j (s.modCtx k j fun x =>
        { x with cc := AMap.set x.cc cc.toNat (n.zeroExtend 32) })) ∧
    (CommandReady s k j (.xCset cc n) → ∀ g, s.gangOf k j = some g → 48 ≤ cc.toNat →
      Completes (.xCset cc n) s k j (g.members.foldl (fun s m => s.modCtx m.1 m.2 fun x =>
        { x with cc := AMap.set x.cc cc.toNat (n.zeroExtend 32) }) s))

/-- R245, R253, R256: engine waits and counters. -/
def Obligations.CountersAndWaits : Prop := Claims.EngineWaits ∧ Claims.CounterCommands

/-- R39, R45, R46, R134, R247: outside a loop, x.phase commits an open segment, arrives at the barrier of the context's
domain and blocks until it passes: its arrival is the latest, the first one starts the straggler count, and a latched
pre-emption freezes the member. (A core with a task is one that the state lists: only boot contexts run on others, and
they have no domain.) -/
def Obligations.PhaseArrivals : Prop :=
  ∀ (s : State) (k j d : Nat), CommandReady s k j .xPhase → (AMap.find? s.cores k).isSome = true →
    (s.ctx k j).loop = none → (s.ctx k j).dom = some d →
    let dm := s.dom d
    let first := (s.members d).all fun m => !m.2.2.arrived
    Blocks .xPhase s k j (((s.modCore k fun c => c.commitSeg j s.now).modCtx k j fun x =>
        if dm.pend = true ∧ x.frozen = none then { x with frozen := some s.now } else x).modDom d fun y =>
          { y with latest := max dm.latest s.now, count := if first ∧ dm.strag ≠ 0 then some s.now else dm.count })
      [.phase]

/-- R248, R134: x.rdv passes without a wait in a context that has no partner, and otherwise blocks it until every
partner has issued its rendezvous of the same number, where those that have do not all wait with other identifiers; it
commits an open segment, without a partner too (log entry 47, deduced). -/
def Sys2Proof.Claims.Rendezvous : Prop :=
  ∀ (s : State) (k j : Nat) (id : BitVec 8), CommandReady s k j (.xRdv id) →
    let committed := s.modCore k fun c => c.commitSeg j s.now
    (s.gangOf k j = none → Completes (.xRdv id) s k j committed) ∧
    (∀ g, s.gangOf k j = some g → (g.members.filter fun m => m != (k, j)) ≠ [] →
      rdvClash (s.env k j (.xRdv id)) id.toNat = false →
      Blocks (.xRdv id) s k j (committed.modCtx k j fun x => { x with rdvs := x.rdvs + 1 })
        [.rdv id.toNat ((s.ctx k j).rdvs + 1)])

/-- R30, R249: x.gang blocks the context; with the last member of its mask the gang stands, its members in ascending
core number, and their rendezvous count from zero; x.gend records the member's end, the last one dissolves the gang,
and outside a gang it does nothing. -/
def Sys2Proof.Claims.Gangs : Prop :=
  ∀ (s : State) (k j : Nat),
    (∀ mask : BitVec 8, CommandReady s k j (.xGang mask) → gangIll (s.env k j (.xGang mask)) mask = false →
      let ws := s.gangWaiters (k / 8)
      (ws.map (·.1)).Nodup →
      let ms := (List.range 8).filterMap fun n =>
        if n = k % 8 then some (k, j) else (ws.find? fun w => w.1 == k / 8 * 8 + n).map fun w => (w.1, w.2.1)
      if ws.length + 1 < (List.range 8).countP (fun n => mask.getLsbD n) then
        Blocks (.xGang mask) s k j s [.gang mask]
      else ∃ g : Gang, g.mask = mask ∧ g.members = ms ∧ g.ended = [] ∧
        Blocks (.xGang mask) s k j (ms.foldl (fun s m => s.modCtx m.1 m.2 fun x => { x with rdvs := 0, ltrap := none })
          { s with gangs := s.gangs ++ [g] }) [.gang mask]) ∧
    (CommandReady s k j .xGend → s.gangOf k j = none → Completes .xGend s k j s) ∧
    (CommandReady s k j .xGend → ∀ g, s.gangOf k j = some g → g.hasEnded k = false →
      let h := { g with ended := g.ended ++ [(k, s.now, (s.ctx k j).pc)] }
      Completes .xGend s k j { s with gangs := (s.gangs.filter fun x => x != g) ++
        (if h.members.all (fun m => h.hasEnded m.1) = true then [] else [h]) })

/-- R30, R248, R249: rendezvous and gangs at issue. -/
def Obligations.RendezvousAndGangs : Prop := Claims.Rendezvous ∧ Claims.Gangs

/-- R26, R257, R29, R261, R303: x.yield changes nothing but the core's wish to switch; x.ntile asks the dispenser for
the next rotation register; x.halt commits an open segment, ends a loop and a lock, and its context issues nothing more;
in a handler it drops the commands that a fault or a refused claim has stopped, and the pending faults; a gang loses the
member. -/
def Obligations.YieldNtileHalt : Prop :=
  ∀ (s : State) (k j : Nat),
    (CommandReady s k j .xYield → ∃ t, exec .xYield s = .next t ∧ State.Ended k j s t ∧ s.GoesOn k j .xYield t ∧
      (t.core k).leave = ((s.core k).leave || (s.core k).othersReady j)) ∧
    (CommandReady s k j .xNtile → (s.ctx k j).persist = true → (s.ctx k j).ntiles.length < 4 →
      ∃ t, exec .xNtile s = .next t ∧
        State.Ended k j (s.modCtx k j fun x => { x with rot := (x.rot + 1) % 4, ntiles := x.ntiles ++
          [{ reg := 56 + x.rot, bundle := x.bundles, asked := s.now, val := none, here := false }] }) t ∧
        ((s.ctx k j).ntiles = [] → (t.ctx k j).ntiles =
          [{ reg := 56 + (s.ctx k j).rot, bundle := (s.ctx k j).bundles, asked := s.now, val := none,
             here := false }])) ∧
    (CommandReady s k j .xHalt →
      ∃ t, exec .xHalt s = .next t ∧ (t.ctx k j).status = .halted ∧ (t.ctx k j).loop = none ∧
        State.Ended k j ((s.modCore k fun c =>
          let c1 := c.commitSeg j s.now
          let x := c1.ctx j
          let c2 := if (c1.lock.map (·.ctx)) = some j then { c1 with lock := none } else c1
          c2.setCtx j (if x.inTrap then
            { x with status := .halted, loop := none, faults := [], guard := none,
                     cmds := x.cmds.filter fun m => match m.status with
                       | .stopped _ => false
                       | _ => m.hold.isNone }
            else { x with status := .halted, loop := none })).loseMember k j) t)

/-! ## Events of a core -/

namespace Sys2Proof.Claims

/-- The value that a destination holds; the banks of a file decide which entry a main-file code names (R140). -/
def content (c : Core) (j : Nat) : Dest → VReg
  | .sreg n => ((c.ctx j).rdS n).zeroExtend 1024
  | .areg n => ((c.ctx j).rdA n).zeroExtend 1024
  | .vreg u code => c.rdV j u code
  | .vmask u n => ((c.ctx j).rdK u n).zeroExtend 1024

/-- What a destination holds after a result in some lanes, against its old content: a0 and mask 0 keep their
constants, and a vector register its other lanes. -/
def Arrived (new old : VReg) (d : Dest) (lanes : BitVec 32) (v : VReg) : Prop :=
  match d with
  | .sreg _ => new = (v.extractLsb' 0 64).zeroExtend 1024
  | .areg n => new = if n = 0 then 0 else (v.extractLsb' 0 64).zeroExtend 1024
  | .vreg _ _ => ∀ b, new.getLsbD b = if lanes.getLsbD (b / 32) then v.getLsbD b else old.getLsbD b
  | .vmask _ n => new = if n = 0 then old else (v.extractLsb' 0 32).zeroExtend 1024

/-- Two destinations share no register. -/
def apart (x : Ctx) : Dest → Dest → Prop
  | .vreg u a, .vreg w b => u ≠ w ∨ (a < 768 ∧ b < 768 ∧ x.entry u a ≠ x.entry u b) ∨
      (a < 768 ∧ 768 ≤ b) ∨ (768 ≤ a ∧ b < 768) ∨ (768 ≤ a ∧ 768 ≤ b ∧ a ≠ b)
  | a, b => a ≠ b

/-- A context without its register files and its results in flight; a core without its contexts and main files. -/
def bareCtx (x : Ctx) : Ctx := { x with s := [], a := [], oa := [], ob := [], ka := [], kb := [], pend := [] }
def bareCore (c : Core) : Core := { c with ctxs := [], va := [], vb := [] }

end Sys2Proof.Claims

/-- R131: of the results whose cycle has come, the one with the least t + L, and of equal ones the one issued first,
reaches its destination; results to the same lanes that it supersedes are dropped; nothing else changes. The cycle in
which a result comes, no later than t + L, is the model's free choice (log entry 3). -/
def Obligations.ResultsArrive : Prop :=
  ∀ (s : State) (k j : Nat) (p : Pend), (s.ctx k j).frozen = none → (s.core k).flips = [] → p ∈ (s.ctx k j).pend →
    p.at_ ≤ s.now → p.done = false → p.lanes ≠ 0 →
    (∀ q ∈ (s.ctx k j).pend, q ≠ p → q.at_ ≤ s.now → p.due < q.due ∨ (p.due = q.due ∧ p.ord < q.ord)) →
      ∃ c : Core, exec (.resultDeliver k j) s = .next (s.setCore k c) ∧
        Arrived (content c j p.dest) (content (s.core k) j p.dest) p.dest p.lanes p.val ∧
        (∀ d, apart (s.ctx k j) d p.dest → content c j d = content (s.core k) j d) ∧
        (∀ q, q.dest ≠ p.dest → (q ∈ (c.ctx j).pend ↔ q ∈ (s.ctx k j).pend)) ∧
        (∀ q ∈ (c.ctx j).pend, q.dest = p.dest → q.done = true ∨ q.lanes &&& p.lanes = 0 ∨ p.due < q.due ∨
          (p.due = q.due ∧ p.ord ≤ q.ord)) ∧
        bareCore c = bareCore (s.core k) ∧ bareCtx (c.ctx j) = bareCtx (s.ctx k j) ∧
        (∀ i, i ≠ j → c.ctx i = (s.core k).ctx i)

namespace Sys2Proof.Claims

/-- R245: an x.rap's tail move, due in cycle t + 2, happens once the stores of its context that its fork orders before
it have committed. -/
def TailMoves : Prop :=
  ∀ (s : State) (k r t j n : Nat) (rest : List (Nat × Nat × Nat)),
    let g := (s.core k).ring r
    g.raps = (t, j, n) :: rest → t ≤ s.now → (∀ st ∈ (s.core k).stq, st.ctx = j → t < st.t + 2) →
      exec (.ringTailMove k r) s =
        .next (s.modCore k fun c => c.setRing r { g with tail := (g.tail + n) % 65536, raps := rest })

/-- R238, R239: a q.ld's entries land behind those that have landed, a tile's groups reach the stage, and a staged group
moves into the queue while at most 32 entries are in it and no load is on the way; entries that a skip or a pop has
removed already are lost as they land. -/
def ScaleArrivals : Prop :=
  ∀ (s : State) (k j : Nat),
    let q := (s.ctx k j).sq
    let put := fun (p : ScaleQ) => Host.Outcome.next (s.modCtx k j fun x => { x with sq := p })
    (∀ l ls, q.loads = l :: ls → l.at_ ≤ s.now → exec (.scaleLoadLand k j) s =
      put { q with loads := ls, landed := q.landed ++ l.vals.drop q.drop, drop := q.drop - l.vals.length }) ∧
    (∀ l, q.tile = some l → l.at_ ≤ s.now → exec (.scaleTileStage k j) s =
      put { q with tile := none, staged := q.staged ++ l.vals }) ∧
    (q.loads = [] → q.landed.length ≤ 32 → q.staged ≠ [] → q.staged.length % 32 = 0 → q.moved ≠ some s.now →
      exec (.scaleGroupMove k j) s = put
        { q with landed := q.landed ++ (q.staged.take 32).drop q.drop, drop := q.drop - 32,
                 staged := q.staged.drop 32, moved := some s.now })

/-- R28, R29: the dispenser answers the request of its launch that arrived first, of equal ones that of the lower core
and context (a request arrives in the cycle of its x.ntile: log entry 98), with the next coordinate of the grid, x
fastest, and the null coordinate once the grid is exhausted; the answer reaches the core. -/
def Dispenser : Prop :=
  ∀ (s : State) (k j n : Nat) (before after : List Ntile) (t : Ntile) (l : Launch),
    (s.ctx k j).ntiles = before ++ t :: after → (s.ctx k j).launch = n → AMap.find? s.launches n = some l →
    ((∀ u ∈ before, u.val ≠ none) → t.val = none → t.asked < s.now →
      (∀ p ∈ s.ctxList, p.2.2.launch = n → ∀ u ∈ p.2.2.ntiles, u.val = none →
        t.asked < u.asked ∨ (t.asked = u.asked ∧ (k < p.1 ∨ (k = p.1 ∧ j ≤ p.2.1)))) →
      ∃ v, exec (.ntileDispense k j) s =
          .next (({ s with launches := AMap.set s.launches n { l with next := l.next + 1 } }).modCtx k j fun x =>
            { x with ntiles := before ++ { t with val := some v } :: after }) ∧
        (l.gx * l.gy * l.gz ≤ l.next → v = BitVec.allOnes 64) ∧
        (∀ x y z, x < l.gx → y < l.gy → z < l.gz → l.next = x + l.gx * (y + l.gy * z) →
          v = BitVec.ofNat 64 (x + y * 65536 + z * 2 ^ 32))) ∧
    ((∀ u ∈ before, u.val = none ∨ u.here = true) → t.val ≠ none → t.here = false →
      exec (.ntileDeliver k j) s =
        .next (s.modCtx k j fun x => { x with ntiles := before ++ { t with here := true } :: after }))

/-- R25: a context whose waits are over becomes ready at the bundle it goes on with. -/
def WaitsEnd : Prop :=
  ∀ (s : State) (k j a : Nat) (ws : List Wait),
    let x := s.ctx k j
    x.wake = true → x.status = .blocked ws (.next a false) → x.loop = none → x.ntiles = [] →
      exec (.contextReady k j) s = .next (s.modCtx k j fun x =>
        { x with status := .ready, pc := a, wake := false, since := s.now })

/-- The context that the selector takes: ready, not the running one, the longest ready, ties to the lower number. -/
def takes (c : Core) (i : Nat) : Prop :=
  i < 4 ∧ c.run ≠ some i ∧ (c.ctx i).status = .ready ∧ (c.ctx i).frozen = none ∧
    ∀ h, h < 4 → c.run ≠ some h → (c.ctx h).status = .ready → (c.ctx h).frozen = none → h ≠ i →
      (c.ctx i).since < (c.ctx h).since ∨ ((c.ctx i).since = (c.ctx h).since ∧ i < h)

/-- A switch of core `k` from context `j` to `i` (R26): two cycles without a bundle, and the context that leaves becomes
the youngest of the ready ones. -/
def Switches (ev : Instr) (s : State) (k i j : Nat) : Prop :=
  let c := s.core k
  ∃ d : Core, exec ev s = .next (s.setCore k d) ∧
    d.run = some i ∧ d.leave = false ∧ d.swap = false ∧ d.issueAt = max c.issueAt (s.now + 2) ∧
    d.ctx i = { c.ctx i with counted := 0 } ∧
    ((c.ctx j).status = .ready → d.ctx j = { c.ctx j with since := s.now }) ∧
    ((c.ctx j).status ≠ .ready → d.ctx j = c.ctx j) ∧
    (∀ h, h ≠ i → h ≠ j → d.ctx h = c.ctx h) ∧
    { d with ctxs := c.ctxs, run := c.run, leave := c.leave, swap := c.swap, issueAt := c.issueAt } = c

/-- R26: the selector switches a core to another context when the running one is not ready or has yielded, or has issued
4,096 bundles beside a ready one and holds no lock. -/
def Selector : Prop :=
  ∀ (s : State) (k i j : Nat),
    let c := s.core k
    let leaves := c.leave = true ∨ (c.ctx j).status ≠ .ready ∨ (c.ctx j).frozen ≠ none
    c.swap = true → c.run = some j → takes c i →
      (leaves → Switches (.contextSwitch k) s k i j) ∧
      (¬ leaves → 4096 ≤ (c.ctx j).counted → (∀ l, c.lock = some l → l.ctx ≠ j) →
        Switches (.forcedSwitch k) s k i j)

end Sys2Proof.Claims

/-- R25, R26, R28, R29, R238, R245: the other events of a core. -/
def Obligations.CoreEvents : Prop :=
  Claims.TailMoves ∧ Claims.ScaleArrivals ∧ Claims.Dispenser ∧ Claims.WaitsEnd ∧ Claims.Selector

/-! ## Trades -/

namespace Sys2Proof.Claims

/-- The outstanding commands of a context. -/
def cmdsOf (s : State) (k j : Nat) : List Cmd := (s.ctx k j).cmds

/-- A command is one of its context's, under its number. -/
def Holds (s : State) (k j : Nat) (m : Cmd) : Prop := (cmdsOf s k j).find? (·.seq == m.seq) = some m

/-- A command is queued, issued in an earlier cycle, with no fault in what it read at issue, and nothing in the machine
stands before it: it is the only command of its core, no store of the core waits, and no trade is in flight. It belongs to a context of the core. -/
structure Alone (s : State) (k j : Nat) (m : Cmd) : Prop where
  cmds   : cmdsOf s k j = [m]
  others : ∀ i, i ≠ j → cmdsOf s k i = []
  stores : (s.core k).stq = []
  flight : s.entries = [] ∧ (s.core k).entries = []
  issued : m.t < s.now
  queued : m.status = .queued ∧ m.hold = none ∧ m.src = 0 ∧ m.poison = none
  ctx    : j < 4

/-- The fields of a command's slot: counter and operation code (R149). -/
def slotCc (m : Cmd) : Nat := ((rawOf m.ins).extractLsb' 48 6).toNat
def slotOp (m : Cmd) : Nat := ((rawOf m.ins).extractLsb' 56 8).toNat

/-- The command goes on to its next element, or completes after its last: it leaves the outstanding ones and its counter
advances (R241). Of a block of an x.xchp eight flits are past in the compiled schedule (R43; log entry 43, deduced), and a
retry that a refused claim held back resumes its command here (R307). -/
def Advances (s u : State) (k j : Nat) (m : Cmd) : Prop :=
  if m.i + 1 < m.n then
    cmdsOf u k j = (cmdsOf s k j).map (fun p => if p.seq = m.seq then
      { m with i := m.i + 1, status := .queued, hold := none, bad := none, placed := m.placed - 8,
               resumed := if m.hold.isSome then (s.ctx k j).cmdSeq else m.resumed } else p) ∧
    ∀ n, AMap.get (u.ctx k j).cc n 0 = AMap.get (s.ctx k j).cc n 0
  else
    cmdsOf u k j = (cmdsOf s k j).filter (fun p => p.seq != m.seq) ∧
    (s.gangOf k j = none → ∀ n, AMap.get (u.ctx k j).cc n 0 =
      AMap.get (s.ctx k j).cc n 0 + if n = slotCc m then 1 else 0)

/-- The command stops at its element with a fault at an address, which becomes pending (R300, R302). -/
def Stops (s u : State) (k j : Nat) (m : Cmd) (cause addr : Nat) : Prop :=
  ∃ r : Record, r.cause = cause ∧ r.fatal = false ∧ r.info2 = BitVec.ofNat 64 addr ∧
    r.info0 = BitVec.ofNat 64 (m.pc + slotCc m * 2 ^ 16 + slotOp m * 2 ^ 24 + if cause = 9 then 4 * 2 ^ 32 else 0) ∧
    cmdsOf u k j = (cmdsOf s k j).map (fun p => if p.seq = m.seq then
      { m with status := .stopped r, hold := none, bad := some addr, placed := 0 } else p) ∧
    (u.ctx k j).faults = (s.ctx k j).faults ++ [r]

/-- R314, R272: every block that an interface reaches has a stored form that decodes under its key. -/
def FormsKept (s : State) : Prop :=
  ∀ vi addr write p, s.translate vi addr write = .ok p →
    s.badForm p.key p.die (s.place p.die p.dfn p.blk).1 (s.place p.die p.dfn p.blk).2 p.blk true = false

/-- No memory has a broken block or cell, and no error is injected. -/
structure Healthy (s : State) (k : Nat) : Prop where
  flips  : (s.core k).flips = [] ∧ (s.core k).inject.getLsbD 0 = false
  media  : s.mhard = [] ∧ s.mside = [] ∧ s.mflips = [] ∧ s.phard = []
  chans  : ∀ d, (s.die d).dead = [] ∧ (s.die d).retired = []
  map    : ∀ d f, (s.pent d f).bad0 = []
  router : s.rtBad = []
  forms  : FormsKept s

/-- No byte of a memory has changed, and no slot's state. -/
def Still (s u : State) (k : Nat) : Prop :=
  u.dmem = s.dmem ∧ u.hmem = s.hmem ∧ u.pmem = s.pmem ∧ (u.core k).sp = (s.core k).sp ∧
    ∀ n, ((u.core k).slotSb n).state = ((s.core k).slotSb n).state

/-- R56, R61, R71: a trade of x.xch takes an exchange entry for its two locations, when nothing stands before it and both
blocks can be read; it stops with the cause of an address that does not translate (R301), and where either block is
poisoned; nothing moves. -/
def TradeBegins : Prop :=
  ∀ (s : State) (k j : Nat) (m : Cmd) (cls : BitVec 2) (mark : Mark) (cc a : BitVec 6) (slot n1 : BitVec 10),
    m.ins = .xXch cls mark cc a slot n1 → Alone s k j m → m.i < m.n → Healthy s k → (s.ctx k j).inTrap = false → m.bad = none →
    let sl := slot.toNat + m.i
    let addr := m.arg 0 + 2048 * m.i
    let ev := Instr.tradePhaseA k j m.seq
    (∀ p, s.translate (s.ctx k j).vi addr true = .ok p →
      if ((s.core k).slotSb sl).state = .poisoned ∨ (s.getBlk p.key p.die p.dfn p.blk).sb.state = .poisoned then
        ∃ u, exec ev s = .next u ∧ Stops s u k j m 0x0E addr ∧ Still s u k
      else ∃ (u : State) (t : Trade), exec ev s = .next u ∧ cmdsOf u k j = [{ m with status := .flight t, hold := none }] ∧
        t.near = .s k sl ∧ t.far = .d addr ∧ t.phase = .a ∧ t.die = p.die ∧ t.dfn = p.dfn ∧ t.blk = p.blk ∧
        t.key = p.key ∧ (t.tier, t.loc) = s.place p.die p.dfn p.blk ∧ t.bad = false ∧
        (t.upto = none ∨ t.upto = some (s.now + 211200)) ∧ Still s u k) ∧
    (s.translate (s.ctx k j).vi addr true = .error .unmapped →
      ∃ u, exec ev s = .next u ∧ Stops s u k j m 7 addr ∧ Still s u k) ∧
    (s.translate (s.ctx k j).vi addr true = .error .framePoisoned →
      ∃ u, exec ev s = .next u ∧ Stops s u k j m 0x0D addr ∧ Still s u k)

/-- R57, R101: a trade does not begin while another in flight names its near slot, nor behind an x.fence of its context
that has not completed: a full or an acquire fence orders every access behind it, a release fence every write, the
write halves of trades among them. -/
def TradesWait : Prop :=
  ∀ (s : State) (k j : Nat) (m : Cmd) (near far : Loc), Holds s k j m → m.trade k (s.core k) = some (near, far) →
    (∃ t ∈ s.entries, t.near = near ∧ ∀ a, near ≠ .d a) ∨
    (∃ p ∈ cmdsOf s k j, p.seq < m.seq ∧ (∃ cc kind scope, p.ins = .xFence cc kind scope) ∧
      ∃ c sl, near = .s c sl) →
      exec (.tradePhaseA k j m.seq) s = .refused (.notEnabled "TRADE_PHASE_A")

/-- R43, R56, R301: once both blocks have been read, and the home channel has carried the eight flits of an x.xchp's
block (log entry 43, deduced), phase B begins; a far retry that has lasted 64 microseconds ends with the
stop of the command, cause 0x09, and both blocks where they were. -/
def TradeGoesOn : Prop :=
  ∀ (s : State) (k j : Nat) (m : Cmd) (t : Trade), Holds s k j m → m.status = .flight t → t.phase = .a →
    (t.upto = none → t.link = false → (horizontal m.ins = true → 8 ≤ m.sent) →
      ∃ u, exec (.tradePhaseB k j m.seq) s = .next u ∧ Still s u k ∧
        cmdsOf u k j = (cmdsOf s k j).map fun p =>
          if p.seq = m.seq then { m with status := .flight { t with phase := .b }, hold := none } else p) ∧
    (∀ c a, t.upto = some c → c ≤ s.now → t.far = .d a → (s.ctx k j).inTrap = false → m.bad = none →
      ∃ u, exec (.farRetryTimeout k j m.seq) s = .next u ∧ Stops s u k j m 9 a ∧ Still s u k)

/-- Every other slot of a core is as it was. -/
def OtherSlots (s u : State) (k slot : Nat) : Prop :=
  (∀ n, n ≠ slot → (u.core k).slotSb n = (s.core k).slotSb n) ∧
    ∀ a, a < 0x140000 → a / 2048 ≠ slot → (u.core k).spByte a = (s.core k).spByte a

/-- A trade that commits now: in phase B, with no bank lock on its core. -/
structure Committing (s : State) (k j : Nat) (m : Cmd) (t : Trade) (slot : Nat) : Prop where
  holds  : Holds s k j m
  flight : m.status = .flight t
  near   : t.near = .s k slot
  slot   : slot < 640
  phase  : t.phase = .b
  whole  : t.bad = false ∧ m.poison = none
  lock   : (s.core k).lock = none
  flips  : (s.core k).flips = []
  mem    : (s.core k).sp.wf = true ∧ s.pmem.wf = true ∧ s.dmem.wf = true

/-- Both blocks are gone, or never were. -/
def gone (b : Block) : Prop := b.sb.state = .empty ∨ b.sb.state = .absent

/-- R54, R55, R61: the commit of a pool trade exchanges the blocks of the two slots. A block from the pool that has no
home takes the pool slot as its home, and one that is not there leaves an empty slot; a block into the pool keeps its
home; clean falls where a write landed in flight. -/
def PoolTradeCommits : Prop :=
  ∀ (s : State) (k j : Nat) (m : Cmd) (t : Trade) (cls : BitVec 2) (cc a : BitVec 6) (sl n1 : BitVec 10)
    (slot cl ps : Nat), m.ins = .xXchp cls cc a sl n1 → Committing s k j m t slot → t.far = .p cl ps → ps < 4096 →
    let pool := s.getPool cl ps
    let near := (s.core k).getSlot slot
    ∃ u, exec (.tradeCommit k j m.seq) s = .next u ∧ Advances s u k j m ∧ OtherSlots s u k slot ∧
      (∀ o, o < 2048 → ((u.core k).getSlot slot).byte o = pool.byte o ∧ (u.getPool cl ps).byte o = near.byte o) ∧
      (gone pool → ((u.core k).slotSb slot).state = .empty) ∧
      (¬ gone pool →
        let b := (u.core k).slotSb slot
        b.state = pool.sb.state ∧ (pool.sb.okind = 0 → b.okind = 2 ∧ b.origin = BitVec.ofNat 41 (ps + cl * 4096) ∧
            b.clean = !pool.sb.touched) ∧
          (pool.sb.okind ≠ 0 → b.okind = pool.sb.okind ∧ b.origin = pool.sb.origin ∧
            b.clean = (pool.sb.clean && !pool.sb.touched))) ∧
      (let b := (u.getPool cl ps).sb
       b.state = near.sb.state ∧ b.okind = near.sb.okind ∧ b.origin = near.sb.origin ∧
        b.clean = (near.sb.clean && !near.sb.touched)) ∧
      (∀ n, n ≠ cl * 4096 + ps → AMap.get u.psb n {} = AMap.get s.psb n {} ∧
        ∀ o, o < 2048 → u.pmem.read (n * 2048 + o) = s.pmem.read (n * 2048 + o)) ∧
      u.dmem = s.dmem ∧ u.dsb = s.dsb ∧
      (∀ d, (s.ctx k j).dom = some d → (u.dom d).latest = max (s.dom d).latest s.now)

/-- R54, R55, R59, R79: the commit of a trade with a stable frame of level D, not lent by the host. The slot takes the
far block, with its home there; what leaves the slot makes the far block absent (nothing in the slot), lets it be present
again without its bytes being written (an unwritten block that returns home), or is stored; media accesses and the
frame's hotness count accordingly. -/
def FarTradeCommits : Prop :=
  ∀ (s : State) (k j : Nat) (m : Cmd) (t : Trade) (cls : BitVec 2) (mark : Mark) (cc a : BitVec 6) (sl n1 : BitVec 10)
    (slot addr : Nat), m.ins = .xXch cls mark cc a sl n1 → Committing s k j m t slot → t.far = .d addr →
    addr % 2048 = 0 → addr < 2 ^ 52 → (s.pent t.die t.dfn).state = 1 → t.tier = (s.pent t.die t.dfn).tier →
    t.loc = (s.pent t.die t.dfn).loc → t.tier < 3 →
    let far := s.getBlkAt t.key t.die t.tier t.loc t.blk
    let near := (s.core k).getSlot slot
    let home := near.sb.state = .present ∧ near.sb.clean = true ∧ near.sb.okind = 1 ∧
      near.sb.origin = BitVec.ofNat 41 (addr / 2048) ∧ far.sb.state = .absent
    let counts := fun v : State => ((v.die t.die).reads, (v.die t.die).sbWr, (v.die t.die).datWr)
    let old := counts s
    ∃ u, exec (.tradeCommit k j m.seq) s = .next u ∧ Advances s u k j m ∧ OtherSlots s u k slot ∧
      (∀ o, o < 2048 → ((u.core k).getSlot slot).byte o = far.byte o) ∧
      (gone far → ((u.core k).slotSb slot).state = .empty) ∧
      (¬ gone far →
        let b := (u.core k).slotSb slot
        b.state = far.sb.state ∧ b.okind = 1 ∧ b.origin = BitVec.ofNat 41 (addr / 2048) ∧
          b.clean = !far.sb.touched) ∧
      (let new := u.getBlkAt t.key t.die t.tier t.loc t.blk
       (gone near → new.sb.state = .absent ∧ u.dmem = s.dmem ∧
          counts u = (old.1 + (if far.sb.state = .present then 1 else 0), old.2.1 + 1, old.2.2)) ∧
        (home → new.sb.state = .present ∧ u.dmem = s.dmem ∧ counts u = (old.1, old.2.1 + 1, old.2.2)) ∧
        (¬ gone near → ¬ home → new.sb.state = near.sb.state ∧ new.sb.clean = false ∧ new.sb.okind = 0 ∧
          (∀ o, o < 2048 → new.byte o = near.byte o) ∧ counts u = (old.1 + 1, old.2.1, old.2.2 + 1))) ∧
      (∀ n, n ≠ blkKey t.die t.tier t.loc t.blk → u.sbAt n = s.sbAt n ∧
        ∀ o, o < 2048 → u.dmem.read (n * 2048 + o) = s.dmem.read (n * 2048 + o)) ∧
      AMap.get (u.die t.die).hot t.dfn 0 = min 255 (AMap.get (s.die t.die).hot t.dfn 0 + 1) ∧
      u.pmem = s.pmem ∧ u.psb = s.psb ∧ u.hmem = s.hmem

/-- R68, R244: with the trades of its row behind it an x.wadv places the row: the window's cursor and the ring's tail
advance, and the command goes on. -/
def RowsPlaced : Prop :=
  ∀ (s : State) (k j : Nat) (m : Cmd) (cls : BitVec 2) (cc : BitVec 6) (ring : BitVec 4) (n : BitVec 16) (w : Window),
    let g := (s.core k).ring ring.toNat
    m.ins = .xWadv cls cc ring n → Alone s k j m → m.sub = 2 → g.win = some w →
      ∃ u, exec (.windowRowPlace k j m.seq) s = .next u ∧
        Advances s u k j { m with sub := 0 } ∧ Still s u k ∧
        (u.core k).ring ring.toNat = { g with tail := (g.tail + 1) % 65536, win := some { w with cursor := w.cursor + 1 } }

end Sys2Proof.Claims

/-- R54 to R57, R59, R61, R68, R79, R101, R301: how a trade begins, waits, goes on and commits, and how a row is placed. -/
def Obligations.Trades : Prop :=
  Claims.TradeBegins ∧ Claims.TradesWait ∧ Claims.TradeGoesOn ∧ Claims.PoolTradeCommits ∧ Claims.FarTradeCommits ∧
    Claims.RowsPlaced

/-! ## Supersteps -/

namespace Sys2Proof.Claims

/-- The members of a domain wait in its barrier with nothing outstanding, and nothing holds it (R39). -/
structure BarrierReady (s : State) (d : Nat) : Prop where
  open_   : (s.dom d).saving = false ∧ (s.dom d).saved = false ∧ (s.dom d).heldRt = none ∧ (s.dom d).pend = false
  some_   : s.members d ≠ []
  waiting : ∀ m ∈ s.members d, ∃ ws on, m.2.2.status = .blocked ws on ∧ Wait.phase ∈ ws
  idle    : ∀ m ∈ s.members d, m.2.2.cmds = []
  late    : (s.dom d).latest + 31 ≤ s.now

/-- R36, R39, R40: 31 cycles after the last arrival the barrier passes: the phase counter advances, no failure and no
straggler count is left, and each member's wait for the barrier is over, with the new count in its own counter. -/
def BarrierPasses : Prop :=
  ∀ (s : State) (d : Nat), d < 16 → BarrierReady s d → s.rtMask = none →
    ∃ t, exec (.barrierPass d) s = .next t ∧
      (t.dom d).ctr = (s.dom d).ctr + 1 ∧ (t.dom d).count = none ∧ (t.dom d).failed = false ∧
      (∀ k j ws on, (s.ctx k j).dom = some d → (s.ctx k j).status = .blocked ws on →
        (∃ m ∈ s.members d, m.1 = k ∧ m.2.1 = j) →
        (t.ctx k j).status = .blocked (ws.filter (· != .phase)) on ∧ (t.ctx k j).phase = (s.dom d).ctr + 1) ∧
      (∀ e, e ≠ d → t.dom e = s.dom e) ∧ t.dmem = s.dmem ∧ t.pmem = s.pmem ∧ t.hmem = s.hmem

/-- R273: a barrier at the end of an exchange superstep is held for a router swap that names its domain. -/
def BarrierHeld : Prop :=
  ∀ (s : State) (d : Nat) (mask : BitVec 16), d < 16 → BarrierReady s d → s.rtMask = some mask →
    mask.getLsbD d = true → (s.dom d).ctr.getLsbD 0 = true →
      exec (.barrierPass d) s = .next (s.modDom d fun x => { x with heldRt := some s.now })

/-- R41: with the end of an exchange superstep the vats of the domain's cores swap: a granule that a remote store has
written shows the copy that was hidden, and no granule counts as written any more. An empty block into which at least
one granule flips is present from then on, with clean 0, and its other granules read as zeros. -/
def VatsSwap : Prop :=
  ∀ (s : State) (d k : Nat), d < 16 → BarrierReady s d → s.rtMask = none → (s.dom d).ctr.getLsbD 0 = true →
    (s.dom d).clusters.getLsbD (k / 8) = true → (AMap.find? s.cores k).isSome = true →
    let c := s.core k
    ∃ t, exec (.barrierPass d) s = .next t ∧ (t.core k).written = [] ∧
      (∀ g, g < 4096 → (g ∈ (t.core k).sel ↔ (g ∈ c.sel ↔ g ∉ c.written))) ∧
      (∀ g o, g < 4096 → o < 64 → g ∈ c.written →
        (c.slotSb (512 + g / 32)).state = .present → (c.slotSb (512 + g / 32)).stale = none →
          (t.core k).spByte (0x100000 + 64 * g + o) =
            c.sp.read (if g ∈ c.sel then 0x100000 + 64 * g + o else 0x140000 + 64 * g + o)) ∧
      (∀ g o, g < 4096 → o < 64 → g ∉ c.written → (c.slotSb (512 + g / 32)).state = .present →
        (c.slotSb (512 + g / 32)).stale = none →
          (t.core k).spByte (0x100000 + 64 * g + o) = c.spByte (0x100000 + 64 * g + o)) ∧
      (∀ slot, 512 ≤ slot → slot < 640 → c.sp.wf = true → (c.slotSb slot).state = .empty ∨ (c.slotSb slot).state = .absent →
        if ∃ g ∈ c.written, 512 + g / 32 = slot then
          ((t.core k).slotSb slot).state = .present ∧ ((t.core k).slotSb slot).clean = false ∧
            ∀ g o, 512 + g / 32 = slot → o < 64 → (t.core k).spByte (0x100000 + 64 * g + o) =
              if g ∈ c.written then c.sp.read (if g ∈ c.sel then 0x100000 + 64 * g + o else 0x140000 + 64 * g + o)
              else 0
        else (t.core k).slotSb slot = c.slotSb slot)

/-- The words of a straggler record (R45): subtype, cause, domain, counter, and the cores that are late. -/
def lateWords (s : State) (d : Nat) : List W64 :=
  [BitVec.ofNat 64 (3 + 0x0B * 256), BitVec.ofNat 64 d, (s.dom d).ctr] ++
    (List.range 16).map fun w => BitVec.ofNat 64 (((List.range 64).filter fun b =>
      (s.members d).any fun m => m.1 == 64 * w + b && !m.2.2.arrived).map fun b => 2 ^ b).sum

/-- R45, R315: 2^strag.exp cycles after the first arrival the straggler report goes to the owner and to interface 0, the
count ends, and the pending barrier has failed; so it has when arrivals cannot be delivered. -/
def BarrierFails : Prop :=
  ∀ (s : State) (d : Nat),
    let x := s.dom d
    let failed := fun t : State => t.modDom d fun y => { y with count := none, failed := true }
    x.pend = false →
    (∀ c, x.count = some c → x.heldRt = none → c + 2 ^ x.strag ≤ s.now → x.owner = 0 →
      exec (.stragglerTimeout d) s = .next (failed (s.record 0 1 (lateWords s d)))) ∧
    (∀ c, x.count = some c → x.heldRt = none → c + 2 ^ x.strag ≤ s.now → x.owner ≠ 0 →
      exec (.stragglerTimeout d) s =
        .next (failed ((s.record x.owner 1 (lateWords s d)).record 0 1 (lateWords s d)))) ∧
    (∀ m ∈ s.members d, m.2.2.arrived = true →
      exec (.barrierNetFail d) s = .next ((s.fault [0, x.owner] 11 0x0B 0 (BitVec.ofNat 64 d) x.ctr 1).modDom d
        fun y => { y with failed := true }))

/-- R44, R45: a write of strag.exp by an interface that sees the domain: 0 ends the count, 10 to 40 starts it anew where a
member has arrived at a barrier that has not passed (R39, R316), and every other value changes nothing. -/
def StragglerPeriods : Prop :=
  ∀ (s : State) (vi d : Nat) (v : W64), s.stage = 2 → d < 16 → (vi = 0 ∨ (s.dom d).owner = vi) →
    let n := (v.extractLsb' 0 6).toNat
    let waiting := (s.dom d).saving = false ∧ (s.dom d).saved = false ∧ ∃ m ∈ s.members d, m.2.2.arrived = true
    exec (.stragExpWrite vi d v) s = .next (
      if n = 0 then s.modDom d fun x => { x with strag := 0, count := none }
      else if 10 ≤ n ∧ n ≤ 40 then s.modDom d fun x => { x with strag := n, count := if waiting then some s.now else none }
      else s)

/-- R46, R47, R57: the save of a domain, once every task is frozen with nothing under way and no trade in flight names a
block of the save area, leaves it saved, with the clusters of the save; its tasks are saved, no other domain changes, and
no task goes on. -/
def DomainsSave : Prop :=
  ∀ (s : State) (d : Nat), (s.dom d).saving = true → s.areaFree d = true →
    (∀ m ∈ s.tasksOf d, m.2.2.frozen.isSome = true ∧ m.2.2.cmds = [] ∧ m.2.2.sq.loads = [] ∧ m.2.2.sq.tile = none ∧
      m.2.2.mxDue ≤ s.now ∧
      ∀ st ∈ (s.core m.1).stq, st.ctx ≠ m.2.1) →
    ∃ t, exec (.preemptSave d) s = .next t ∧ (t.dom d).saved = true ∧ (t.dom d).saving = false ∧
      (t.dom d).pend = false ∧ (t.dom d).savedCl = (s.dom d).clusters ∧ (t.dom d).ctr = (s.dom d).ctr ∧
      (∀ m ∈ s.tasksOf d, (t.ctx m.1 m.2.1).saved = true ∧ (t.ctx m.1 m.2.1).status = (s.ctx m.1 m.2.1).status ∧
        (t.ctx m.1 m.2.1).frozen = (s.ctx m.1 m.2.1).frozen ∧ (t.ctx m.1 m.2.1).s = (s.ctx m.1 m.2.1).s) ∧
      (∀ e, e ≠ d → t.dom e = s.dom e)

/-- R44, R48: a write of dom.ctl.resume sets a replay origin W for a saved domain with the clusters of its save; it is
refused with a record where nothing is saved or the clusters differ. Behind a trade in flight that names a block of the
save area it waits (R57). That a second write does nothing while the resume is under way is the model's choice (log
entry 94). -/
def DomainsResume : Prop :=
  ∀ (s : State) (vi d : Nat), s.stage = 2 → d < 16 → (vi = 0 ∨ (s.dom d).owner = vi) →
    let x := s.dom d
    let waits := fun b => s.modDom d fun y => { y with resuming := b }
    if x.saved = true ∧ x.clusters = x.savedCl then
      (x.origin = none → s.areaFree d = false → exec (.domResume vi d) s = .next (waits true)) ∧
      (x.origin = none → s.areaFree d = true → ∃ t w, exec (.domResume vi d) s = .next t ∧ s.now < w ∧ (t.dom d).origin = some w ∧
        (t.dom d).ctr = x.ctr ∧ (∀ e, e ≠ d → t.dom e = s.dom e)) ∧
      (x.origin ≠ none → exec (.domResume vi d) s = .next s)
    else exec (.domResume vi d) s =
      .next ((waits false).record x.owner 1 [BitVec.ofNat 64 (2 + 2 * 256), BitVec.ofNat 64 d, 1])

/-- R48: 31 cycles after the replay origin the barrier of a resume releases the tasks; the phase counter stays. -/
def ResumeBarriers : Prop :=
  ∀ (s : State) (d w : Nat), (s.dom d).origin = some w → w + 31 ≤ s.now → (s.dom d).forced = false →
    ∃ t, exec (.resumeBarrier d) s = .next t ∧ (t.dom d).saved = false ∧ (t.dom d).origin = none ∧
      (t.dom d).ctr = (s.dom d).ctr ∧ (t.dom d).count = none ∧
      (∀ m ∈ s.tasksOf d, let y := t.ctx m.1 m.2.1
        y.saved = false ∧ y.frozen = none ∧ ∀ ws on, (s.ctx m.1 m.2.1).status = .blocked ws on →
          y.status = .blocked (ws.filter (· != .phase)) on) ∧
      (∀ e, e ≠ d → t.dom e = s.dom e) ∧ t.dmem = s.dmem ∧ t.pmem = s.pmem

end Sys2Proof.Claims

/-- R36, R39 to R41, R44 to R48, R273, R315: barriers, late members, saves and resumes. Each clause concludes that `exec`
answers a next state: of barrierPass, stragglerTimeout, barrierNetFail, stragExpWrite, preemptSave, domResume and
resumeBarrier. -/
def Obligations.Supersteps : Prop :=
  Claims.BarrierPasses ∧ Claims.BarrierHeld ∧ Claims.VatsSwap ∧ Claims.BarrierFails ∧ Claims.StragglerPeriods ∧
    Claims.DomainsSave ∧ Claims.DomainsResume ∧ Claims.ResumeBarriers

/-! ## Command streams -/

namespace Sys2Proof.Claims

/-- The arbiter's next grant (R32) goes to the head `e` of a stream. -/
def Granted (s : State) (vi st : Nat) (e : CmdEntry) : Prop := ∃ p old, s.granted = some ((p, vi, st, e), old)

/-- R32: the grant goes to an eligible stream whenever there is one; but for the one in 64 that goes to a stream of a
lower priority, it goes to one of the highest priority among them. -/
def Arbitration : Prop :=
  ∀ s : State, (s.eligibles = [] ↔ s.granted = none) ∧
    ∀ p old, s.granted = some (p, old) → p ∈ s.eligibles ∧
      (old = false → ∀ q ∈ s.eligibles, q.1 ≤ p.1) ∧
      (old = true → 64 ≤ s.grants ∧ ∃ q ∈ s.eligibles, p.1 < q.1)

/-- The machine `u` after the head of a stream has been dispatched: the stream has moved on to its next entry, and `f` is
what else happened to it; nothing outside the streams and the arbiter has changed. -/
structure Took (s u : State) (vi st : Nat) (f : Stream → Stream) : Prop where
  own    : u.stream vi st =
    f { s.stream vi st with head := ((s.stream vi st).head + 1) % 2 ^ (s.stream vi st).lg, since := none }
  others : ∀ v t, (v ≠ vi ∨ t ≠ st) → u.stream v t = s.stream v t
  rest   : { u with vis := s.vis, grants := s.grants, served := s.served } = s
  vis    : ∀ v, { u.vi v with streams := [] } = { s.vi v with streams := [] }

/-- One command more that has not completed. -/
def opened (x : Stream) : Stream := { x with open_ := x.open_ + 1 }

/-- R14: the header's reserved bits are zero, and its kind. -/
def Header (e : CmdEntry) (kind : Nat) : Prop :=
  (e.w0.extractLsb' 0 8).toNat = kind ∧ e.w0.extractLsb' 10 6 = 0 ∧ e.w0.extractLsb' 48 16 = 0

def tagOf (e : CmdEntry) : W32 := e.w0.extractLsb' 16 32
def notifies (e : CmdEntry) : Bool := e.w0.getLsbD 9

/-- The command completes at its dispatch (R14, R16): a record, where the entry asks for one. -/
def CompletesCmd (ev : Instr) (s : State) (vi st : Nat) (e : CmdEntry) (more : State → State) : Prop :=
  ∃ u, Took s u vi st id ∧ exec ev s = .next ((more u).complete vi st (tagOf e) (notifies e))

/-- The command is refused with a code (R16). -/
def Refuses (ev : Instr) (s : State) (vi st : Nat) (e : CmdEntry) (code w1 : Nat) : Prop :=
  ∃ u, Took s u vi st id ∧ exec ev s = .next (u.refuse vi st code (tagOf e) (BitVec.ofNat 64 w1))

/-- R15, R16: a NOP completes at its dispatch; an entry of a reserved kind is refused with code 1, with the 0 in w1 of log
entry 70 (deduced). -/
def NopCommands : Prop :=
  ∀ (s : State) (vi st : Nat) (e : CmdEntry), Granted s vi st e →
    (Header e 0 → e.w1 = 0 → e.w2 = 0 → e.w3 = 0 → e.w4 = 0 → e.w5 = 0 → e.w6 = 0 → e.w7 = 0 →
      CompletesCmd (.cmdNop vi st e) s vi st e id) ∧
    (6 < (e.w0.extractLsb' 0 8).toNat → Refuses (.cmdNop vi st e) s vi st e 1 0)

/-- Every block of level D and every placement entry reads back without an error (R306, R314). -/
structure WholeMedia (s : State) : Prop where
  blocks : s.mhard = [] ∧ s.mside = [] ∧ s.mflips = []
  chans  : ∀ d, (s.die d).dead = [] ∧ (s.die d).retired = []
  map    : ∀ d f, (s.pent d f).bad0 = []
  forms  : FormsKept s

/-- A semaphore that a command of an interface reaches (R346). -/
structure Semaphore (s : State) (vi addr : Nat) (write : Bool) (p : Phys) : Prop where
  aligned : addr % 8 = 0
  there   : s.translate vi addr write = .ok p
  block   : (s.getBlk p.key p.die p.dfn p.blk).sb.state ≠ .poisoned
  media   : WholeMedia s
  mem     : s.dmem.wf = true ∧ s.hmem.wf = true

/-- The word at a translated address. -/
def wordAt (s : State) (p : Phys) : W64 :=
  BitVec.ofNat 64 (leNat ((List.range 8).map fun i => (s.getBlk p.key p.die p.dfn p.blk).byte (p.off + i)))

/-- R15, R346: a SIGNAL adds its value to the semaphore modulo 2^64, or sets it, and completes; its atomic is part of the
dispatch (log entry 103), and the 0 in w1 of its refusals is log entry 70 (deduced). -/
def SignalCommands : Prop :=
  ∀ (s : State) (vi st : Nat) (e : CmdEntry) (p : Phys), Granted s vi st e → Header e 2 →
    e.w4 = 0 → e.w5 = 0 → e.w6 = 0 → e.w7 = 0 →
    ((e.w3 = 0 ∨ e.w3 = 1) → Semaphore s vi e.w1.toNat true p →
      ∃ u, exec (.signal vi st e) s = .next (u.complete vi st (tagOf e) (notifies e)) ∧
        wordAt u p = (if e.w3 = 0 then wordAt s p + e.w2 else e.w2) ∧
        (u.stream vi st).open_ = (s.stream vi st).open_ ∧ u.pmem = s.pmem) ∧
    (e.w1.toNat % 8 ≠ 0 → e.w3 = 0 → Refuses (.signal vi st e) s vi st e 2 0) ∧
    ((e.w3 = 2 ∨ e.w3 = 3) → Refuses (.signal vi st e) s vi st e 2 0)

/-- R15, R346: a WAIT holds its stream; once its semaphore has reached the threshold the stream goes on and the WAIT has
completed; while it has not, nothing happens; and where it cannot be reached any more the WAIT ends with code 2, with the 0
in w1 of log entry 70 (deduced). -/
def WaitCommands : Prop :=
  (∀ (s : State) (vi st : Nat) (e : CmdEntry) (p : Phys), Granted s vi st e → Header e 3 →
    e.w3 = 0 → e.w4 = 0 → e.w5 = 0 → e.w6 = 0 → e.w7 = 0 → Semaphore s vi e.w1.toNat false p →
      ∃ u, Took s u vi st (fun x =>
          { opened x with wait := some (e.w1.toNat, e.w2.toNat, tagOf e, notifies e) }) ∧
        exec (.wait vi st e) s = .next u) ∧
  (∀ (s : State) (vi st addr n : Nat) (tag : W32) (notify : Bool),
    (s.stream vi st).wait = some (addr, n, tag, notify) →
    let ended := fun u : State => u.stream vi st =
        { s.stream vi st with wait := none, open_ := (s.stream vi st).open_ - 1 } ∧
      (∀ v t, (v ≠ vi ∨ t ≠ st) → u.stream v t = s.stream v t) ∧ u.dmem = s.dmem ∧ u.dsb = s.dsb ∧ u.hmem = s.hmem
    (∀ p, Semaphore s vi addr false p →
      if n ≤ (wordAt s p).toNat then ∃ u, exec (.waitSatisfied vi st) s = .next (u.complete vi st tag notify) ∧ ended u
      else exec (.waitSatisfied vi st) s = .refused (.notEnabled "WAIT_SATISFIED")) ∧
    (∀ p, s.translate vi addr false = .ok p → (s.getBlk p.key p.die p.dfn p.blk).sb.state = .poisoned → WholeMedia s →
      ∃ u, exec (.waitSatisfied vi st) s = .next (u.refuse vi st 2 tag 0) ∧ ended u) ∧
    (∀ f, s.translate vi addr false = .error f → WholeMedia s →
      ∃ u, exec (.waitSatisfied vi st) s = .next (u.refuse vi st 2 tag 0) ∧ ended u))

/-- R17: the task of a placement entry. -/
def taskOf (l : Nat) (e : W64 × W64) : Task where
  launch  := l
  core    := (e.1.extractLsb' 0 10).toNat
  ctx     := (e.1.extractLsb' 10 2).toNat
  va      := (e.1.extractLsb' 12 4).toNat
  vb      := (e.1.extractLsb' 16 4).toNat
  acc     := (e.1.extractLsb' 20 3).toNat
  persist := e.1.getLsbD 23
  pair    := e.1.getLsbD 24
  entry   := (e.1.extractLsb' 32 32).toNat
  coord   := (e.2.extractLsb' 0 48).zeroExtend 64
  partner := (e.2.extractLsb' 48 10).toNat

/-- R15, R20: a LAUNCH with a valid placement table stays open, and its tasks wait on their cores in the order of their
entries; one with a broken table is refused with the table's code and entry. The table is what the machine finds once the
launch's own reads have gone through the TLB (`seeLaunch`); the 0 in w1 of a refusal with code 3 is the model's reading
(log entry 70). -/
def LaunchCommands : Prop :=
  ∀ (s : State) (vi st : Nat) (e : CmdEntry) (es : List (W64 × W64)), Granted s vi st e → Header e 1 →
    let d := (e.w4.extractLsb' 0 4).toNat
    let gx := (e.w3.extractLsb' 0 16).toNat
    let gy := (e.w3.extractLsb' 16 16).toNat
    let gz := (e.w3.extractLsb' 32 16).toNat
    let r := s.seeLaunch vi e
    WholeMedia s → e.w3.extractLsb' 48 16 = 0 → e.w4.extractLsb' 4 60 = 0 → e.w6 = 0 → e.w7 = 0 → e.w1.toNat % 2048 = 0 →
    e.w2.toNat % 64 = 0 → gx ≠ 0 → gy ≠ 0 → gz ≠ 0 →
    (((s.dom d).owner ≠ vi) → Refuses (.launch vi st e) s vi st e 3 0) ∧
    ((s.dom d).owner = vi → ∀ c i, r.readTable vi e.w2.toNat (s.dom d).clusters gx gy gz = .error (c, i) →
      ∃ u : State, exec (.launch vi st e) s = .next (u.refuse vi st c (tagOf e) (BitVec.ofNat 64 i)) ∧
        u.launches = s.launches ∧ u.nextLaunch = s.nextLaunch ∧ u.cores = s.cores ∧ u.dmem = s.dmem ∧
        (u.stream vi st).open_ = (s.stream vi st).open_) ∧
    ((s.dom d).owner = vi → r.readTable vi e.w2.toNat (s.dom d).clusters gx gy gz = .ok es →
      r.mapped vi e.w1.toNat 32768 false = true → (s.vi vi).hdVec = 0 →
      ∃ u t, Took s u vi st opened ∧ exec (.launch vi st e) s = .next t ∧
        AMap.find? t.launches s.nextLaunch = some {
          vi := vi, stream := st, tag := tagOf e, notify := notifies e, image := e.w1.toNat, arg := e.w5, dom := d,
          gx := gx, gy := gy, gz := gz, next := 0, left := es.length, barred := [] } ∧
        t.nextLaunch = s.nextLaunch + 1 ∧
        (∀ k, (t.core k).queue = (s.core k).queue ++
          (es.map (taskOf s.nextLaunch)).filter fun x => x.core == k) ∧
        (∀ k j, t.ctx k j = s.ctx k j) ∧
        { t with cores := u.cores, launches := u.launches, nextLaunch := u.nextLaunch, dies := u.dies,
                 free := u.free } = u)

/-- R15: a launch completes when its last task has been released. -/
def LaunchesComplete : Prop :=
  ∀ (s : State) (n : Nat) (l : Launch), AMap.find? s.launches n = some l →
    exec (.launchComplete n) s = if l.left = 0 then
      .next ((({ s with launches := AMap.erase s.launches n }).modVi l.vi fun v =>
        { v with streams := AMap.upd v.streams l.stream {} fun x => { x with open_ := x.open_ - 1 } }).complete
          l.vi l.stream l.tag l.notify)
      else .refused (.notEnabled "LAUNCH_COMPLETE")

/-- R20, R21, R36, R137: a task that is not of a pair is admitted beside others of its image, on a core that is not in
test mode (R337), once its context and its banks are free, a bank that parked registers reserve not among them: zero registers but for the argument and the coordinates, user privilege, the entry bundle next; it issues from the
next compute superstep when the phase counter is odd. -/
def TasksAdmit : Prop :=
  ∀ (s : State) (k : Nat) (w : Task) (rest : List Task) (l : Launch),
    let c := s.core k
    let free := fun n (f : Ctx → List Nat) => (List.range n).filter fun b =>
      !((List.range 4).any fun i => (c.ctx i).status != .free && (f (c.ctx i)).contains b)
    let accs := (free 4 (·.accMap)).filter fun b => !c.spill.any fun q => q.bank == b
    c.queue = w :: rest → w.pair = false → AMap.find? s.launches w.launch = some l →
    (s.dom l.dom).pend = false → (s.dom l.dom).saving = false → (s.dom l.dom).saved = false → c.heldB = false →
    c.smode ≠ 2 → (c.ctx w.ctx).status = .free → (∃ i, i < 4 ∧ (c.ctx i).status ≠ .free) → c.image = some (l.vi, l.image) →
    w.va ≤ (free 16 (·.vaMap)).length → w.vb ≤ (free 16 (·.vbMap)).length → w.acc ≤ accs.length →
      ∃ t x, exec (.taskAdmit k) s = .next t ∧ (t.core k).queue = rest ∧ t.ctx k w.ctx = x ∧
        (∀ i, i ≠ w.ctx → t.ctx k i = s.ctx k i) ∧ (∀ n, n ≠ k → t.core n = s.core n) ∧ (t.core k).run = c.run ∧
        x.status = (if (s.dom l.dom).ctr.getLsbD 0 = true then .held else .ready) ∧ x.priv = false ∧
        x.pc = w.entry ∧ x.half = 0 ∧ x.phase = (s.dom l.dom).ctr ∧ x.dom = some l.dom ∧ x.persist = w.persist ∧
        x.rdS 0 = l.arg ∧ x.rdS 56 = (if w.persist = true then BitVec.allOnes 64 else w.coord) ∧
        x.rdS 57 = BitVec.allOnes 64 ∧ x.rdS 58 = BitVec.allOnes 64 ∧ x.rdS 59 = BitVec.allOnes 64 ∧
        (∀ n, n ≠ 0 → n < 56 ∨ 60 ≤ n → x.rdS n = 0) ∧ (∀ n, x.rdA n = 0) ∧ x.oa = [] ∧ x.ob = [] ∧ x.cmds = [] ∧
        x.vaMap = (free 16 (·.vaMap)).take w.va ∧ x.vbMap = (free 16 (·.vbMap)).take w.vb ∧
        x.accMap = accs.take w.acc ∧
        (∀ u code, code < 64 * (match u with | .va => w.va | .vb => w.vb) → (t.core k).rdV w.ctx u code = 0)

/-- R13, R261: a halted context with nothing outstanding is released: it is free, and its launch has one task less to
wait for. That the barrier of its domain counts its 31 cycles from a release too is the model's choice (log entry 106). -/
def TasksRelease : Prop :=
  ∀ (s : State) (k j : Nat) (l : Launch),
    let x := s.ctx k j
    x.status = .halted → x.cmds = [] → x.pend = [] → x.frozen = none → x.ntiles = [] →
    x.mxDue ≤ s.now → (∀ st ∈ (s.core k).stq, st.ctx ≠ j) → s.stage = 2 → s.gangOf k j = none →
    AMap.find? s.launches x.launch = some l →
      ∃ t, exec (.taskRelease k j) s = .next t ∧ t.ctx k j = {} ∧ (∀ i, i ≠ j → t.ctx k i = s.ctx k i) ∧
        AMap.find? t.launches x.launch = some { l with left := l.left - 1 } ∧
        (∀ n, n ≠ k → t.core n = s.core n) ∧ (∀ d, x.dom = some d → (t.dom d).latest = max (s.dom d).latest s.now) ∧
        (∀ a, (t.core k).spByte a = (s.core k).spByte a) ∧ t.dmem = s.dmem ∧ t.pmem = s.pmem

end Sys2Proof.Claims

/-- R14 to R16, R32, R346: arbitration, NOP, SIGNAL and WAIT. -/
def Obligations.StreamCommands : Prop :=
  Claims.Arbitration ∧ Claims.NopCommands ∧ Claims.SignalCommands ∧ Claims.WaitCommands

/-- R13, R15, R17, R20, R21, R261: launches and their tasks. -/
def Obligations.LaunchesAndTasks : Prop :=
  Claims.LaunchCommands ∧ Claims.LaunchesComplete ∧ Claims.TasksAdmit ∧ Claims.TasksRelease

namespace Sys2Proof.Claims

/-- R14, R15: the layout of a DOMAIN entry for a domain. -/
def DomainEntry (e : CmdEntry) (d : Nat) (unbind : Bool) : Prop :=
  Header e 4 ∧ (e.w1.extractLsb' 0 4).toNat = d ∧ e.w1.extractLsb' 4 4 = 0 ∧ e.w1.getLsbD 8 = unbind ∧
    e.w1.extractLsb' 9 55 = 0 ∧ e.w4 = 0 ∧ e.w5 = 0 ∧ e.w6 = 0 ∧ e.w7 = 0

/-- R34, R35, R270: a bind adds clusters that no domain holds to a domain of the interface, within its grant; the phase
counter of a domain that held none starts at zero. A cluster that a domain holds is refused with code 2, one outside the
grant with code 5, and a domain of another interface with code 3. That code 5 goes before code 2 is log entry 72, and the 0 in
w1 of the refusals log entry 70 (both deduced). -/
def Binds : Prop :=
  ∀ (s : State) (vi st d : Nat) (e : CmdEntry), Granted s vi st e → DomainEntry e d false →
    let cl : BitVec 128 := e.w3 ++ e.w2
    let free := ∀ q ∈ s.doms, cl &&& q.2.clusters = 0
    let mine := vi = 0 ∨ cl &&& ~~~(s.vi vi).grant = 0
    ((s.dom d).owner ≠ vi → Refuses (.domainBind vi st e) s vi st e 3 0) ∧
    ((s.dom d).owner = vi → ¬ mine → Refuses (.domainBind vi st e) s vi st e 5 0) ∧
    ((s.dom d).owner = vi → mine → ¬ free → Refuses (.domainBind vi st e) s vi st e 2 0) ∧
    ((s.dom d).owner = vi → mine → free → CompletesCmd (.domainBind vi st e) s vi st e fun u =>
      { u.modDom d fun x => { x with clusters := x.clusters ||| cl,
                                     ctr := if x.clusters = 0 ∧ cl ≠ 0 then 0 else x.ctr } with
        clSeq := u.clSeq.filter fun p => !cl.getLsbD p.1 })

/-- R34: an unbind of clusters of the domain, which is not saved, waits until no named cluster holds a resident task; then
they leave the domain. -/
def Unbinds : Prop :=
  (∀ (s : State) (vi st d : Nat) (e : CmdEntry), Granted s vi st e → DomainEntry e d true →
    let cl : BitVec 128 := e.w3 ++ e.w2
    (s.dom d).owner = vi → cl &&& ~~~(s.dom d).clusters = 0 → (s.dom d).saved = false →
      ∃ u, Took s u vi st opened ∧ exec (.domainUnbind vi st e) s = .next (u.modDom d fun x =>
        { x with unbinds := x.unbinds ++ [(vi, st, tagOf e, notifies e, cl)] })) ∧
  (∀ (s : State) (vi st d : Nat) (tag : W32) (notify : Bool) (cl : BitVec 128), d < 16 →
    (s.dom d).unbinds = [(vi, st, tag, notify, cl)] → (∀ e, e ≠ d → (s.dom e).unbinds = []) →
    (∀ p ∈ s.ctxList, cl.getLsbD (p.1 / 8) = true → p.2.2.status = .free) →
      ∃ t : State, exec (.domainUnbindComplete vi st) s = .next (t.complete vi st tag notify) ∧
        t.dom d = { s.dom d with unbinds := [], clusters := (s.dom d).clusters &&& ~~~cl } ∧
        (∀ e, e ≠ d → t.dom e = s.dom e) ∧ (t.stream vi st).open_ = (s.stream vi st).open_ - 1 ∧
        (∀ k, t.core k = s.core k))

/-- R46: a PREEMPT latches the request and stays open; members that have arrived freeze, and the others run on to the
barrier. -/
def Preempts : Prop :=
  ∀ (s : State) (vi st d : Nat) (e : CmdEntry), Granted s vi st e → Header e 5 → (e.w1.extractLsb' 0 4).toNat = d →
    e.w1.extractLsb' 4 60 = 0 → e.w2 = 0 → e.w3 = 0 → e.w4 = 0 → e.w5 = 0 → e.w6 = 0 → e.w7 = 0 →
    (s.dom d).owner = vi → (s.dom d).saved = false → (s.dom d).pend = false → (s.dom d).failed = false →
    s.areaOk d = true → s.members d ≠ [] → s.Canonical →
      ∃ t, exec (.preempt vi st e) s = .next t ∧
        t.dom d = { s.dom d with pend := true, waiters := (s.dom d).waiters ++ [(vi, st, tagOf e, notifies e)] } ∧
        (∀ m ∈ s.members d, let x := s.ctx m.1 m.2.1
          t.ctx m.1 m.2.1 = if x.arrived = true ∧ x.frozen = none then { x with frozen := some s.now } else x) ∧
        (t.stream vi st).open_ = (s.stream vi st).open_ + 1 ∧ (∀ e, e ≠ d → t.dom e = s.dom e)

/-- R14, R271, R272: the layout of a KEY entry for the key of an interface. -/
def KeyEntry (e : CmdEntry) (v : Nat) (revoke : Bool) : Prop :=
  Header e 6 ∧ e.w1.getLsbD 0 = revoke ∧ e.w1.extractLsb' 1 7 = 0 ∧ (e.w1.extractLsb' 8 6).toNat = v ∧
    e.w1.extractLsb' 14 50 = 0 ∧ e.w3 = 0 ∧ e.w4 = 0 ∧ e.w5 = 0 ∧ e.w6 = 0 ∧ e.w7 = 0

/-- A command of a stream completes: the stream has one less under way, and its record is written (R14, R16). -/
def closes (s : State) (c : Nat × Nat × W32 × Bool) : State :=
  (s.modVi c.1 fun x => { x with streams := AMap.upd x.streams c.2.1 {} fun y => { y with open_ := y.open_ - 1 } }).complete
    c.1 c.2.1 c.2.2.1 c.2.2.2

/-- R271: an install of a key that unwraps starts on an empty slot, whose key is live when it completes; another interface
than interface 0 acts only on its own slot. The 0 in w1 of its refusals is log entry 70 (deduced). The read of the wrapped key
goes through the TLB and changes nothing else. -/
def KeyInstalls : Prop :=
  (∀ (s : State) (vi st v : Nat) (e : CmdEntry), Granted s vi st e → KeyEntry e v false → e.w2.toNat % 8 = 0 →
    (vi ≠ 0 → v ≠ vi → Refuses (.keyInstall vi st e) s vi st e 5 0) ∧
    (vi = 0 ∨ v = vi → (s.vi v).key ≠ .empty → Refuses (.keyInstall vi st e) s vi st e 2 0) ∧
    (vi = 0 ∨ v = vi → (s.vi v).key = .empty → s.unwraps vi e = true → WholeMedia s →
      ∃ u w : State, Took s u vi st opened ∧ { w with dies := u.dies, free := u.free } = u ∧
        exec (.keyInstall vi st e) s = .next (w.modVi v fun x =>
          { x with key := .installing, keyCmd := [(vi, st, tagOf e, notifies e)] }))) ∧
  (∀ (s : State) (v : Nat) (c : Nat × Nat × W32 × Bool), (s.vi v).key = .installing → (s.vi v).keyCmd = [c] →
      exec (.keyInstallComplete v) s = .next (closes (s.modVi v fun x => { x with key := .live, keyCmd := [] }) c))

/-- R272: a revoke starts when no domain of the interface has a member; when it completes the slot is empty, no TLB entry
of the interface is left, its monitors are disarmed, the blocks of its clusters' slots and pools are empty, and none of
its domains is saved any more; then its command completes. That an install or a revoke under way completes with it is the
model's choice (log entry 72). -/
def KeyRevokes : Prop :=
  (∀ (s : State) (vi st v : Nat) (e : CmdEntry), Granted s vi st e → KeyEntry e v true → e.w2 = 0 →
    vi = 0 ∨ v = vi → (∀ d, d < 16 → (s.dom d).owner = v → s.members d = []) →
      ∃ u, Took s u vi st opened ∧ exec (.keyRevoke vi st e) s = .next (u.modVi v fun x =>
        { x with key := .revoking, keyCmd := x.keyCmd ++ [(vi, st, tagOf e, notifies e)] })) ∧
  (∀ (s : State) (v : Nat), (s.vi v).key = .revoking →
      ∃ t : State, exec (.keyRevokeComplete v) s = .next ((s.vi v).keyCmd.foldl closes t) ∧
        (∀ vi st, (t.stream vi st).open_ = (s.stream vi st).open_) ∧
        (t.vi v).key = .empty ∧ (t.vi v).keyCmd = [] ∧ (t.vi v).gen = (s.vi v).gen + 1 ∧
        (∀ d, d < 16 → (s.dom d).owner = v → (t.dom d).saved = false) ∧
        (∀ d n, (t.die d).tlb.contains n = true → n.vi ≠ v) ∧
        (∀ k j, (AMap.find? s.cores k).isSome = true → (t.ctx k j).vi = v → (t.ctx k j).mon = .none) ∧
        (∀ d k sl, d < 16 → (s.dom d).owner = v → (s.dom d).clusters.getLsbD (k / 8) = true →
          (AMap.find? s.cores k).isSome = true → (t.core k).slotSb sl = {}) ∧
        (∀ d cl sl, d < 16 → (s.dom d).owner = v → (s.dom d).clusters.getLsbD cl = true → sl < 4096 →
          (t.getPool cl sl).sb = {}) ∧
        t.dmem = s.dmem ∧ t.dsb = s.dsb)

end Sys2Proof.Claims

/-- R34, R35, R46, R270 to R272: domains, pre-emption and keys. Each clause concludes that `exec` answers a next state: of
domainBind, domainUnbind, domainUnbindComplete, preempt, keyInstall, keyInstallComplete, keyRevoke and
keyRevokeComplete. -/
def Obligations.DomainsAndKeys : Prop :=
  Claims.Binds ∧ Claims.Unbinds ∧ Claims.Preempts ∧ Claims.KeyInstalls ∧ Claims.KeyRevokes

/-! ## Remote stores, Cleat operations and one-step commands -/

namespace Sys2Proof.Claims

/-- The token of the channel by which a core of domain `d` reaches a target is at the core, which has sent nothing in this
cycle and takes part in no collective; no channel and no router entry has failed, and the flit that is next has not failed
fifteen times. -/
structure TokenVisits (s : State) (k target d : Nat) : Prop where
  token : s.tokenAt k (s.route k target).chan = true
  first : (s.core k).sentAt ≠ some s.now
  alone : ∀ c ∈ s.colls, c.core ≠ k
  whole : s.rtBad = [] ∧ s.badChan = [] ∧ (s.core k).fails < 15
  dom   : s.domainOf k = some d

/-- R43, R319: when the token visits a core with a pending x.rst, the compiled schedule puts the next flit that has no place
in it among the domain's landings, whatever had to be sent again; and the next flit that is still to be sent goes out, or
the send fails and is tried again at a later visit. How the schedule is compiled is log entry 65 (deduced). -/
def FlitsSend : Prop :=
  ∀ (s : State) (k j d : Nat) (m : Cmd) (cls : BitVec 2) (cc a b c : BitVec 6) (g1 : BitVec 5),
    m.ins = .xRst cls cc a b c g1 → Alone s k j m → 4 * m.sent < m.n → m.sent ≤ m.placed → (s.ctx k j).saved = false →
    TokenVisits s k (m.arg 2) d →
    let p := if 4 * m.placed < m.n then { m with placed := m.placed + 1 } else m
      ∃ u, exec (.homeFlitSend k) s = .next u ∧ (u.core k).sentAt = some s.now ∧ Still s u k ∧
        (u.dom d).flits = (if 4 * m.placed < m.n then (s.dom d).flits ++ [(k, j, m.seq, 4 * m.placed)]
          else (s.dom d).flits) ∧
        ((cmdsOf u k j = [{ p with sent := m.sent + 1 }] ∧ (u.core k).fails = 0) ∨
          (cmdsOf u k j = [p] ∧ (u.core k).fails = (s.core k).fails + 1))

/-- R43, R60: an x.xchp's trade takes its exchange entry at a token visit, with the first flit of its block, or stops where
either block is poisoned; seven more visits carry the rest of the block. By whose entry its flits are routed is the
model's reading (log entry 43), and so is how the schedule is compiled (log entry 65, deduced). -/
def PoolTradesBegin : Prop :=
  ∀ (s : State) (k j d : Nat) (m : Cmd) (cls : BitVec 2) (cc a : BitVec 6) (slot n1 : BitVec 10),
    m.ins = .xXchp cls cc a slot n1 → Healthy s k → (s.ctx k j).saved = false → TokenVisits s k k d → m.i < m.n →
    let placed := if m.placed < 8 * (m.n - m.i) then m.placed + 1 else m.placed
    let went := fun (u : State) (p : Cmd) => exec (.homeFlitSend k) s = .next u ∧ Still s u k ∧
      ((cmdsOf u k j = [{ p with sent := p.sent + 1 }] ∧ (u.core k).fails = 0) ∨
        (cmdsOf u k j = [p] ∧ (u.core k).fails = (s.core k).fails + 1))
    (Alone s k j m → (s.ctx k j).inTrap = false → m.bad = none →
      let sl := slot.toNat + m.i
      let ps := m.arg 0 % 4096 + m.i
      if ((s.core k).slotSb sl).state = .poisoned ∨ (s.getPool (k / 8) ps).sb.state = .poisoned then
        ∃ u, exec (.homeFlitSend k) s = .next u ∧ Stops s u k j m 0x0E ps ∧ Still s u k
      else ∃ (u : State) (t : Trade),
        went u { m with status := .flight t, hold := none, sent := 0, placed := placed } ∧
        t.near = .s k sl ∧ t.far = .p (k / 8) ps ∧ t.phase = .a ∧ t.bad = false ∧ t.upto = none) ∧
    (∀ t, cmdsOf s k j = [m] → (∀ i, i ≠ j → cmdsOf s k i = []) → j < 4 → m.t < s.now → m.status = .flight t →
      t.phase = .a → m.sent < 8 → m.sent ≤ m.placed → m.src = 0 → m.hold = none →
        ∃ u, went u { m with placed := placed })

/-- A flit of the domain's order, which has not been sent to core `k`: an earlier one of another sender that need not land
before `f`. -/
structure LetsLand (s : State) (k : Nat) (f b : Nat × Nat × Nat × Nat) : Prop where
  sender  : b.1 = f.1 → s.flitSent b = none
  granule : s.sameGranule b f = false
  target  : ∀ q, s.flitSent b = some q → q.arg 2 ≠ k

/-- R41, R42, R246, R319: a flit that has been sent lands at its target before an earlier one of the compiled schedule only
where another core sends that and they share no granule: up to four granules enter the copies that are hidden
and count as written, no visible byte changes, and the command completes with its last granule. Until the earlier of two
flits that share a granule has landed, the later one does not. -/
def FlitsLand : Prop :=
  (∀ (s : State) (k k' j d g : Nat) (m : Cmd) (cls : BitVec 2) (cc a b c : BitVec 6) (g1 : BitVec 5)
    (before after : List (Nat × Nat × Nat × Nat)),
    let f := (k', j, m.seq, g)
    m.ins = .xRst cls cc a b c g1 → Holds s k' j m → s.domainOf k = some d →
    (s.dom d).flits = before ++ f :: after → (∀ b ∈ before, LetsLand s k f b) →
    m.arg 2 = k → (s.core k).lock = none → (s.core k).flips = [] →
    m.data.length = 64 * m.n → m.arg 1 % 64 = 0 → 0x100000 ≤ m.arg 1 → m.arg 1 + 64 * m.n ≤ 0x140000 →
    g < m.n → g < 4 * m.sent → m.poison = none → (s.core k).sp.wf = true →
    let n := min 4 (m.n - g)
    let first := (m.arg 1 - 0x100000) / 64 + g
    ∃ u, exec (.rstLanding k) s = .next u ∧ (u.dom d).flits = before ++ after ∧
      (u.dom d).latest = max (s.dom d).latest s.now ∧
      (∀ q, q < n → first + q ∈ (u.core k).written ∧
        ∀ o, o < 64 → (u.core k).sp.read ((if first + q ∈ (s.core k).sel then 0x100000 else 0x140000) +
          64 * (first + q) + o) = m.data.getD (64 * (g + q) + o) 0) ∧
      (∀ q, q < first ∨ first + n ≤ q → (q ∈ (u.core k).written ↔ q ∈ (s.core k).written)) ∧
      (∀ x, x < 0x140000 → (u.core k).spByte x = (s.core k).spByte x) ∧
      cmdsOf u k' j = (if m.n ≤ m.i + n then (cmdsOf s k' j).filter fun p => p.seq != m.seq
        else (cmdsOf s k' j).map fun p => if p.seq = m.seq then { m with i := m.i + n } else p)) ∧
  (∀ (s : State) (k d : Nat) (b f : Nat × Nat × Nat × Nat), s.domainOf k = some d → (s.dom d).flits = [b, f] →
    s.flitSent b = none → s.sameGranule b f = true → exec (.rstLanding k) s = .refused (.notEnabled "RST_LANDING"))

/-- R250: what an atomic makes of a word, and whether it writes. -/
def atomic (fn : Nat) (old v c : W64) : W64 :=
  match fn with
  | 0 => BitVec.ofNat 64 (old.toNat + v.toNat)
  | 1 => old &&& v
  | 2 => old ||| v
  | 3 => old ^^^ v
  | 4 => BitVec.ofInt 64 (min old.toInt v.toInt)
  | 5 => BitVec.ofInt 64 (max old.toInt v.toInt)
  | 6 => BitVec.ofNat 64 (min old.toNat v.toNat)
  | 7 => BitVec.ofNat 64 (max old.toNat v.toNat)
  | 9 => if old = c then v else old
  | 10 => old
  | _ => v

/-- A word of level D that a command reaches, in a block and a map without errors. -/
structure Word (s : State) (k j addr : Nat) (write : Bool) (p : Phys) : Prop where
  there   : s.translate (s.ctx k j).vi addr write = .ok p
  block   : (s.getBlk p.key p.die p.dfn p.blk).sb.state ≠ .poisoned
  healthy : Healthy s k
  mem     : s.dmem.wf = true ∧ s.hmem.wf = true ∧ (s.core k).sp.wf = true

/-- The bytes of the block outside a run are as they were, and those in it are given. -/
def Patched (s u : State) (p : Phys) (bs : List Byte) : Prop :=
  (∀ o, o < 2048 → o < p.off ∨ p.off + bs.length ≤ o →
    (u.getBlk p.key p.die p.dfn p.blk).byte o = (s.getBlk p.key p.die p.dfn p.blk).byte o) ∧
  ∀ n, n < bs.length → (u.getBlk p.key p.die p.dfn p.blk).byte (p.off + n) = bs.getD n 0

/-- R250, R102: an x.amo performs its function on its word and gives S[D] the old value, where it has a result. -/
def AtomsPerformed : Prop :=
  ∀ (s : State) (k j : Nat) (m : Cmd) (cls : BitVec 2) (mark : Mark) (cc a b c d : BitVec 6) (fn : BitVec 4)
    (res : Bool) (p : Phys),
    m.ins = .xAmo cls mark cc a b c d fn res → fn.toNat < 12 → Alone s k j m → m.n = 1 → m.i = 0 →
    m.arg 0 % 8 = 0 → Word s k j (m.arg 0) (fn != 10) p →
    let old := wordAt s p
    ∃ u, exec (.cleatAtomic k j m.seq) s = .next u ∧ Advances s u k j m ∧
      Patched s u p (leBytes 8 (atomic fn.toNat old (m.args.getD 1 0) (m.args.getD 2 0)).toNat) ∧
      (∀ n, (u.ctx k j).rdS n = if res = true ∧ n = d.toNat then old else (s.ctx k j).rdS n) ∧
      (∀ x, (u.core k).spByte x = (s.core k).spByte x) ∧ u.pmem = s.pmem

/-- R251: an element of an x.amov acts on the word that its index names, with its operand, and its result goes to the
result list. That it goes there in a guard slot too is the model's choice (log entry 108). -/
def AtomVectors : Prop :=
  ∀ (s : State) (k j : Nat) (m : Cmd) (cls : BitVec 2) (mark : Mark) (cc a b c d : BitVec 6) (fn : BitVec 4)
    (c1 : BitVec 5) (p : Phys),
    let addr := m.arg 0 + 8 * leNat ((m.data.drop (4 * m.i)).take 4)
    let v := BitVec.ofNat 64 (leNat ((m.data.drop (128 + 8 * m.i)).take 8))
    let out := m.arg 3 + 8 * m.i
    m.ins = .xAmov cls mark cc a b c d fn true c1 → fn.toNat < 12 → fn ≠ 9 → Alone s k j m → m.i < m.n →
    m.arg 0 % 8 = 0 → Word s k j addr (fn != 10) p → (s.core k).lock = none → out % 8 = 0 → out + 8 ≤ 0x100000 →
    ((s.core k).slotSb (out / 2048)).state ≠ .poisoned →
    let old := wordAt s p
    ∃ u, exec (.cleatAtomic k j m.seq) s = .next u ∧ Advances s u k j m ∧
      Patched s u p (leBytes 8 (atomic fn.toNat old v 0).toNat) ∧
      (∀ n, n < 8 → (u.core k).spByte (out + n) = old.extractLsb' (8 * n) 8) ∧
      (∀ x, x < 0x140000 → x < out ∨ out + 8 ≤ x → (u.core k).spByte x = (s.core k).spByte x) ∧
      (∀ n, (u.ctx k j).rdS n = (s.ctx k j).rdS n)

/-- R252: an element of an x.redm: an addition rounded once, or the smaller or larger of the two. -/
def reduced (op fmt old x : Nat) : Nat :=
  if fmt = 5 then
    (BitVec.ofInt 32 (match op with
      | 0 => signed 32 old + signed 32 x
      | 1 => min (signed 32 old) (signed 32 x)
      | _ => max (signed 32 old) (signed 32 x))).toNat
  else
    let f : Fmt := if fmt = 0 then .f32 else .bf16
    match op with
    | 0 => f.round .rne (sumVals .rne [f.val old, f.val x])
    | 1 => smaller f old x
    | _ => larger f old x

/-- R252: an x.redm reduces its element into level D. -/
def ReductionsPerformed : Prop :=
  ∀ (s : State) (k j : Nat) (m : Cmd) (cls : BitVec 2) (mark : Mark) (cc a b : BitVec 6) (op : BitVec 2)
    (fmt : BitVec 3) (n1 : BitVec 10) (p : Phys),
    let w := if fmt = 1 then 2 else 4
    m.ins = .xRedm cls mark cc a b op fmt n1 → op ≠ 3 → (fmt = 0 ∨ fmt = 1 ∨ fmt = 5) → Alone s k j m → m.i < m.n →
    m.arg 0 % w = 0 → Word s k j (m.arg 0 + w * m.i) true p →
    let old := leNat ((List.range w).map fun n => (s.getBlk p.key p.die p.dfn p.blk).byte (p.off + n))
    let x := leNat ((m.data.drop (w * m.i)).take w)
    ∃ u, exec (.cleatReduce k j m.seq) s = .next u ∧ Advances s u k j m ∧
      Patched s u p (leBytes w (reduced op.toNat fmt.toNat old x)) ∧
      (∀ n, (u.ctx k j).rdS n = (s.ctx k j).rdS n) ∧ (∀ y, (u.core k).spByte y = (s.core k).spByte y)

/-- R103, R253: the compare-and-arm step arms the monitor on an equal word and counts as fired on another; nothing is
written. -/
def MonitorsArm : Prop :=
  ∀ (s : State) (k j : Nat) (m : Cmd) (cls : BitVec 2) (mark : Mark) (cc a b : BitVec 6) (p : Phys),
    m.ins = .xMon cls mark cc a b → Alone s k j m → m.n = 1 → m.i = 0 → m.arg 0 % 8 = 0 →
    Word s k j (m.arg 0) false p → (s.ctx k j).monSeq = m.seq →
      ∃ u, exec (.monitorArm k j m.seq) s = .next u ∧ Advances s u k j m ∧ Still s u k ∧
        (u.ctx k j).mon = if wordAt s p = m.args.getD 1 0
          then .armed (p.die * 2 ^ 41 + p.dfn * 2 ^ 21 + p.blk * 2048 + p.off) else .fired

/-- A one-step command acts: it completes, with a register or none, and no byte of a memory changes. -/
def Answers (s : State) (k j : Nat) (m : Cmd) (r : Option (Nat × W64)) : Prop :=
  ∃ u, exec (.placementCommandComplete k j m.seq) s = .next u ∧ Advances s u k j m ∧ Still s u k ∧
    ∀ n, (u.ctx k j).rdS n = match r with
      | some (d, v) => if n = d then v else (s.ctx k j).rdS n
      | none => (s.ctx k j).rdS n

/-- No TLB entry covers an address, so that its page is walked (R73: the device may drop an entry at any time). -/
def Uncached (s : State) (k j addr : Nat) : Prop := s.tlbFind (s.ctx k j).vi addr = none

/-- R258: a probe of a range within one 64 KiB unit: where the unit translates it completes, and gives all ones in its
non-faulting form; where it does not, that form gives the reason and the offset, and the other one stops with 0x07. -/
def Probes : Prop :=
  ∀ (s : State) (k j : Nat) (m : Cmd) (cc a b c : BitVec 6) (w nf : Bool),
    m.ins = .xProbe cc a b c w nf → Alone s k j m → Healthy s k → m.sub = 0 → m.n = 1 → m.i = 0 → m.arg 1 ≠ 0 →
    m.arg 0 / 65536 = (m.arg 0 + m.arg 1 - 1) / 65536 → (s.ctx k j).inTrap = false → m.bad = none →
    Uncached s k j (m.arg 0) →
    let code := fun f : XFail => match f with
      | .unmapped => 1
      | .notWritable => 2
      | .hostOwned => 3
      | .framePoisoned => 4
    (∀ p, s.translate (s.ctx k j).vi (m.arg 0) w = .ok p →
      Answers s k j m (if nf = true then some (c.toNat, BitVec.allOnes 64) else none)) ∧
    (∀ f, s.translate (s.ctx k j).vi (m.arg 0) w = .error f →
      if nf = true then Answers s k j m (some (c.toNat, BitVec.ofNat 64 (code f * 2 ^ 61)))
      else ∃ u, exec (.placementCommandComplete k j m.seq) s = .next u ∧ Stops s u k j m 7 (m.arg 0) ∧ Still s u k)

/-- R86, R259: a discard of one block leaves it reading zeros, and no other block of level D changes. -/
def Discards : Prop :=
  ∀ (s : State) (k j : Nat) (m : Cmd) (cls : BitVec 2) (cc a b : BitVec 6) (p : Phys),
    m.ins = .xDisc cls cc a b → Alone s k j m → Healthy s k → m.sub = 0 → m.parts = [] → m.n = 1 → m.i = 0 → m.arg 1 = 2048 →
    m.arg 0 % 2048 = 0 → s.translate (s.ctx k j).vi (m.arg 0) true = .ok p → s.hmem.wf = true →
    Uncached s k j (m.arg 0) →
      ∃ u, exec (.placementCommandComplete k j m.seq) s = .next u ∧ Advances s u k j m ∧
        (∀ o, o < 2048 → (u.getBlk p.key p.die p.dfn p.blk).byte o = 0) ∧
        (∀ n, n ≠ (let q := s.place p.die p.dfn p.blk; blkKey p.die q.1 q.2 p.blk) →
          u.sbAt n = s.sbAt n) ∧
        u.dmem = s.dmem ∧ u.pmem = s.pmem ∧ (∀ x, (u.core k).spByte x = (s.core k).spByte x)

/-- R84, R260: x.hint sets the hint of a stable frame and, with the privilege to pin, its pin; x.hot reads a frame's
count, tier, state, pin and hint, those of a poisoned frame too (R75, R301), and 0 where the page does not translate. That the end of a pin needs no privilege
is log entry 60 (deduced). -/
def HintsAndHeat : Prop :=
  (∀ (s : State) (k j : Nat) (m : Cmd) (cc a b : BitVec 6) (tier pin : BitVec 2) (p : Phys),
    m.ins = .xHint cc a b tier pin → Alone s k j m → Healthy s k → m.n = 1 → m.i = 0 → m.arg 1 ≠ 0 →
    m.arg 0 / 65536 = (m.arg 0 + m.arg 1 - 1) / 65536 →
    s.translate (s.ctx k j).vi (m.arg 0) false = .ok p → Uncached s k j (m.arg 0) →
    let e := s.pent p.die p.dfn
    let may := m.sub = 1 ∨ (s.die p.die).upin = true
    ∃ u, exec (.placementCommandComplete k j m.seq) s = .next u ∧ Advances s u k j m ∧ Still s u k ∧
      (u.pent p.die p.dfn).hint = tier.toNat ∧ (u.pent p.die p.dfn).tier = e.tier ∧
      (u.pent p.die p.dfn).loc = e.loc ∧ (u.pent p.die p.dfn).state = e.state ∧
      ((u.pent p.die p.dfn).pinned = true ↔
        (pin = 1 ∧ may) ∨ (pin ≠ 2 ∧ e.pinned = true)) ∧
      (∀ d f, (d, f) ≠ (p.die, p.dfn) → u.pent d f = s.pent d f)) ∧
  (∀ (s : State) (k j : Nat) (m : Cmd) (cc a b : BitVec 6), m.ins = .xHot cc a b → Alone s k j m → Healthy s k →
    m.n = 1 → m.i = 0 →
    Uncached s k j (m.arg 1) →
    let addr := m.arg 1
    let word := fun (die dfn : Nat) =>
      let e := s.pent die dfn
      BitVec.ofNat 64 (AMap.get (s.die die).hot dfn 0 + e.tier * 2 ^ 8 + e.state * 2 ^ 10 +
        (if e.pinned = true then 2 ^ 13 else 0) + e.hint * 2 ^ 14)
    (∀ f, f ≠ .framePoisoned → s.translate (s.ctx k j).vi addr false = .error f → Answers s k j m (some (a.toNat, 0))) ∧
    ((∀ l, s.leafOf (s.ctx k j).vi addr = some l → l.leaf.extractLsb' 6 2 = 0) →
      (∀ p, s.translate (s.ctx k j).vi addr false = .ok p → Answers s k j m (some (a.toNat, word p.die p.dfn))) ∧
      (∀ l, s.translate (s.ctx k j).vi addr false = .error .framePoisoned → s.leafOf (s.ctx k j).vi addr = some l →
        Answers s k j m (some (a.toNat, word (addr / 2 ^ 50 % 4) (l.dfnOf addr))))))

/-- R247, R101: x.phq gives the arrivals at the pending barrier, the latched request and the phase counter; a fence with
nothing before it completes, at the host scope once the host has accepted every write. -/
def QueriesAndFences : Prop :=
  ∀ (s : State) (k j : Nat) (m : Cmd), Alone s k j m → (s.core k).flips = [] →
    (∀ cc a d, m.ins = .xPhq cc a → m.n = 0 → m.i = 0 → (s.ctx k j).dom = some d →
      Answers s k j m (some (a.toNat, BitVec.ofNat 64 (
        ((s.members d).filter fun q => q.2.2.arrived).length % 8192 +
        (if (s.dom d).pend = true then 2 ^ 13 else 0) + (s.dom d).ctr.toNat % 2 ^ 32 * 2 ^ 32)))) ∧
    (∀ cc kind scope, m.ins = .xFence cc kind scope → m.n = 0 → m.i = 0 →
      if kind = 2 ∨ scope ≠ 5 ∨ s.unacc = [] then Answers s k j m none
      else exec (.placementCommandComplete k j m.seq) s = .refused (.notEnabled "PLACEMENT_COMMAND_COMPLETE"))

end Sys2Proof.Claims

/-- R41 to R43, R102, R103, R246, R250 to R253: remote stores on their way, and the Cleat's operations. -/
def Obligations.RemoteStoresAndCleat : Prop :=
  Claims.FlitsSend ∧ Claims.PoolTradesBegin ∧ Claims.FlitsLand ∧ Claims.AtomsPerformed ∧ Claims.AtomVectors ∧ Claims.ReductionsPerformed ∧ Claims.MonitorsArm

/-- R84, R86, R101, R247, R258 to R260: probes, discards, hints, queries and fences complete. -/
def Obligations.OneStepCommands : Prop :=
  Claims.Probes ∧ Claims.Discards ∧ Claims.HintsAndHeat ∧ Claims.QueriesAndFences

/-! ## The Affineur -/

namespace Sys2Proof.Claims

/-- R79, R80, R81: a policy tick that finds Affineur and swap slots ready starts the swap of its pair where the hot count
exceeds the cold one by more than the margin; otherwise nothing moves. -/
def PolicyTicks : Prop :=
  ∀ (s : State) (d : Nat),
    let x := s.die d
    x.ticked < s.now → s.now % 2 ^ x.tick = 0 → (∀ e ∈ x.map, e.2.bad0 = []) →
    (x.en = false → exec (.affPolicyTick d) s = .next (s.modDie d fun x => { x with ticked := s.now })) ∧
    (∀ k ch hot cc loc, x.en = true → x.drain = false → x.freeSlot = some k → x.hotFrame = some (ch, hot) →
      x.coldLoc d = some (cc, loc) →
      ∃ t, exec (.affPolicyTick d) s = .next t ∧ (t.die d).ticked = s.now ∧ t.dmem = s.dmem ∧ t.dsb = s.dsb ∧
        if cc + x.margin < ch then
          (∃ w, AMap.find? (t.die d).swaps k = some w ∧ w.hot = hot ∧ w.tierH = (s.pent d hot).tier ∧
            w.locH = (s.pent d hot).loc ∧ w.tierC = 0 ∧ w.locC = loc ∧ w.p = 0 ∧ w.back = false ∧
            (∀ c, w.cold = some c → (t.pent d c).state = 2 ∧ (t.pent d c).slot = k)) ∧
          (t.pent d hot).state = 2 ∧ (t.pent d hot).slot = k
        else (t.die d).swaps = x.swaps ∧ (t.die d).map = x.map)

/-- R81: the pair that the policy chooses: the stable, unpinned frame of tier C or F with the largest effective count (a
hint of N counts 255), the lowest number of equal ones; the N location with the smallest. -/
def PolicyChoices : Prop :=
  ∀ (x : Die) (d : Nat),
    let effective := fun (f : Nat × PEntry) => if f.2.hint = 1 then 255 else AMap.get x.hot f.1 0
    let candidate := fun (f : Nat × PEntry) => f ∈ x.map ∧ f.2.state = 1 ∧ f.2.pinned = false ∧ f.1 ∉ x.barred ∧
      (f.2.tier = 1 ∨ f.2.tier = 2)
    (∀ c n, x.hotFrame = some (c, n) → (∃ f, candidate f ∧ f.1 = n ∧ effective f = c) ∧
      ∀ f, candidate f → effective f < c ∨ (effective f = c ∧ n ≤ f.1)) ∧
    (x.hotFrame = none → ∀ f, ¬ candidate f) ∧
    (∀ c l, x.coldLoc d = some (c, l) → x.coldCount d l = some c ∧
      ∀ m e, m < x.nFrames → x.coldCount d m = some e → c < e ∨ (c = e ∧ l ≤ m))

/-- R79, R305: a decay tick halves every hotness counter, and frames that a roll-back barred take part again. -/
def DecayTicks : Prop :=
  ∀ (s : State) (d : Nat),
    let x := s.die d
    x.decayed < s.now → s.now % 2 ^ x.decay = 0 →
      ∃ t, exec (.affDecayTick d) s = .next t ∧ (∀ f, AMap.get (t.die d).hot f 0 = AMap.get x.hot f 0 / 2) ∧
        { t.die d with hot := x.hot, barred := x.barred, decayed := x.decayed } = x ∧ (t.die d).barred = [] ∧
        (∀ e, e ≠ d → t.die e = s.die e) ∧ t.dmem = s.dmem

/-- A swap of two frames under way in tiers N and C, with nothing that disturbs it. -/
structure Swapping (s : State) (d k : Nat) (w : Swap) (c : Nat) : Prop where
  slot  : AMap.find? (s.die d).swaps k = some w
  cold  : w.cold = some c ∧ c ≠ w.hot
  tiers : w.tierH < 2 ∧ w.tierC < 2 ∧ (w.tierH, w.locH) ≠ (w.tierC, w.locC) ∧ w.locH < 2 ^ 31 ∧ w.locC < 2 ^ 31
  state : (s.pent d w.hot).state = 2 ∧ (s.pent d c).state = 2 ∧ (s.pent d w.hot).slot = k ∧ (s.pent d c).slot = k
  calm  : s.entries = [] ∧ s.mhard = [] ∧ s.mside = [] ∧ s.mflips = [] ∧ (s.die d).dead = [] ∧ (s.die d).retired = []
  mem   : s.dmem.wf = true
  quiet : (s.queue 0 1).en = false ∨ (s.queue 0 1).base.getLsbD 0 = true

/-- R82, R85: a block trade moves the progress pointer by one, up in a swap and down in a roll-back; every byte of both
frames that has a value reads as before. After the last both entries are stable, in each other's places or, after a
roll-back, in their own, and the slot is free. -/
def SwapsKeepContents : Prop :=
  ∀ (s : State) (d k c : Nat) (w : Swap), Swapping s d k w c → (w.back = false → w.p < 1024) →
    (w.back = true → 0 < w.p ∧ w.p ≤ 1024) →
      ∃ t, exec (.affBlockTrade d k) s = .next t ∧
        (∀ key f b o, (f = w.hot ∨ f = c) → b < 1024 → o < 2048 →
          (s.getBlk key d f b).sb.stale = none → (t.getBlk key d f b).byte o = (s.getBlk key d f b).byte o) ∧
        (w.back = false → w.p < 1023 → AMap.find? (t.die d).swaps k = some { w with p := w.p + 1 }) ∧
        (w.back = true → 1 < w.p → AMap.find? (t.die d).swaps k = some { w with p := w.p - 1 }) ∧
        (w.back = false → w.p = 1023 → AMap.find? (t.die d).swaps k = none ∧
          ((t.pent d w.hot).state, (t.pent d w.hot).tier, (t.pent d w.hot).loc) = (1, w.tierC, w.locC) ∧
          ((t.pent d c).state, (t.pent d c).tier, (t.pent d c).loc) = (1, w.tierH, w.locH) ∧
          AMap.get (t.die d).hot w.hot 0 = 0 ∧ AMap.get (t.die d).hot c 0 = 0) ∧
        (w.back = true → w.p = 1 → AMap.find? (t.die d).swaps k = none ∧
          ((t.pent d w.hot).state, (t.pent d w.hot).tier, (t.pent d w.hot).loc) = (1, w.tierH, w.locH) ∧
          ((t.pent d c).state, (t.pent d c).tier, (t.pent d c).loc) = (1, w.tierC, w.locC) ∧
          w.hot ∈ (t.die d).barred ∧ c ∈ (t.die d).barred)

/-- R85, R274: an abort turns the swaps of its mask that have traded a block into roll-backs from where they stand, and
leaves the others alone; without an open host link it does nothing. -/
def SwapsAbort : Prop :=
  ∀ (s : State) (d : Nat) (mask : BitVec 8), d < 4 → (∀ k w, AMap.find? (s.die d).swaps k = some w → 0 < w.p) →
    (s.stage ≠ 2 → exec (.affAbort d mask) s = .next s) ∧
    (s.stage = 2 → ∃ t, exec (.affAbort d mask) s = .next t ∧ (t.die d).map = (s.die d).map ∧ t.dmem = s.dmem ∧
      ∀ k w, AMap.find? (s.die d).swaps k = some w → AMap.find? (t.die d).swaps k =
        some (if mask.getLsbD k = true ∧ w.back = false then { w with back := true, why := 0, pAt := w.p } else w))

/-- R86: the sweep of a revived frame ends its revive mark, with a side-band write for every other block. -/
def RevivesSweep : Prop :=
  ∀ (s : State) (d f : Nat), (s.pent d f).revive = true → (s.pent d f).state ≠ 2 →
    ∃ t, exec (.affReviveSweep d f) s = .next t ∧ (t.pent d f).revive = false ∧
      (t.pent d f).state = (s.pent d f).state ∧ (t.pent d f).loc = (s.pent d f).loc ∧
      (t.die d).sbWr = (s.die d).sbWr + 1023 ∧ (∀ g, g ≠ f → t.pent d g = s.pent d g) ∧ t.dsb = s.dsb ∧ t.dmem = s.dmem

/-- R76, R274, R306, R308: with the host link open the map port accepts three transitions: unmapped to stable at a spare
location (on its own die's root port: log entry 74, deduced; poisoned where that is lost: log entry 75, deduced) or
in tier H; discarded to unmapped, without pin and hint (log entry 80, deduced); and the end of a pin. Every
other write is refused and changes only the mark of a frame that became stable again, which refuses one unmap (log
entry 80). -/
def MapPort : Prop :=
  ∀ (s : State) (d : Nat), d < 4 → (s.die d).mpWait = [] → s.entries = [] →
    let f := ((s.die d).mpDfn.extractLsb' 0 20).toNat
    let v := (s.die d).mpEntry
    let e := s.pent d f
    let tier := (v.extractLsb' 0 2).toNat
    let loc := (v.extractLsb' 2 31).toNat
    let state := (v.extractLsb' 33 3).toNat
    let lost := tier = 2 ∧ (s.die (loc / 2 ^ 29)).lostRp = true
    (s.stage ≠ 2 → exec (.mapPortGo d) s = .next s) ∧
    (s.stage = 2 → e.bad0 = [] → (lost → ∀ v, (s.queue v 1).en = false) →
    ∃ t, exec (.mapPortGo d) s = .next t ∧ (∀ g, g ≠ f → t.pent d g = s.pent d g) ∧
      (if e.state = 0 ∧ state = 1 ∧ (tier = 3 ∨ (s.die d).spare d tier loc = true) then
        (t.die d).mpRef = false ∧ (lost → (t.pent d f).state = 4) ∧
          (¬ lost → t.pent d f = { tier := tier, loc := loc, state := 1 })
      else if e.state = 3 ∧ state = 0 then
        (t.die d).mpRef = false ∧ t.pent d f = {} ∧
          ∀ b, b < 1024 → t.sbAt (blkKey d e.tier e.loc b) = farSb
      else if e.state = 1 ∧ v.getLsbD 36 = false then
        if e.again = true ∧ state = 0 then
          (t.die d).mpRef = true ∧ t.pent d f = { e with again := false, bad0 := [], bad1 := [] }
        else (t.die d).mpRef = false ∧ t.pent d f = { e with pinned := false, again := false, bad0 := [], bad1 := [] }
      else (t.die d).mpRef = true ∧ t.pent d f = e))

/-- R306, R311 to R313: the Bloom period (its length is log entry 76, deduced); the first failed channel of a group is
retired and the die drains, the second is not; as a cycle ends with no frame left in tier N a draining die re-interleaves
(that moment, and a second retirement: log entry 79, deduced); a lost root port poisons the stable frames on it. -/
def MediaFailures : Prop :=
  ∀ (s : State) (d : Nat), d < 4 →
    ((s.die d).bloomAt + bloomPeriod ≤ s.now →
      exec (.bloomClear d) s = .next (s.modDie d fun x => { x with bloom := [], bloomAt := s.now, repeats := [] })) ∧
    (11880000000000 ≤ bloomPeriod ∧ bloomPeriod ≤ 168 * 11880000000000) ∧
    (∀ g c, g < 4 → c < 16 → (g, c) ∉ (s.die d).retired → (g, c) ∉ (s.die d).dead →
      ∃ t, exec (.channelRetire d g c) s = .next t ∧
        ((∃ h, (g, h) ∈ (s.die d).retired) → (t.die d).retired = (s.die d).retired ∧
          (t.die d).dead = (s.die d).dead ++ [(g, c)] ∧ (t.die d).rehash = (s.die d).rehash) ∧
        ((¬ ∃ h, (g, h) ∈ (s.die d).retired) → (t.die d).retired = (s.die d).retired ++ [(g, c)] ∧
          (t.die d).drain = true ∧ (t.die d).rehash = (s.die d).rehash ∧ (t.die d).out = (s.die d).out)) ∧
    ((s.die d).drain = true → (s.die d).inN = [] → (∀ e ∈ (s.die d).map, e.2.bad0 = []) →
      (∀ v, (s.queue v 1).en = false) →
        (s.drainAll.die d).rehash = true ∧ (s.drainAll.die d).drain = false ∧
          (s.drainAll.die d).out = (s.die d).retired) ∧
    ((s.die d).lostRp = false → (∀ v, (s.queue v 1).en = false) →
      ∃ t, exec (.rootPortLost d) s = .next t ∧ (t.die d).lostRp = true ∧
        ∀ x f, x < 4 → (AMap.sorted (s.die x).map) →
          if (s.pent x f).tier = 2 ∧ (s.pent x f).loc / 2 ^ 29 = d ∧
              ((s.pent x f).state = 1 ∨ (s.pent x f).state = 3) ∧ (AMap.find? (s.die x).map f).isSome = true
          then (t.pent x f).state = 4 else t.pent x f = s.pent x f)

/-- R307: at the end of its hold-down a refused host may ask for the page again; nothing else changes. Until then its
requests for it are ignored, also once that claim has cleared. -/
def HoldDownsEnd : Prop :=
  (∀ (s : State) (d n : Nat) (h : Nat × Nat × Nat), h ∈ (s.die d).downs → h.1 = n → h.2.2 ≤ s.now →
    ∃ t, exec (.claimHolddownExpire d n) s = .next t ∧
      (∀ r, r ∈ (t.die d).downs ↔ r ∈ (s.die d).downs ∧ (r.1 ≠ n ∨ s.now < r.2.2)) ∧
      { t.die d with downs := (s.die d).downs } = s.die d ∧ (∀ e, e ≠ d → t.die e = s.die e) ∧ t.cores = s.cores) ∧
  (∀ (s : State) (vi addr : Nat) (l : TlbEnt) (h : Nat × Nat × Nat), s.leafOf vi addr = some l →
    h ∈ (s.die (addr / 2 ^ 50 % 4)).downs →
    (let u := (l.leaf.extractLsb' 16 25).toNat + (addr % 2 ^ 50 / 2 ^ 16 - l.unit)
     h.1 ≤ u ∧ u < h.1 + h.2.1) →
      s.hostClaim vi addr = s)

end Sys2Proof.Claims

/-- R76, R79 to R82, R85, R86, R305 to R307, R311 to R313: ticks, frame swaps, the map port and media failures. -/
def Obligations.AffineurEvents : Prop :=
  Claims.PolicyTicks ∧ Claims.PolicyChoices ∧ Claims.DecayTicks ∧ Claims.SwapsKeepContents ∧ Claims.SwapsAbort ∧
    Claims.RevivesSweep ∧ Claims.MapPort ∧ Claims.MediaFailures ∧ Claims.HoldDownsEnd

/-! ## The host interface -/

namespace Sys2Proof.Claims

/-- R266: a record of an enabled queue with space goes to the entry that the tail names, here in host memory, and the tail
moves on; a full error queue counts the loss, and a full completion or event queue keeps the record waiting. -/
def ReportRecords : Prop :=
  ∀ (s : State) (v q : Nat) (ws : List W64),
    let x := s.queue v q
    let size := if q = 1 then 256 else 32
    let addr := (x.base.extractLsb' 6 58).toNat * 64 + x.tail * size
    x.en = true →
    (x.full = false → x.base.getLsbD 0 = true → 8 * ws.length ≤ size → s.hmem.wf = true →
      let t := s.record v q ws
      (∀ n, n < size → t.hmem.read (addr + n) = if n < 8 * ws.length
        then (ws.getD (n / 8) 0).extractLsb' (8 * (n % 8)) 8 else 0) ∧
      (∀ a, a < addr ∨ addr + size ≤ a → t.hmem.read a = s.hmem.read a) ∧
      (t.queue v q).tail = (x.tail + 1) % 2 ^ x.lg ∧ t.cores = s.cores ∧ t.dmem = s.dmem) ∧
    (x.full = true → q = 1 → s.record v q ws = s.setQueue v q { x with lost := min 65535 (x.lost + 1) }) ∧
    (x.full = true → q ≠ 1 → s.record v q ws = s.setQueue v q { x with waiting := x.waiting ++ [ws] })

/-- R264, R265, R267: stream registers, while the host link is open. That a write of en over en leaves head and tail is log
entry 69 (deduced). -/
def StreamRegisters : Prop :=
  ∀ (s : State) (vi st : Nat) (v : W64), s.stage = 2 →
    let x := s.stream vi st
    let lg := (v.extractLsb' 0 5).toNat
    let put := fun y : Stream => Host.Outcome.next (s.modVi vi fun w => { w with streams := AMap.set w.streams st y })
    let prio := (v.extractLsb' 8 3).toNat
    let size := if x.en = false ∧ 2 ≤ lg ∧ lg ≤ 16 then lg else x.lg
    exec (.sqTailWrite vi st v) s = put { x with tail := (v.extractLsb' 0 16).toNat % 2 ^ x.lg } ∧
    (v.getLsbD 16 = true → exec (.sqEnable vi st v) s =
      put (if x.en = true then { x with prio := prio }
        else { x with lg := size, prio := prio, en := true, head := 0, tail := 0 })) ∧
    (v.getLsbD 16 = false → exec (.sqDisable vi st v) s = put { x with lg := size, prio := prio, en := false })

/-- R87, R264, R266, R268, R270, R277: the other registers whose writes are events, while the host link is open. That
ev.grant records the sequence number is log entry 83 (deduced). -/
def EventRegisters : Prop :=
  ∀ (s : State) (vi : Nat) (v : W64), s.stage = 2 →
    (∀ q, (s.queue vi q).waiting = [] → exec (.queueHeadWrite vi q v) s = .next (s.setQueue vi q
      { s.queue vi q with head := (v.extractLsb' 0 16).toNat % 2 ^ (s.queue vi q).lg })) ∧
    exec (.evGrant vi v) s = .next (s.modVi vi fun x => { x with granted := x.granted ++ [(v.extractLsb' 0 32).toNat] }) ∧
    (∀ w half, vi = 0 → w < 64 → half < 2 → ∃ t, exec (.grantWrite vi w half v) s = .next t ∧
      (∀ n, n < 128 → (t.vi w).grant.getLsbD n =
        if n / 64 = half then v.getLsbD (n % 64) || ((s.vi w).grant.getLsbD n &&
          (List.range 16).any fun d => (s.dom d).owner == w && (s.dom d).clusters.getLsbD n)
        else (s.vi w).grant.getLsbD n) ∧
      (∀ u, u ≠ w → t.vi u = s.vi u) ∧ t.cores = s.cores ∧ t.dmem = s.dmem) ∧
    (∀ w half, vi ≠ 0 → exec (.grantWrite vi w half v) s = .next s) ∧
    (∀ g, vi = 0 → g < 256 → exec (.sgEntWrite vi g v) s = .next { s with
      sg := AMap.set s.sg g ((v.extractLsb' 0 49).zeroExtend 64), sgLost := AMap.erase s.sgLost g }) ∧
    (∀ g, vi ≠ 0 → exec (.sgEntWrite vi g v) s = .next s) ∧
    exec (.tlbInvalidate vi) s = .next (s.modVi vi fun x =>
      if x.busy = true then x else { x with busy := true, goA := x.invA, goL := x.invL })

/-- R73, R268, R307: an invalidation completes once no trade of the interface at an address that it touches is in flight
and the host has accepted every write: no TLB entry of the range of its go is left, no claim on its pages, and busy is
clear; every other entry stays. The event records of the pages released are log entry 83. -/
def Invalidations : Prop :=
  ∀ (s : State) (vi : Nat), (s.vi vi).busy = true → s.unacc = [] →
    (∀ p ∈ s.ctxList, p.2.2.vi = vi → ∀ m ∈ p.2.2.cmds, ∀ t a, m.status = .flight t → t.far = .d a →
      s.invTouches vi a = false) →
    let len := (s.vi vi).goL.toNat
    let lo := ((s.vi vi).goA.extractLsb' 16 36).toNat
    let covered := fun (d unit n : Nat) => len = 0 ∨ (d * 2 ^ 34 + unit < lo + len ∧ lo < d * 2 ^ 34 + unit + n)
    ∃ t, exec (.tlbInvalidateComplete vi) s = .next t ∧ (t.vi vi).busy = false ∧
      (∀ d e, e ∈ (t.die d).tlb ↔ e ∈ (s.die d).tlb ∧ ¬ (e.vi = vi ∧ covered d e.unit e.n)) ∧
      (∀ d c, c ∈ (t.die d).claims ↔ c ∈ (s.die d).claims ∧ ¬ (c.vi = vi ∧ covered d c.unit c.n)) ∧
      ((s.queue vi 2).en = false → t.cores = s.cores ∧ t.dmem = s.dmem)

/-- R273: a router swap is requested while none is under way, a mask of 0 cancels it and lets the held barriers go, and it is
taken once every named domain is held, saved or without members: the shadow becomes the active table, with the entries
that cannot be read (R320). -/
def RouterSwaps : Prop :=
  ∀ (s : State) (mask : BitVec 16), s.stage = 2 →
    (s.rtMask = none → mask ≠ 0 → exec (.rtSwap mask) s = .next { s with rtMask := some mask }) ∧
    (s.rtMask ≠ none → exec (.rtSwap mask) s = .next s) ∧
    (s.rtMask = none → exec .rtSwapCancel s = .next s) ∧
    (∀ m, s.rtMask = some m → ∃ t, exec .rtSwapCancel s = .next t ∧ t.rtMask = none ∧ t.rtAct = s.rtAct ∧
      ∀ d, t.dom d = if m.getLsbD d = true then { s.dom d with heldRt := none } else s.dom d) ∧
    (∀ m, s.rtMask = some m → s.colls = [] →
      (∀ d, d < 16 → m.getLsbD d = true → (s.dom d).heldRt ≠ none ∨ (s.dom d).saved = true ∨ s.members d = []) →
      ∃ t, exec .rtSwapTake s = .next t ∧ t.rtMask = none ∧ t.rtAct = s.rtSha ∧ t.rtSha = s.rtSha ∧
        t.rtBad = s.rtShaBad ∧
        (∀ d, d < 16 → m.getLsbD d = true → (t.dom d).heldRt = none ∧ (t.dom d).ctr = (s.dom d).ctr ∧
          ((s.dom d).heldRt ≠ none → s.now ≤ (t.dom d).latest)) ∧
        (s.rtShaBad = [] → t.cores = s.cores))

/-- R274, R275: the measurement starts at zero and is extended with SHA-512 (log entry 13); the mailbox operations, with
the host link open or in recovery: a quote holds the measurement and the length of the log, the log and the certificate
chain come in parts from an offset, and an exchange with a key on the curve sets the transport key; the error bit shows
another one. -/
def Mailboxes : Prop :=
  ∀ (s : State) (vi : Nat),
    let v := s.vi vi
    let off := leNat (v.buf.bytes 0 8)
    let part := fun (text : List Byte) (t : State) =>
      let n := min 1536 (text.length - off)
      (t.vi vi).mbErr = false ∧ (t.vi vi).buf.bytes 0 8 = leBytes 8 n ∧ (t.vi vi).buf.bytes 8 n = (text.drop off).take 1536
    let log := (List.range (64 * s.measured)).map fun i => Config.measurementLog.getD i 0
    s.stage = 2 ∨ s.stage = 3 → v.buf.wf = true →
    (measuredAfter 0 = List.replicate 64 0 ∧ ∀ n b, b < 64 →
      (measuredAfter (n + 1)).getD b 0 = (Config.sha512 (measuredAfter n ++ digest n)).getD b 0) ∧
    (∃ t, exec (.mbQuote vi) s = .next t ∧ (t.vi vi).mbErr = false ∧
      (t.vi vi).buf.bytes 0 64 = measuredAfter s.measured ∧
      (t.vi vi).buf.bytes 64 8 = leBytes 8 (64 * s.measured)) ∧
    (∃ t, exec (.mbLog vi) s = .next t ∧ part log t) ∧
    (∃ t, exec (.mbCertificate vi) s = .next t ∧ part Config.certificateChain t) ∧
    (∃ t, exec (.mbTransport vi) s = .next t ∧
      if Config.onCurve (v.buf.bytes 0 133) = true then (t.vi vi).tkey ≠ none ∧ (t.vi vi).mbErr = false ∧
        (t.vi vi).buf.bytes 0 1 = [0x04]
      else (t.vi vi).tkey = v.tkey ∧ (t.vi vi).mbErr = true)

/-- R264: where the registers stand in an interface's view; a write beyond the list, or of the privileged view by another
interface, changes nothing. What a write at an offset does that is no multiple of 8 is log entry 85 (deduced). -/
def RegisterMap : Prop :=
  ∀ (s : State) (vi n m : Nat) (v : W64), vi < 64 → s.stage = 2 →
    let write := fun off => exec (.registerWrite vi off v) s
    (n < 8 → write (0x100 + 32 * n + 16) = exec (.sqTailWrite vi n v) s ∧
      write (0x100 + 32 * n + 8) = exec (if v.getLsbD 16 then .sqEnable vi n v else .sqDisable vi n v) s) ∧
    (n < 3 → write (0x200 + 32 * n + 24) = exec (.queueHeadWrite vi n v) s) ∧
    write 0x260 = exec (.evGrant vi v) s ∧
    (n < 4 → write (0x300 + 8 * n) = .next (s.modVi vi fun x => { x with
      root := AMap.set x.root n (v &&& BitVec.ofNat 64 0x1FFFFFFC001) })) ∧
    write 0x340 = .next (s.modVi vi fun x => { x with invA := v &&& BitVec.ofNat 64 0xFFFFFFFFF0000 }) ∧
    write 0x348 = .next (s.modVi vi fun x => { x with invL := v }) ∧
    write 0x350 = (if v.getLsbD 0 then exec (.tlbInvalidate vi) s else .next s) ∧
    write 0x600 = .next (s.modVi vi fun x => { x with ap := v &&& BitVec.ofNat 64 0xFFFF000000001 }) ∧
    (v.extractLsb' 0 8 = 1 → write 0x800 = exec (.mbQuote vi) s) ∧
    (v.extractLsb' 0 8 = 2 → write 0x800 = exec (.mbLog vi) s) ∧
    (v.extractLsb' 0 8 = 3 → write 0x800 = exec (.mbCertificate vi) s) ∧
    (v.extractLsb' 0 8 = 4 → write 0x800 = exec (.mbTransport vi) s) ∧
    (vi = 0 → n < 64 → m < 2 → write (0x10000 + 16 * n + 8 * m) = exec (.grantWrite vi n m v) s) ∧
    (vi = 0 → n < 256 → write (0x12000 + 8 * n) = exec (.sgEntWrite vi n v) s) ∧
    (vi = 0 → write 0x11010 = exec (if v.extractLsb' 0 16 = 0 then .rtSwapCancel else .rtSwap (v.extractLsb' 0 16)) s) ∧
    (vi ≠ 0 → 0x10000 ≤ n → write n = .next s) ∧ (n % 8 ≠ 0 → write n = .next s)

/-- R92, R94, R269, R345: an access through an open aperture to a word of a stable frame on the device's own media: a write
changes the bytes it names and no others, and a read none. Until the host accepts a write of the device into a frame of
tier H, a host read returns the bytes from before; it accepts one to bytes that no older one writes. -/
def ApertureAccesses : Prop :=
  (∀ (s : State) (vi off n : Nat) (v : W64) (p : Phys),
    let a := (((s.vi vi).ap.extractLsb' 36 16).toNat * 2 ^ 36) + off
    s.stage = 2 → (s.vi vi).ap.getLsbD 0 = true → 1 ≤ n → off % 8 + n ≤ 8 → off + n ≤ 2 ^ 36 →
    s.translate vi a true = .ok p → (s.pent p.die p.dfn).state = 1 → (s.pent p.die p.dfn).tier < 3 →
    (s.getBlk p.key p.die p.dfn p.blk).sb.state ≠ .poisoned → WholeMedia s → (∀ c ∈ s.ctxList, c.2.2.cmds = []) →
    s.dmem.wf = true →
      (∃ t, exec (.hostApertureWrite vi off n v) s = .next t ∧ Patched s t p (leBytes n v.toNat) ∧
        t.pmem = s.pmem ∧ t.hmem = s.hmem) ∧
      (∃ t, exec (.hostApertureRead vi off n) s = .next t ∧ Patched s t p [] ∧ t.dmem = s.dmem ∧ t.pmem = s.pmem ∧
        s.hostReads vi a n = (List.range n).map fun i => (s.getBlk p.key p.die p.dfn p.blk).byte (p.off + i))) ∧
  (∀ (s : State) (vi a n w : Nat) (old : List Byte) (p : Phys), s.hostView vi a false = .at_ p →
    (s.pent p.die p.dfn).tier = 3 → (s.pent p.die p.dfn).state = 1 → s.lostBlock p = false → s.unacc = [(w, old)] →
    s.hmem.wf = true →
      s.hostReads vi a n = (List.range n).map fun i =>
        let x := hostAddr (s.pent p.die p.dfn).loc p.blk + p.off + i
        if w ≤ x ∧ x < w + old.length then old.getD (x - w) 0 else s.hmem.read x) ∧
  (∀ s : State, s.unacc ≠ [] → ∃ (i : Nat) (w : Nat × List Byte) (t : State), s.unacc[i]? = some w ∧
    (∀ u ∈ s.unacc.take i, u.1 + u.2.length ≤ w.1 ∨ w.1 + w.2.length ≤ u.1) ∧
    exec .hostWriteAccepted s = .next t ∧ t.unacc = s.unacc.eraseIdx i ∧
    { t with unacc := s.unacc, free := s.free } = s)

end Sys2Proof.Claims

/-- R73, R87, R264 to R270, R273 to R277: reports, registers, invalidations, router tables and mailboxes. -/
def Obligations.HostRegisters : Prop :=
  Claims.ReportRecords ∧ Claims.StreamRegisters ∧ Claims.EventRegisters ∧ Claims.Invalidations ∧
    Claims.RouterSwaps ∧ Claims.Mailboxes ∧ Claims.RegisterMap ∧ Claims.ApertureAccesses

/-! ## The fabric -/

namespace Sys2Proof.Claims

/-- R276, R321: a flit with a good CRC ends the count of failures of its port, and another adds to it; a port goes down when
a flit and its 16 retries have failed, or with no valid flit for 33,000 cycles, with a report; it comes up again clean. The count of 17 is
log entry 66. -/
def Ports : Prop :=
  ∀ (s : State) (p : Nat),
    let x : Port := AMap.get s.ports p {}
    let set := fun y : Port => { s with ports := AMap.set s.ports p y }
    let down := fun why : W64 => (set { x with down := true }).fault [0] 14 0 0 (BitVec.ofNat 64 p) why 0
    (p < 16 → x.down = false →
      exec (.delavoFlitReceive p true) s = .next (set { x with fails := 0, last := s.now }) ∧
      exec (.delavoFlitReceive p false) s = .next (set { x with fails := x.fails + 1 })) ∧
    (p < 16 → x.down = false → s.colls = [] →
      (17 ≤ x.fails → exec (.delavoPortDown p false) s = .next (down 0)) ∧
      (x.last + 33000 ≤ s.now → exec (.delavoPortDown p true) s = .next (down 1) ∧
        exec (.delavoSignalTimeout p) s = .next (down 1))) ∧
    (x.down = true → exec (.delavoPortUp p) s = .next (set { down := false, fails := 0, last := s.now }))

/-- The record of a command's collective, the only one on the device. -/
structure Takes (s : State) (k j : Nat) (m : Cmd) (c : Coll) : Prop where
  holds : Holds s k j m
  coll  : s.colls = [c] ∧ c.core = k ∧ c.ctx = j ∧ c.cmd = m.seq ∧ c.done = false
  ok    : c.failed = false ∧ c.clash = false ∧ c.n ≠ 0 ∧ c.rank < c.n

/-- R39, R255, R278: the Shroud first takes the participant's contribution (by the event of the participant's own rank: log
entry 65, deduced); a gathered chunk of another rank is kept as it arrives, and one that has arrived already is dropped; a
participant sends a chunk on the way of the fold and again with the result. -/
def Chunks : Prop :=
  ∀ (s : State) (k j i q : Nat) (m : Cmd) (c : Coll) (bytes : List Byte), Takes s k j m c →
    let put := fun d : Coll => Host.Outcome.next { s with colls := [d] }
    (c.taken = true → c.scope = 1 → (c.desc.getD 0 0).extractLsb' 0 2 = 2 → i < c.total → i / c.per = q →
      q ≠ c.rank → bytes.length = c.chunkLen i →
      exec (.shroudChunkReceive k j m.seq q i bytes) s = put (match AMap.find? c.got i with
        | some _ => c
        | none => { c with got := AMap.set c.got i bytes, moved := s.now })) ∧
    (Alone s k j m → WholeMedia s → c.taken = false → m.parts = [] → c.reads = [] →
      let from_ := (c.desc.getD 1 0).toNat
      let len := (c.desc.getD 3 0).toNat
      let r := s.seeBlocks c.vi from_ len
      ∀ src, r.readRange c.vi from_ (len / 2048) = .ok src →
      ∃ t, exec (.shroudChunkReceive k j m.seq c.rank i bytes) s = .next t ∧
        t.colls = [{ c with src := src, taken := true, moved := s.now }] ∧
        cmdsOf t k j = [{ m with sub := 1 }] ∧ t.dmem = s.dmem) ∧
    (∀ h, c.sent h = (c.taken && c.sends (h / 2) (h % 2 == 1) && ((AMap.find? c.got (h / 2)).isSome ||
      (h % 2 == 0 && (c.rank == 0 || (AMap.find? c.part (h / 2)).isSome)))))

/-- R278: the acknowledgement of a hop, the fold's first, lets a participant drop its copy: at scope 1 another device
acknowledges what has been sent, and at scope 0 the next rank of the ring does so once it has written the chunk. -/
def ChunkAcks : Prop :=
  ∀ (s : State) (k j i q : Nat) (c : Coll), c ∈ s.colls → c.core = k ∧ c.ctx = j ∧ c.cmd = q →
    (s.colls.map fun d => (d.core, d.ctx, d.cmd)).Nodup → (∀ d ∈ s.colls, d.done = false) →
    let may := fun h => c.sent h = true ∧ h ∉ c.acked ∧ (c.scope = 0 → ∃ d, s.mate c ((c.rank + 1) % c.n) = some d ∧
      ((AMap.find? d.got i).isSome = true ∨ (h = 2 * i ∧ (AMap.find? d.part i).isSome = true)))
    let acked := fun h => exec (.shroudChunkAck k j q i) s = .next { s with colls := s.colls.map fun d =>
      if d = c then { c with acked := c.acked ++ [h], moved := s.now } else d }
    (may (2 * i) → acked (2 * i)) ∧ (¬ may (2 * i) → may (2 * i + 1) → acked (2 * i + 1)) ∧
      (¬ may (2 * i) → ¬ may (2 * i + 1) →
        exec (.shroudChunkAck k j q i) s = .refused (.notEnabled "SHROUD_CHUNK_ACK"))

/-- R323: a collective that makes no progress for 2^32 cycles fails, with a report that names no rank as lost where a port
of it is still up, and its abort notice goes out; where all its ports are down, every other rank is lost; an abort notice
fails it too (log entry 65). -/
def CollectivesFail : Prop :=
  ∀ (s : State) (k j : Nat) (m : Cmd) (c : Coll), Takes s k j m c →
    (c.moved + 2 ^ 32 ≤ s.now → (c.scope ≠ 1 ∨ c.n = 1 ∨ ∃ f g, s.portDown (s.collPort c.group f g) = false) → exec (.shroudProgressTimeout k j m.seq) s =
      .next ({ s with colls := [{ c with failed := true, told := true }] }.fault [0, c.vi] 16 0x0F (c.core / 256)
        (BitVec.ofNat 64 c.group) (BitVec.ofNat 64 c.seq) (BitVec.allOnes 64))) ∧
    (c.moved + 2 ^ 32 ≤ s.now → c.scope = 1 → 1 < c.n → (∀ f g, s.portDown (s.collPort c.group f g) = true) →
      let others := (List.range c.n).filter (· != c.rank)
      exec (.shroudProgressTimeout k j m.seq) s =
        .next ({ s with
          colls := [{ c with failed := true, told := true }],
          sgLost := AMap.upd s.sgLost c.group [] fun l => (l ++ others).eraseDups }.fault [0, c.vi] 16 0x0F (c.core / 256)
            (BitVec.ofNat 64 c.group) (BitVec.ofNat 64 c.seq) (BitVec.ofNat 64 ((c.rank + 1) % c.n)))) ∧
    exec (.shroudAbortNotice k j m.seq) s = .next { s with colls := [{ c with failed := true }] }

/-- R255: a collective completes when its last chunk is there: the destination, here of one block that the device reads
from its TLB, holds the result, the status word is 0, and the command completes. -/
def CollectivesComplete : Prop :=
  ∀ (s : State) (k j : Nat) (m : Cmd) (c : Coll) (bytes : List Byte) (p q : Phys), Takes s k j m c →
    (∃ cls cc a, m.ins = .xColl cls cc a) → Alone s k j m → m.n = 1 → m.i = 0 → m.parts = [] →
    c.taken = true → c.reform = false → c.scope = 1 → (c.desc.getD 0 0).extractLsb' 0 2 = 0 →
    (c.desc.getD 3 0).toNat = 2048 → AMap.find? c.got 0 = some bytes → bytes.length = 2048 →
    let dst := (c.desc.getD 2 0).toNat
    let word := (c.desc.getD 5 0).toNat
    (s.tlbFind c.vi dst).isSome = true → (s.tlbFind c.vi word).isSome = true → dst % 2048 = 0 → word % 8 = 0 →
    s.translate c.vi dst true = .ok p → s.translate c.vi word true = .ok q → (p.die, p.dfn) ≠ (q.die, q.dfn) →
    (s.pent p.die p.dfn).state = 1 → (s.pent p.die p.dfn).tier < 3 → (s.pent q.die q.dfn).state = 1 →
    (s.pent q.die q.dfn).tier < 3 →
    ((s.pent p.die p.dfn).tier, (s.pent p.die p.dfn).loc) ≠ ((s.pent q.die q.dfn).tier, (s.pent q.die q.dfn).loc) →
    (s.pent p.die p.dfn).loc < 2 ^ 31 → (s.pent q.die q.dfn).loc < 2 ^ 31 → p.die < 4 → q.die < 4 →
    (s.getBlk p.key p.die p.dfn p.blk).sb.state ≠ .poisoned → (s.getBlk q.key q.die q.dfn q.blk).sb.state ≠ .poisoned →
    s.dmem.wf = true →
      ∃ t, exec (.collComplete k j m.seq) s = .next t ∧ Advances s t k j m ∧ Patched s t p bytes ∧ wordAt t q = 0

end Sys2Proof.Claims

/-- R39, R255, R276, R278, R321, R323: ports, chunks, and how a collective ends. -/
def Obligations.FabricEvents : Prop :=
  Claims.Ports ∧ Claims.Chunks ∧ Claims.ChunkAcks ∧ Claims.CollectivesFail ∧ Claims.CollectivesComplete

/-! ## Reset and errors -/

namespace Sys2Proof.Claims

/-- R274, R334 to R336: a reset starts the count of cycles anew and keeps host memory (log entry 87, deduced); where the boot images verify every
core is about to run its boot context, privileged, from address 0, and otherwise every core is held, in recovery. That the
key of interface 0 is live is log entry 96, and that the boot steps 1 to 6 are one event log entry 12 (design choice). -/
def Resets : Prop :=
  ∀ s : State, ∃ t, exec .powerOnReset s = .next t ∧ t.now = 0 ∧ t.hmem = s.hmem ∧ t.pmem = [] ∧ t.psb = [] ∧
    (t.dom 0).clusters = BitVec.allOnes 128 ∧ (t.dom 0).owner = 0 ∧ (∀ d, d ≠ 0 → (t.dom d).clusters = 0) ∧
    (t.vi 0).grant = BitVec.allOnes 128 ∧ (∀ v, v ≠ 0 → (t.vi v).grant = 0) ∧
    (∀ v, (∀ st, (t.stream v st).en = false) ∧ (t.vi v).key = if v = 0 then .live else .empty) ∧ t.gangs = [] ∧ t.launches = [] ∧
    (if Config.bootVerifies = true then t.stage = 1 ∧ ∀ k, (t.core k).smode = 1 ∧ (t.core k).heldB = false ∧
        (t.core k).run = some 0 ∧ (t.ctx k 0).status = .ready ∧ (t.ctx k 0).priv = true ∧ (t.ctx k 0).pc = 0 ∧
        (∀ n, (t.ctx k 0).rdS n = 0 ∧ (t.ctx k 0).rdA n = 0) ∧ ∀ j, j ≠ 0 → (t.ctx k j).status = .free
      else t.stage = 3 ∧ ∀ k, (t.core k).heldB = true ∧ ∀ j, (t.ctx k j).status = .free)

/-- R145, R158, R289: a bundle whose one slot has no definition traps with cause 0x01, with the slot's bits and the header
byte in the record, and nothing of it happens. -/
def UndefinedBundles : Prop :=
  ∀ (s : State) (k j : Nat) (b : Bundle) (w : SlotWord) (e : DecodeError),
    (s.core k).run = some j → (s.ctx k j).status = .ready → (s.ctx k j).frozen = none → (s.core k).issueAt ≤ s.now →
    (s.ctx k j).notB ≤ s.now → (s.core k).heldB = false → s.CanHandle k j → (s.ctx k j).gtrap = none →
    (s.ctx k j).ltrap = none → (s.ctx k j).faults = [] → (s.ctx k j).guard = none → (s.ctx k j).again = none →
    (s.core k).fetch s.free j = .bundle (s.ctx k j).pc b → b.slots = [w] → w.ins = .error e →
      exec (.illegalEncoding k) s = .next (s.handled k j (causeImage 1 w.kind.bit (s.ctx k j).priv)
        (BitVec.ofNat 64 (s.ctx k j).pc) (BitVec.ofNat 64 w.raw) (b.header.zeroExtend 64) 0 0)

/-- R293, R301, R311, R314, R320: a soft error flips one stored bit, which a second flip of the same bit undoes; what a beat
leaves wrong in an unchecked bank is in the cell itself (R231), and the one-block buffer of a trade in flight becomes
unreadable. The numbers of the rows are log entry 33. -/
def SoftErrors : Prop :=
  ∀ (s : State) (k n b : Nat), k < 1024 → b < 64 →
    let toggled := fun (f : Flip) => s.modCore k fun c =>
      { c with flips := if f ∈ c.flips then c.flips.filter (· != f) else c.flips ++ [f] }
    let turned := fun (m : Nat) (l : List Nat) => if m ∈ l then l.filter (· != m) else l ++ [m]
    (n < 131072 → exec (.softError (.scratch k n b)) s = .next (toggled ⟨0, n, b⟩)) ∧
    (n < 65536 → exec (.softError (.window k n b)) s = .next (toggled ⟨1, n, b⟩)) ∧
    (n < 8192 → exec (.softError (.instr k n b)) s = .next (toggled ⟨5, n, b⟩)) ∧
    (∀ j, j < 4 → n < 64 → exec (.softError (.sreg k j n b)) s = .next (toggled ⟨6, j * 64 + n, b⟩)) ∧
    (∀ j, j < 4 → 1 ≤ n → n < 32 → exec (.softError (.areg k j n b)) s = .next (toggled ⟨7, j * 32 + n, b⟩)) ∧
    (n < 16384 → exec (.softError (.vmain k .va n b)) s = .next (toggled ⟨2, n, b⟩) ∧
      exec (.softError (.vmain k .vb n b)) s = .next (toggled ⟨3, n, b⟩)) ∧
    (∀ j u r, j < 4 → r < 34 → n < 16 → exec (.softError (.voper k j u (768 + r) (64 * n + b))) s =
      .next (toggled ⟨operArray u, (64 * j + r) * 16 + n, b⟩)) ∧
    (∀ j r, j < 4 → 1 ≤ r → r < 4 → n < 16 → ∀ u, exec (.softError (.voper k j u (1024 + r) (64 * n + b))) s =
      .next (toggled ⟨operArray u, (64 * j + 33 + r) * 16 + n, b⟩)) ∧
    (∀ i c, n < 4 → i < 32 → c < 32 → b < 32 →
      exec (.softError (.acc k n i c b)) s = .next (toggled ⟨10, n * 512 + (32 * i + c) / 2, c % 2 * 32 + b⟩) ∧
      ((AMap.get (s.core k).accs n {}).checked = false → ∃ t, exec (.softError (.accum k n i c b)) s = .next t ∧
        ((AMap.get (t.core k).accs n {}).cells.get (32 * i + c) 0) =
          (AMap.get (s.core k).accs n {}).cells.get (32 * i + c) 0 ^^^ (1#32 <<< b))) ∧
    (∀ j side, j < 4 → n < 16 → exec (.softError (.edge k j side (64 * n + b))) s =
      .next (toggled ⟨11, j * 32 + (if side then 16 else 0) + n, b⟩)) ∧
    (∀ j, j < 4 → 1 ≤ n → n < 8 → b < 32 →
      exec (.softError (.mask k j .va n b)) s = .next (toggled ⟨12, j * 16 + n, b⟩) ∧
      exec (.softError (.mask k j .vb n b)) s = .next (toggled ⟨12, j * 16 + 8 + n, b⟩)) ∧
    (n < 640 → exec (.softError (.slotSb k n b)) s = .next (toggled ⟨13, n, b⟩)) ∧
    (∀ d, d < 4 → n < 2 ^ 20 → ∀ copy, copy < 2 → exec (.softError (.place d n copy b)) s =
      .next (s.modDie d fun x =>
        { x with map := AMap.upd x.map n {} fun e =>
            if copy = 0 then { e with bad0 := turned b e.bad0 } else { e with bad1 := turned b e.bad1 } })) ∧
    (∀ j m t, j < 4 → cmdsOf s k j = [m] → m.status = .flight t → ∃ u, exec (.softError (.transit k j m.seq)) s = .next u ∧
      cmdsOf u k j = [{ m with status := .flight { t with bad := true } }]) ∧
    exec (.softError (.media n true)) s = .next { s with mhard := turned n s.mhard } ∧
    exec (.softError (.media n false)) s = .next { s with mflips := turned n s.mflips } ∧
    exec (.softError (.sideband n)) s = .next { s with mside := turned n s.mside } ∧
    (∀ cl, cl < 128 → n < 4096 → exec (.softError (.pool cl n)) s =
      .next { s with phard := turned (cl * 4096 + n) s.phard }) ∧
    (n < 65536 → exec (.softError (.router n false)) s = .next { s with rtBad := turned n s.rtBad } ∧
      exec (.softError (.router n true)) s = .next { s with rtShaBad := turned n s.rtShaBad })

/-- R2, R334: the machine right after power-on, before the boot controller acts: cycle zero, every core held, its contexts
free, no block in a slot, a pool or a frame, domain 0 with every cluster, and every grant with interface 0. What no rule
states of this state is log entries 5 and 11, and that its first step is the power-on reset log entry 15 (design
choice). -/
def AfterPowerOn : Prop :=
  let s := State.reset
  s.now = 0 ∧ s.turn = .event .powerOnReset ∧
    (∀ k, (s.core k).heldB = true ∧ (s.core k).smode = 1 ∧ ∀ j, (s.ctx k j).status = .free) ∧
    (∀ k sl, ((s.core k).slotSb sl).state = .empty) ∧ (∀ cl sl, (s.getPool cl sl).sb.state = .empty) ∧
    (∀ d f, (s.pent d f).state = 0) ∧ (s.dom 0).clusters = BitVec.allOnes 128 ∧
    (∀ d, d ≠ 0 → (s.dom d).clusters = 0) ∧ (s.vi 0).grant = BitVec.allOnes 128 ∧ (∀ v, v ≠ 0 → (s.vi v).grant = 0) ∧
    (∀ d, (s.die d).en = true ∧ (s.die d).upin = false ∧ (s.die d).margin = 16 ∧ (s.die d).decay = 24 ∧
      (s.die d).tick = 16)

end Sys2Proof.Claims

/-- R145, R158, R274, R293, R334 to R336: power-on, resets, undefined bundles and soft errors. -/
def Obligations.ResetsAndErrors : Prop :=
  Claims.AfterPowerOn ∧ Claims.Resets ∧ Claims.UndefinedBundles ∧ Claims.SoftErrors

/-! ## Encodings and the step -/

namespace Sys2Proof.Claims

/-- R147 to R157, R242: words of every slot, written out from the bit fields of these rules, and the instructions that they
stand for. -/
def WordsRead : Prop :=
  decode (.s 0b0000001_000011_000001_000010_0000000) = .ok (.sAdd 3 1 2) ∧
  decode (.s 0b0011000_000101_000101_1111111111111) = .ok (.sAddi 5 5 0x1FFF) ∧
  decode (.s 0b0110001_000101_1111111111111011000) = .ok (.sBnz 5 0x7FFD8) ∧
  decode (.s 0b0100001_000111_0_10_1011111011101111) = .ok (.sMovk 7 2 0xBEEF) ∧
  decode (.s 0b1000011_000000_000001_0000000110000) = .ok (.sCsrc 1 0x030) ∧
  decode (.ld 0b000111_00_00_0000000111_00010_00000_000000000000010000) =
    .ok (.ldD { cls := 0, file := .s, reg := 7, base := 2, idx := 0, off := 16 }) ∧
  decode (.st 0b001001_01_11_0000001001_00100_00101_000000000000000000) =
    .ok (.stVs { cls := 1, file := .vb, reg := 9, base := 4, idx := 5, off := 0 }) ∧
  decode (.v .va 0b00000100_000_000_000_000_0000000100_0000000001_0000000010_0000000011_0000) =
    .ok (.vFma { unit := .va, fmt := .f32, mask := 0, rnd := .rne, h1 := false, h2 := false, h3 := false, d := 4, s1 := 1,
                 s2 := 2, s3 := 3, sub := 0 }) ∧
  decode (.v .vb 0b00100000_110_000_101_000_0000000011_0000000001_0000000010_0000000000_0000) =
    .ok (.vIadd { unit := .vb, fmt := .i16, mask := 0, rnd := .sat, h1 := false, h2 := false, h3 := false, d := 3, s1 := 1,
                  s2 := 2, s3 := 0, sub := 0 }) ∧
  decode (.m 0b11_000_01_0_0_0000101000_0001_000_000_0_00) = .ok (.mDrain .bf16 1 .va 40 1 .rne) ∧
  decode (.m 0b00_000_00_0_0100_00101_1_00000000000000) = .ok (.mPush .bf16 false 4 5 true) ∧
  decode (.q 0b0001_00110_0000000000000010_0000001) = .ok (.qLd 6 2) ∧
  decode (.x 0b00111000_00_000101_000000_000000_000000_000000_000000000000000000001100) = .ok (.xFence 5 1 4) ∧
  decode (.s 0b0010111_000000_000000_0000000000000) = .error .reservedOpcode ∧
  decode (.s 0b0000001_000011_000001_000010_0000001) = .error .mustBeZero ∧
  decode (.v .va 0b00000001_000_000_111_000_0000000011_0000000001_0000000010_0000000000_0000) = .error .reservedField

/-- R144 to R158: a well-formed slot instruction is what its own word decodes to, alone and as a bundle of one slot at any
place in a line; and a word that decodes is the encoding of its instruction, which is well-formed. -/
def EncodingsAgree : Prop :=
  (∀ i : Instr, encode i ≠ .event → i.wfError = none → decode (encode i) = .ok i) ∧
  (∀ (i : Instr) (k : SlotKind) (v : Nat) (rest : List Byte), (encode i).slot = some (k, v) → i.wfError = none →
    ∃ b, decodeBundle (encodeBundle i ++ rest) = some b ∧ b.len = bundleOf i ∧ b.header = BitVec.ofNat 8 (2 ^ k.bit) ∧
      b.slots = [{ kind := k, raw := v, ins := .ok i }]) ∧
  (∀ (w : Enc) (i : Instr), decode w = .ok i → encode i = w ∧ i.wfError = none)

/-- R25, R144 to R146: a core whose turn it is and whose context may issue runs what it fetches. A bundle of one slot that
decodes is that slot's instruction: the step is its execution, on the machine as the core begins to issue, followed by the
choice of the next step. What has no definition is ILLEGAL_ENCODING, and several slots issue together. -/
def BundlesRun : Prop :=
  ∀ (s : State) (k j : Nat), s.turn = .issue k → s.readyOn k = some j → s.pairOf k j = none →
    (∀ (a : Nat) (b : Bundle) (w : SlotWord) (i : Instr), (s.core k).fetch s.free j = .bundle a b → b.slots = [w] →
      w.ins = .ok i →
      let t := (s.atAddr k j a).begin_ k j
      step s = t.after (exec i t)) ∧
    (∀ (a : Nat) (b : Bundle), (s.core k).fetch s.free j = .bundle a b → (∀ w ∈ b.slots, ∃ i, w.ins = .ok i) →
      b.slots.length ≠ 1 → step s = .next ((s.begin_ k j).issueDue k j).settle) ∧
    (s.undefined k j = true →
      let t := s.begin_ k j
      step s = t.after (exec (.illegalEncoding k) t))

/-- R138, R144, R145: where the bytes at the program counter, in the running half and in one line, are the encoding of a
well-formed instruction, and no flipped bit and no unordered st.i hides them, the step executes that instruction. -/
def BytesRun : Prop :=
  ∀ (s : State) (k j : Nat) (i : Instr), s.turn = .issue k → s.readyOn k = some j → s.pairOf k j = none →
    (s.core k).iq = [] → (s.core k).flips = [] → encode i ≠ .event → i.wfError = none →
    let pc := (s.ctx k j).pc
    pc / 0x8000 = (s.ctx k j).half → pc % 64 + bundleOf i ≤ 64 →
    (∀ n, n < bundleOf i → (s.core k).imem.read (pc + n) = (encodeBundle i).getD n 0) →
      let t := s.begin_ k j
      step s = t.after (exec i t)

/-- The model's own order of steps (log entry 2), and what a step makes of an outcome: the next step is chosen, and an instruction that was not enabled leaves the machine as
it was; an event that the turn names runs, and a cycle ends. -/
def StepsGoOn : Prop :=
  (∀ s t : State, s.after (.next t) = .next t.settle) ∧
  (∀ (s : State) (n : String), s.after (.refused (.notEnabled n)) = .next s.settle) ∧
  (∀ (s : State) (i : Instr), s.turn = .event i → step s = s.after (exec i s)) ∧
  (∀ s : State, s.turn = .tick → step s = .next s.endCycle.settle) ∧
  (∀ (s : State) (k : Nat), s.turn = .issue k → s.readyOn k = none → step s = .next s.settle)

end Sys2Proof.Claims

/-- R147 to R157: words decode to the instructions they stand for. -/
def Obligations.WordsDecode : Prop := Claims.WordsRead

/-- R144 to R158: decoding and encoding agree for every well-formed instruction that has an encoding. -/
def Obligations.DecodeEncode : Prop := Claims.EncodingsAgree

/-- R25, R144 to R146: a step runs the decoded instruction. -/
def Obligations.StepRunsDecoded : Prop := Claims.BundlesRun ∧ Claims.BytesRun ∧ Claims.StepsGoOn

/-- The machine never stops: whatever a program does, an exception is taken, a report is written, or the machine goes on
(R286, R287). Which step comes next is the model's choice where the rules leave it open (log entry 2). -/
def Obligations.NeverStops : Prop := ∀ s : State, ∃ t, step s = .next t

/-- Every step keeps every memory in its canonical form, and the tables of cores and contexts sorted. -/
def Obligations.StepsKeepCanonical : Prop := ∀ s t : State, s.Canonical → step s = .next t → t.Canonical

/-- The machine after reset is canonical (that nothing is listed rests on log entries 5 and 11). -/
def Obligations.ResetIsCanonical : Prop := State.reset.Canonical
end

