-- ==== Sys2Proof/Laws/Mem.lean ====
section
/-!
SUPPORT. The laws of the two containers: a read after a write, and every memory operation keeps the canonical
form.
-/

namespace Sys2Proof.Machine

/-! ## Reading what was written -/

theorem Mem.read_of_lt {lo : Nat} {m : Mem} (h : Mem.wfFrom lo m = true) {k : Nat} (hk : k < lo) :
    m.read k = Mem.unlisted := by
  induction m generalizing lo with
  | nil => rfl
  | cons c m ih =>
    obtain ⟨a, b⟩ := c
    simp only [Mem.wfFrom, Bool.and_eq_true, decide_eq_true_eq] at h
    have hne : k ≠ a := by omega
    simp only [Mem.read, if_neg hne]
    exact ih h.2 (by omega)

theorem Mem.read_write_other (m : Mem) {k a : Nat} (v : Byte) (h : a ≠ k) :
    (m.write k v).read a = m.read a := by
  induction m with
  | nil => by_cases hv : v = Mem.unlisted <;> simp [Mem.write, Mem.read, hv, h]
  | cons c m ih =>
    obtain ⟨b, w⟩ := c
    simp only [Mem.write]
    split
    · split <;> simp [Mem.read, h]
    · split
      · rename_i hkb
        have hab : a ≠ b := hkb ▸ h
        split <;> simp [Mem.read, h, hab]
      · simp only [Mem.read, ih]

theorem Mem.read_write_self {m : Mem} (hm : m.wf = true) (k : Nat) (v : Byte) : (m.write k v).read k = v := by
  suffices h : ∀ lo, Mem.wfFrom lo m = true → (m.write k v).read k = v from h 0 hm
  clear hm
  induction m with
  | nil =>
    intro lo _
    by_cases hv : v = Mem.unlisted <;> simp [Mem.write, Mem.read, hv]
  | cons c m ih =>
    intro lo h
    obtain ⟨b, w⟩ := c
    simp only [Mem.wfFrom, Bool.and_eq_true, decide_eq_true_eq] at h
    simp only [Mem.write]
    split
    · rename_i hkb
      split
      · rename_i hv
        have hne : k ≠ b := by omega
        simp only [Mem.read, if_neg hne, hv]
        exact Mem.read_of_lt h.2 (by omega)
      · simp [Mem.read]
    · split
      · rename_i hkb
        subst hkb
        split
        · rename_i hv
          rw [hv]
          exact Mem.read_of_lt h.2 (by omega)
        · simp [Mem.read]
      · rename_i hkb
        simp only [Mem.read, if_neg hkb]
        exact ih _ h.2

/-! ## The canonical form -/

theorem Mem.wfFrom_mono {lo lo' : Nat} {m : Mem} (h : Mem.wfFrom lo m = true) (hl : lo' ≤ lo) :
    Mem.wfFrom lo' m = true := by
  cases m with
  | nil => rfl
  | cons c m =>
    obtain ⟨a, b⟩ := c
    simp only [Mem.wfFrom, Bool.and_eq_true, decide_eq_true_eq] at h ⊢
    exact ⟨⟨by omega, h.1.2⟩, h.2⟩

theorem Mem.wfFrom_write {lo : Nat} {m : Mem} (h : Mem.wfFrom lo m = true) {k : Nat} (hk : lo ≤ k) (v : Byte) :
    Mem.wfFrom lo (m.write k v) = true := by
  induction m generalizing lo with
  | nil =>
    by_cases hv : v = Mem.unlisted
    · simp [Mem.write, hv, Mem.wfFrom]
    · simp [Mem.write, hv, Mem.wfFrom, hk]
  | cons c m ih =>
    obtain ⟨b, w⟩ := c
    have h0 := h
    simp only [Mem.wfFrom, Bool.and_eq_true, decide_eq_true_eq] at h
    simp only [Mem.write]
    split
    · rename_i hkb
      split
      · exact h0
      · rename_i hv
        simp only [Mem.wfFrom, Bool.and_eq_true, decide_eq_true_eq]
        exact ⟨⟨hk, hv⟩, ⟨by omega, h.1.2⟩, h.2⟩
    · split
      · rename_i hkb
        subst hkb
        split
        · exact Mem.wfFrom_mono h.2 (by omega)
        · rename_i hv
          simp only [Mem.wfFrom, Bool.and_eq_true, decide_eq_true_eq]
          exact ⟨⟨hk, hv⟩, h.2⟩
      · rename_i hlt hne
        simp only [Mem.wfFrom, Bool.and_eq_true, decide_eq_true_eq]
        exact ⟨⟨h.1.1, h.1.2⟩, ih h.2 (by omega)⟩

/-- A write keeps the canonical form. -/
theorem Mem.wf_write {m : Mem} (h : m.wf = true) (k : Nat) (v : Byte) : (m.write k v).wf = true :=
  Mem.wfFrom_write h (Nat.zero_le k) v

/-- So does a write of several bytes. -/
theorem Mem.wf_writeBytes {m : Mem} (h : m.wf = true) (k : Nat) (bs : List Byte) :
    (m.writeBytes k bs).wf = true := by
  induction bs generalizing m k with
  | nil => exact h
  | cons b bs ih => exact ih (Mem.wf_write h k b) (k + 1)

theorem Mem.wfFrom_filter {lo : Nat} {m : Mem} (h : Mem.wfFrom lo m = true) (p : Host.Cell → Bool) :
    Mem.wfFrom lo (m.filter p) = true := by
  induction m generalizing lo with
  | nil => rfl
  | cons c m ih =>
    obtain ⟨a, b⟩ := c
    simp only [Mem.wfFrom, Bool.and_eq_true, decide_eq_true_eq] at h
    simp only [List.filter_cons]
    split
    · simp only [Mem.wfFrom, Bool.and_eq_true, decide_eq_true_eq]
      exact ⟨h.1, ih h.2⟩
    · exact ih (Mem.wfFrom_mono h.2 (by omega))

/-- Clearing a range keeps the canonical form. -/
theorem Mem.wf_clear {m : Mem} (h : m.wf = true) (lo n : Nat) : (m.clear lo n).wf = true :=
  Mem.wfFrom_filter h _

theorem Mem.wfFrom_shift {lo : Nat} {m : Mem} (h : Mem.wfFrom lo m = true) (d : Nat)
    (hd : ∀ c ∈ m, d ≤ c.1) : Mem.wfFrom (lo - d) (m.map fun c => (c.1 - d, c.2)) = true := by
  induction m generalizing lo with
  | nil => rfl
  | cons c m ih =>
    obtain ⟨a, b⟩ := c
    simp only [Mem.wfFrom, Bool.and_eq_true, decide_eq_true_eq] at h
    have ha : d ≤ a := hd (a, b) (by simp)
    simp only [List.map_cons, Mem.wfFrom, Bool.and_eq_true, decide_eq_true_eq]
    refine ⟨⟨by omega, h.1.2⟩, ?_⟩
    have := ih h.2 (fun c hc => hd c (by simp [hc]))
    rwa [show a + 1 - d = a - d + 1 by omega] at this

/-- A slice is in canonical form. -/
theorem Mem.wf_slice {m : Mem} (h : m.wf = true) (lo n : Nat) : (m.slice lo n).wf = true := by
  have h1 := Mem.wfFrom_filter h fun c => decide (lo ≤ c.1) && decide (c.1 < lo + n)
  have h2 := Mem.wfFrom_shift h1 lo (by
    intro c hc
    simp only [List.mem_filter, Bool.and_eq_true, decide_eq_true_eq] at hc
    exact hc.2.1)
  exact Mem.wfFrom_mono h2 (by omega)

/-- Pasting a slice keeps the canonical form. -/
theorem Mem.wf_paste {m : Mem} (h : m.wf = true) (lo n : Nat) (b : Mem) : (m.paste lo n b).wf = true := by
  unfold Mem.paste
  generalize b.filter (fun c => decide (c.1 < n)) = cs
  have h0 := Mem.wf_clear h lo n
  generalize m.clear lo n = m0 at h0 ⊢
  induction cs generalizing m0 with
  | nil => exact h0
  | cons c cs ih => exact ih _ (Mem.wf_write h0 _ _)

/-- A byte outside the bytes written reads as before. -/
theorem Mem.read_writeBytes_other (m : Mem) (k a : Nat) (bs : List Byte) (h : a < k ∨ k + bs.length ≤ a) :
    (m.writeBytes k bs).read a = m.read a := by
  induction bs generalizing m k with
  | nil => rfl
  | cons b bs ih =>
    simp only [List.length_cons] at h
    have h1 : a ≠ k := by omega
    simp only [Mem.writeBytes]
    rw [ih _ _ (by omega), Mem.read_write_other _ _ h1]

/-! ## Tables -/

@[simp] theorem AMap.find?_set_self {α : Type} (m : AMap α) (k : Nat) (v : α) :
    AMap.find? (AMap.set m k v) k = some v := by
  induction m with
  | nil => simp [AMap.set, AMap.find?]
  | cons e m ih =>
    obtain ⟨a, w⟩ := e
    simp only [AMap.set]
    split
    · simp [AMap.find?]
    · split
      · simp [AMap.find?]
      · rename_i hne
        simp [AMap.find?, hne, ih]

theorem AMap.find?_set_other {α : Type} (m : AMap α) {k n : Nat} (v : α) (h : n ≠ k) :
    AMap.find? (AMap.set m k v) n = AMap.find? m n := by
  induction m with
  | nil => simp [AMap.set, AMap.find?, h]
  | cons e m ih =>
    obtain ⟨a, w⟩ := e
    simp only [AMap.set]
    split
    · simp [AMap.find?, h]
    · split
      · rename_i hka
        have hna : n ≠ a := hka ▸ h
        simp [AMap.find?, h, hna]
      · simp only [AMap.find?, ih]

@[simp] theorem AMap.get_set_self {α : Type} (m : AMap α) (k : Nat) (v d : α) :
    AMap.get (AMap.set m k v) k d = v := by
  simp [AMap.get]

theorem AMap.get_set_other {α : Type} (m : AMap α) {k n : Nat} (v d : α) (h : n ≠ k) :
    AMap.get (AMap.set m k v) n d = AMap.get m n d := by
  simp [AMap.get, AMap.find?_set_other m v h]

@[simp] theorem AMap.set_set {α : Type} (m : AMap α) (k : Nat) (v w : α) :
    AMap.set (AMap.set m k v) k w = AMap.set m k w := by
  induction m with
  | nil => simp [AMap.set]
  | cons e m ih =>
    obtain ⟨a, x⟩ := e
    simp only [AMap.set]
    split
    · simp [AMap.set]
    · split
      · simp [AMap.set]
      · rename_i h1 h2
        simp [AMap.set, h1, h2, ih]

end Sys2Proof.Machine
end

