-- ==== Sys2Proof/Laws/State.lean ====
section
/-!
SUPPORT. The fields of the state under its updates: what an update of a core or a context leaves alone, and what
is read back.
-/

namespace Sys2Proof.Machine

/-! ## A core of the machine -/

@[simp] theorem State.setCore_now (s : State) (k : Nat) (c : Core) : (s.setCore k c).now = s.now := rfl
@[simp] theorem State.setCore_free (s : State) (k : Nat) (c : Core) : (s.setCore k c).free = s.free := rfl
@[simp] theorem State.setCore_cur (s : State) (k : Nat) (c : Core) : (s.setCore k c).cur = s.cur := rfl
@[simp] theorem State.setCore_turn (s : State) (k : Nat) (c : Core) : (s.setCore k c).turn = s.turn := rfl
@[simp] theorem State.setCore_inputs (s : State) (k : Nat) (c : Core) : (s.setCore k c).inputs = s.inputs := rfl
@[simp] theorem State.setCore_coreDef (s : State) (k : Nat) (c : Core) : (s.setCore k c).coreDef = s.coreDef := rfl
@[simp] theorem State.setCore_pmem (s : State) (k : Nat) (c : Core) : (s.setCore k c).pmem = s.pmem := rfl
@[simp] theorem State.setCore_psb (s : State) (k : Nat) (c : Core) : (s.setCore k c).psb = s.psb := rfl
@[simp] theorem State.setCore_dmem (s : State) (k : Nat) (c : Core) : (s.setCore k c).dmem = s.dmem := rfl
@[simp] theorem State.setCore_dsb (s : State) (k : Nat) (c : Core) : (s.setCore k c).dsb = s.dsb := rfl
@[simp] theorem State.setCore_mflips (s : State) (k : Nat) (c : Core) : (s.setCore k c).mflips = s.mflips := rfl
@[simp] theorem State.setCore_mhard (s : State) (k : Nat) (c : Core) : (s.setCore k c).mhard = s.mhard := rfl
@[simp] theorem State.setCore_mside (s : State) (k : Nat) (c : Core) : (s.setCore k c).mside = s.mside := rfl
@[simp] theorem State.setCore_phard (s : State) (k : Nat) (c : Core) : (s.setCore k c).phard = s.phard := rfl
@[simp] theorem State.setCore_hmem (s : State) (k : Nat) (c : Core) : (s.setCore k c).hmem = s.hmem := rfl
@[simp] theorem State.setCore_unacc (s : State) (k : Nat) (c : Core) : (s.setCore k c).unacc = s.unacc := rfl
@[simp] theorem State.setCore_gangs (s : State) (k : Nat) (c : Core) : (s.setCore k c).gangs = s.gangs := rfl
@[simp] theorem State.setCore_doms (s : State) (k : Nat) (c : Core) : (s.setCore k c).doms = s.doms := rfl
@[simp] theorem State.setCore_vis (s : State) (k : Nat) (c : Core) : (s.setCore k c).vis = s.vis := rfl
@[simp] theorem State.setCore_dies (s : State) (k : Nat) (c : Core) : (s.setCore k c).dies = s.dies := rfl
@[simp] theorem State.setCore_launches (s : State) (k : Nat) (c : Core) : (s.setCore k c).launches = s.launches := rfl
@[simp] theorem State.setCore_nextLaunch (s : State) (k : Nat) (c : Core) : (s.setCore k c).nextLaunch = s.nextLaunch := rfl
@[simp] theorem State.setCore_grants (s : State) (k : Nat) (c : Core) : (s.setCore k c).grants = s.grants := rfl
@[simp] theorem State.setCore_served (s : State) (k : Nat) (c : Core) : (s.setCore k c).served = s.served := rfl
@[simp] theorem State.setCore_sg (s : State) (k : Nat) (c : Core) : (s.setCore k c).sg = s.sg := rfl
@[simp] theorem State.setCore_sgLost (s : State) (k : Nat) (c : Core) : (s.setCore k c).sgLost = s.sgLost := rfl
@[simp] theorem State.setCore_sgSeq (s : State) (k : Nat) (c : Core) : (s.setCore k c).sgSeq = s.sgSeq := rfl
@[simp] theorem State.setCore_ports (s : State) (k : Nat) (c : Core) : (s.setCore k c).ports = s.ports := rfl
@[simp] theorem State.setCore_colls (s : State) (k : Nat) (c : Core) : (s.setCore k c).colls = s.colls := rfl
@[simp] theorem State.setCore_clSeq (s : State) (k : Nat) (c : Core) : (s.setCore k c).clSeq = s.clSeq := rfl
@[simp] theorem State.setCore_rtAct (s : State) (k : Nat) (c : Core) : (s.setCore k c).rtAct = s.rtAct := rfl
@[simp] theorem State.setCore_rtSha (s : State) (k : Nat) (c : Core) : (s.setCore k c).rtSha = s.rtSha := rfl
@[simp] theorem State.setCore_rtIdx (s : State) (k : Nat) (c : Core) : (s.setCore k c).rtIdx = s.rtIdx := rfl
@[simp] theorem State.setCore_rtMask (s : State) (k : Nat) (c : Core) : (s.setCore k c).rtMask = s.rtMask := rfl
@[simp] theorem State.setCore_rtBad (s : State) (k : Nat) (c : Core) : (s.setCore k c).rtBad = s.rtBad := rfl
@[simp] theorem State.setCore_rtShaBad (s : State) (k : Nat) (c : Core) : (s.setCore k c).rtShaBad = s.rtShaBad := rfl
@[simp] theorem State.setCore_badChan (s : State) (k : Nat) (c : Core) : (s.setCore k c).badChan = s.badChan := rfl
@[simp] theorem State.setCore_stage (s : State) (k : Nat) (c : Core) : (s.setCore k c).stage = s.stage := rfl
@[simp] theorem State.setCore_measured (s : State) (k : Nat) (c : Core) : (s.setCore k c).measured = s.measured := rfl

@[simp] theorem State.core_setCore_self (s : State) (k : Nat) (c : Core) : (s.setCore k c).core k = c := by
  simp [State.core, State.setCore]

theorem State.core_setCore_other (s : State) {k n : Nat} (c : Core) (h : n ≠ k) :
    (s.setCore k c).core n = s.core n := by
  simp [State.core, State.setCore, AMap.get_set_other _ _ _ h]

@[simp] theorem State.setCore_setCore (s : State) (k : Nat) (c d : Core) :
    (s.setCore k c).setCore k d = s.setCore k d := by
  simp [State.setCore]

@[simp] theorem State.modCore_now (s : State) (k : Nat) (f : Core → Core) : (s.modCore k f).now = s.now := rfl
@[simp] theorem State.modCore_free (s : State) (k : Nat) (f : Core → Core) : (s.modCore k f).free = s.free := rfl
@[simp] theorem State.modCore_cur (s : State) (k : Nat) (f : Core → Core) : (s.modCore k f).cur = s.cur := rfl
@[simp] theorem State.modCore_turn (s : State) (k : Nat) (f : Core → Core) : (s.modCore k f).turn = s.turn := rfl
@[simp] theorem State.modCore_inputs (s : State) (k : Nat) (f : Core → Core) : (s.modCore k f).inputs = s.inputs := rfl
@[simp] theorem State.modCore_coreDef (s : State) (k : Nat) (f : Core → Core) : (s.modCore k f).coreDef = s.coreDef := rfl
@[simp] theorem State.modCore_pmem (s : State) (k : Nat) (f : Core → Core) : (s.modCore k f).pmem = s.pmem := rfl
@[simp] theorem State.modCore_psb (s : State) (k : Nat) (f : Core → Core) : (s.modCore k f).psb = s.psb := rfl
@[simp] theorem State.modCore_dmem (s : State) (k : Nat) (f : Core → Core) : (s.modCore k f).dmem = s.dmem := rfl
@[simp] theorem State.modCore_dsb (s : State) (k : Nat) (f : Core → Core) : (s.modCore k f).dsb = s.dsb := rfl
@[simp] theorem State.modCore_mflips (s : State) (k : Nat) (f : Core → Core) : (s.modCore k f).mflips = s.mflips := rfl
@[simp] theorem State.modCore_mhard (s : State) (k : Nat) (f : Core → Core) : (s.modCore k f).mhard = s.mhard := rfl
@[simp] theorem State.modCore_mside (s : State) (k : Nat) (f : Core → Core) : (s.modCore k f).mside = s.mside := rfl
@[simp] theorem State.modCore_phard (s : State) (k : Nat) (f : Core → Core) : (s.modCore k f).phard = s.phard := rfl
@[simp] theorem State.modCore_hmem (s : State) (k : Nat) (f : Core → Core) : (s.modCore k f).hmem = s.hmem := rfl
@[simp] theorem State.modCore_unacc (s : State) (k : Nat) (f : Core → Core) : (s.modCore k f).unacc = s.unacc := rfl
@[simp] theorem State.modCore_gangs (s : State) (k : Nat) (f : Core → Core) : (s.modCore k f).gangs = s.gangs := rfl
@[simp] theorem State.modCore_doms (s : State) (k : Nat) (f : Core → Core) : (s.modCore k f).doms = s.doms := rfl
@[simp] theorem State.modCore_vis (s : State) (k : Nat) (f : Core → Core) : (s.modCore k f).vis = s.vis := rfl
@[simp] theorem State.modCore_dies (s : State) (k : Nat) (f : Core → Core) : (s.modCore k f).dies = s.dies := rfl
@[simp] theorem State.modCore_launches (s : State) (k : Nat) (f : Core → Core) : (s.modCore k f).launches = s.launches := rfl
@[simp] theorem State.modCore_nextLaunch (s : State) (k : Nat) (f : Core → Core) : (s.modCore k f).nextLaunch = s.nextLaunch := rfl
@[simp] theorem State.modCore_grants (s : State) (k : Nat) (f : Core → Core) : (s.modCore k f).grants = s.grants := rfl
@[simp] theorem State.modCore_served (s : State) (k : Nat) (f : Core → Core) : (s.modCore k f).served = s.served := rfl
@[simp] theorem State.modCore_sg (s : State) (k : Nat) (f : Core → Core) : (s.modCore k f).sg = s.sg := rfl
@[simp] theorem State.modCore_sgLost (s : State) (k : Nat) (f : Core → Core) : (s.modCore k f).sgLost = s.sgLost := rfl
@[simp] theorem State.modCore_sgSeq (s : State) (k : Nat) (f : Core → Core) : (s.modCore k f).sgSeq = s.sgSeq := rfl
@[simp] theorem State.modCore_ports (s : State) (k : Nat) (f : Core → Core) : (s.modCore k f).ports = s.ports := rfl
@[simp] theorem State.modCore_colls (s : State) (k : Nat) (f : Core → Core) : (s.modCore k f).colls = s.colls := rfl
@[simp] theorem State.modCore_clSeq (s : State) (k : Nat) (f : Core → Core) : (s.modCore k f).clSeq = s.clSeq := rfl
@[simp] theorem State.modCore_rtAct (s : State) (k : Nat) (f : Core → Core) : (s.modCore k f).rtAct = s.rtAct := rfl
@[simp] theorem State.modCore_rtSha (s : State) (k : Nat) (f : Core → Core) : (s.modCore k f).rtSha = s.rtSha := rfl
@[simp] theorem State.modCore_rtIdx (s : State) (k : Nat) (f : Core → Core) : (s.modCore k f).rtIdx = s.rtIdx := rfl
@[simp] theorem State.modCore_rtMask (s : State) (k : Nat) (f : Core → Core) : (s.modCore k f).rtMask = s.rtMask := rfl
@[simp] theorem State.modCore_rtBad (s : State) (k : Nat) (f : Core → Core) : (s.modCore k f).rtBad = s.rtBad := rfl
@[simp] theorem State.modCore_rtShaBad (s : State) (k : Nat) (f : Core → Core) : (s.modCore k f).rtShaBad = s.rtShaBad := rfl
@[simp] theorem State.modCore_badChan (s : State) (k : Nat) (f : Core → Core) : (s.modCore k f).badChan = s.badChan := rfl
@[simp] theorem State.modCore_stage (s : State) (k : Nat) (f : Core → Core) : (s.modCore k f).stage = s.stage := rfl
@[simp] theorem State.modCore_measured (s : State) (k : Nat) (f : Core → Core) : (s.modCore k f).measured = s.measured := rfl

@[simp] theorem State.core_modCore_self (s : State) (k : Nat) (f : Core → Core) :
    (s.modCore k f).core k = f (s.core k) := by
  simp [State.modCore]

theorem State.core_modCore_other (s : State) {k n : Nat} (f : Core → Core) (h : n ≠ k) :
    (s.modCore k f).core n = s.core n := State.core_setCore_other s _ h

@[simp] theorem State.modCore_modCore (s : State) (k : Nat) (f g : Core → Core) :
    (s.modCore k f).modCore k g = s.modCore k fun c => g (f c) := by
  simp [State.modCore]

/-! ## The counter of the free values -/

@[simp] theorem State.fresh_now (s : State) : s.fresh.now = s.now := rfl
@[simp] theorem State.fresh_cur (s : State) : s.fresh.cur = s.cur := rfl
@[simp] theorem State.fresh_turn (s : State) : s.fresh.turn = s.turn := rfl
@[simp] theorem State.fresh_inputs (s : State) : s.fresh.inputs = s.inputs := rfl
@[simp] theorem State.fresh_coreDef (s : State) : s.fresh.coreDef = s.coreDef := rfl
@[simp] theorem State.fresh_cores (s : State) : s.fresh.cores = s.cores := rfl
@[simp] theorem State.fresh_pmem (s : State) : s.fresh.pmem = s.pmem := rfl
@[simp] theorem State.fresh_psb (s : State) : s.fresh.psb = s.psb := rfl
@[simp] theorem State.fresh_dmem (s : State) : s.fresh.dmem = s.dmem := rfl
@[simp] theorem State.fresh_dsb (s : State) : s.fresh.dsb = s.dsb := rfl
@[simp] theorem State.fresh_mflips (s : State) : s.fresh.mflips = s.mflips := rfl
@[simp] theorem State.fresh_mhard (s : State) : s.fresh.mhard = s.mhard := rfl
@[simp] theorem State.fresh_mside (s : State) : s.fresh.mside = s.mside := rfl
@[simp] theorem State.fresh_phard (s : State) : s.fresh.phard = s.phard := rfl
@[simp] theorem State.fresh_hmem (s : State) : s.fresh.hmem = s.hmem := rfl
@[simp] theorem State.fresh_unacc (s : State) : s.fresh.unacc = s.unacc := rfl
@[simp] theorem State.fresh_gangs (s : State) : s.fresh.gangs = s.gangs := rfl
@[simp] theorem State.fresh_doms (s : State) : s.fresh.doms = s.doms := rfl
@[simp] theorem State.fresh_vis (s : State) : s.fresh.vis = s.vis := rfl
@[simp] theorem State.fresh_dies (s : State) : s.fresh.dies = s.dies := rfl
@[simp] theorem State.fresh_launches (s : State) : s.fresh.launches = s.launches := rfl
@[simp] theorem State.fresh_nextLaunch (s : State) : s.fresh.nextLaunch = s.nextLaunch := rfl
@[simp] theorem State.fresh_grants (s : State) : s.fresh.grants = s.grants := rfl
@[simp] theorem State.fresh_served (s : State) : s.fresh.served = s.served := rfl
@[simp] theorem State.fresh_sg (s : State) : s.fresh.sg = s.sg := rfl
@[simp] theorem State.fresh_sgLost (s : State) : s.fresh.sgLost = s.sgLost := rfl
@[simp] theorem State.fresh_sgSeq (s : State) : s.fresh.sgSeq = s.sgSeq := rfl
@[simp] theorem State.fresh_ports (s : State) : s.fresh.ports = s.ports := rfl
@[simp] theorem State.fresh_colls (s : State) : s.fresh.colls = s.colls := rfl
@[simp] theorem State.fresh_clSeq (s : State) : s.fresh.clSeq = s.clSeq := rfl
@[simp] theorem State.fresh_rtAct (s : State) : s.fresh.rtAct = s.rtAct := rfl
@[simp] theorem State.fresh_rtSha (s : State) : s.fresh.rtSha = s.rtSha := rfl
@[simp] theorem State.fresh_rtIdx (s : State) : s.fresh.rtIdx = s.rtIdx := rfl
@[simp] theorem State.fresh_rtMask (s : State) : s.fresh.rtMask = s.rtMask := rfl
@[simp] theorem State.fresh_rtBad (s : State) : s.fresh.rtBad = s.rtBad := rfl
@[simp] theorem State.fresh_rtShaBad (s : State) : s.fresh.rtShaBad = s.rtShaBad := rfl
@[simp] theorem State.fresh_badChan (s : State) : s.fresh.badChan = s.badChan := rfl
@[simp] theorem State.fresh_stage (s : State) : s.fresh.stage = s.stage := rfl
@[simp] theorem State.fresh_measured (s : State) : s.fresh.measured = s.measured := rfl

@[simp] theorem State.core_fresh (s : State) (k : Nat) : s.fresh.core k = s.core k := rfl

/-! ## A context of a core -/

@[simp] theorem Core.setCtx_smode (c : Core) (j : Nat) (x : Ctx) : (c.setCtx j x).smode = c.smode := rfl
@[simp] theorem Core.setCtx_pair (c : Core) (j : Nat) (x : Ctx) : (c.setCtx j x).pair = c.pair := rfl
@[simp] theorem Core.setCtx_partner (c : Core) (j : Nat) (x : Ctx) : (c.setCtx j x).partner = c.partner := rfl
@[simp] theorem Core.setCtx_vec (c : Core) (j : Nat) (x : Ctx) : (c.setCtx j x).vec = c.vec := rfl
@[simp] theorem Core.setCtx_hit (c : Core) (j : Nat) (x : Ctx) : (c.setCtx j x).hit = c.hit := rfl
@[simp] theorem Core.setCtx_wr (c : Core) (j : Nat) (x : Ctx) : (c.setCtx j x).wr = c.wr := rfl
@[simp] theorem Core.setCtx_sAddr (c : Core) (j : Nat) (x : Ctx) : (c.setCtx j x).sAddr = c.sAddr := rfl
@[simp] theorem Core.setCtx_ridx (c : Core) (j : Nat) (x : Ctx) : (c.setCtx j x).ridx = c.ridx := rfl
@[simp] theorem Core.setCtx_repair (c : Core) (j : Nat) (x : Ctx) : (c.setCtx j x).repair = c.repair := rfl
@[simp] theorem Core.setCtx_active (c : Core) (j : Nat) (x : Ctx) : (c.setCtx j x).active = c.active := rfl
@[simp] theorem Core.setCtx_inject (c : Core) (j : Nat) (x : Ctx) : (c.setCtx j x).inject = c.inject := rfl
@[simp] theorem Core.setCtx_flips (c : Core) (j : Nat) (x : Ctx) : (c.setCtx j x).flips = c.flips := rfl
@[simp] theorem Core.setCtx_fixed (c : Core) (j : Nat) (x : Ctx) : (c.setCtx j x).fixed = c.fixed := rfl
@[simp] theorem Core.setCtx_sp (c : Core) (j : Nat) (x : Ctx) : (c.setCtx j x).sp = c.sp := rfl
@[simp] theorem Core.setCtx_sb (c : Core) (j : Nat) (x : Ctx) : (c.setCtx j x).sb = c.sb := rfl
@[simp] theorem Core.setCtx_sel (c : Core) (j : Nat) (x : Ctx) : (c.setCtx j x).sel = c.sel := rfl
@[simp] theorem Core.setCtx_written (c : Core) (j : Nat) (x : Ctx) : (c.setCtx j x).written = c.written := rfl
@[simp] theorem Core.setCtx_imem (c : Core) (j : Nat) (x : Ctx) : (c.setCtx j x).imem = c.imem := rfl
@[simp] theorem Core.setCtx_iq (c : Core) (j : Nat) (x : Ctx) : (c.setCtx j x).iq = c.iq := rfl
@[simp] theorem Core.setCtx_stq (c : Core) (j : Nat) (x : Ctx) : (c.setCtx j x).stq = c.stq := rfl
@[simp] theorem Core.setCtx_rings (c : Core) (j : Nat) (x : Ctx) : (c.setCtx j x).rings = c.rings := rfl
@[simp] theorem Core.setCtx_va (c : Core) (j : Nat) (x : Ctx) : (c.setCtx j x).va = c.va := rfl
@[simp] theorem Core.setCtx_vb (c : Core) (j : Nat) (x : Ctx) : (c.setCtx j x).vb = c.vb := rfl
@[simp] theorem Core.setCtx_accs (c : Core) (j : Nat) (x : Ctx) : (c.setCtx j x).accs = c.accs := rfl
@[simp] theorem Core.setCtx_spill (c : Core) (j : Nat) (x : Ctx) : (c.setCtx j x).spill = c.spill := rfl
@[simp] theorem Core.setCtx_run (c : Core) (j : Nat) (x : Ctx) : (c.setCtx j x).run = c.run := rfl
@[simp] theorem Core.setCtx_issueAt (c : Core) (j : Nat) (x : Ctx) : (c.setCtx j x).issueAt = c.issueAt := rfl
@[simp] theorem Core.setCtx_leave (c : Core) (j : Nat) (x : Ctx) : (c.setCtx j x).leave = c.leave := rfl
@[simp] theorem Core.setCtx_sentAt (c : Core) (j : Nat) (x : Ctx) : (c.setCtx j x).sentAt = c.sentAt := rfl
@[simp] theorem Core.setCtx_fails (c : Core) (j : Nat) (x : Ctx) : (c.setCtx j x).fails = c.fails := rfl
@[simp] theorem Core.setCtx_swap (c : Core) (j : Nat) (x : Ctx) : (c.setCtx j x).swap = c.swap := rfl
@[simp] theorem Core.setCtx_queue (c : Core) (j : Nat) (x : Ctx) : (c.setCtx j x).queue = c.queue := rfl
@[simp] theorem Core.setCtx_image (c : Core) (j : Nat) (x : Ctx) : (c.setCtx j x).image = c.image := rfl
@[simp] theorem Core.setCtx_lock (c : Core) (j : Nat) (x : Ctx) : (c.setCtx j x).lock = c.lock := rfl
@[simp] theorem Core.setCtx_ord (c : Core) (j : Nat) (x : Ctx) : (c.setCtx j x).ord = c.ord := rfl
@[simp] theorem Core.setCtx_last (c : Core) (j : Nat) (x : Ctx) : (c.setCtx j x).last = c.last := rfl
@[simp] theorem Core.setCtx_heldB (c : Core) (j : Nat) (x : Ctx) : (c.setCtx j x).heldB = c.heldB := rfl

@[simp] theorem Core.ctx_setCtx_self (c : Core) (j : Nat) (x : Ctx) : (c.setCtx j x).ctx j = x := by
  simp [Core.ctx, Core.setCtx]

theorem Core.ctx_setCtx_other (c : Core) {j n : Nat} (x : Ctx) (h : n ≠ j) :
    (c.setCtx j x).ctx n = c.ctx n := by
  simp [Core.ctx, Core.setCtx, AMap.get_set_other _ _ _ h]

@[simp] theorem Core.setCtx_setCtx (c : Core) (j : Nat) (x y : Ctx) : (c.setCtx j x).setCtx j y = c.setCtx j y := by
  simp [Core.setCtx]

@[simp] theorem State.modCtx_now (s : State) (k j : Nat) (f : Ctx → Ctx) : (s.modCtx k j f).now = s.now := rfl
@[simp] theorem State.modCtx_free (s : State) (k j : Nat) (f : Ctx → Ctx) : (s.modCtx k j f).free = s.free := rfl
@[simp] theorem State.modCtx_cur (s : State) (k j : Nat) (f : Ctx → Ctx) : (s.modCtx k j f).cur = s.cur := rfl
@[simp] theorem State.modCtx_turn (s : State) (k j : Nat) (f : Ctx → Ctx) : (s.modCtx k j f).turn = s.turn := rfl
@[simp] theorem State.modCtx_inputs (s : State) (k j : Nat) (f : Ctx → Ctx) : (s.modCtx k j f).inputs = s.inputs := rfl
@[simp] theorem State.modCtx_coreDef (s : State) (k j : Nat) (f : Ctx → Ctx) : (s.modCtx k j f).coreDef = s.coreDef := rfl
@[simp] theorem State.modCtx_pmem (s : State) (k j : Nat) (f : Ctx → Ctx) : (s.modCtx k j f).pmem = s.pmem := rfl
@[simp] theorem State.modCtx_psb (s : State) (k j : Nat) (f : Ctx → Ctx) : (s.modCtx k j f).psb = s.psb := rfl
@[simp] theorem State.modCtx_dmem (s : State) (k j : Nat) (f : Ctx → Ctx) : (s.modCtx k j f).dmem = s.dmem := rfl
@[simp] theorem State.modCtx_dsb (s : State) (k j : Nat) (f : Ctx → Ctx) : (s.modCtx k j f).dsb = s.dsb := rfl
@[simp] theorem State.modCtx_mflips (s : State) (k j : Nat) (f : Ctx → Ctx) : (s.modCtx k j f).mflips = s.mflips := rfl
@[simp] theorem State.modCtx_mhard (s : State) (k j : Nat) (f : Ctx → Ctx) : (s.modCtx k j f).mhard = s.mhard := rfl
@[simp] theorem State.modCtx_mside (s : State) (k j : Nat) (f : Ctx → Ctx) : (s.modCtx k j f).mside = s.mside := rfl
@[simp] theorem State.modCtx_phard (s : State) (k j : Nat) (f : Ctx → Ctx) : (s.modCtx k j f).phard = s.phard := rfl
@[simp] theorem State.modCtx_hmem (s : State) (k j : Nat) (f : Ctx → Ctx) : (s.modCtx k j f).hmem = s.hmem := rfl
@[simp] theorem State.modCtx_unacc (s : State) (k j : Nat) (f : Ctx → Ctx) : (s.modCtx k j f).unacc = s.unacc := rfl
@[simp] theorem State.modCtx_gangs (s : State) (k j : Nat) (f : Ctx → Ctx) : (s.modCtx k j f).gangs = s.gangs := rfl
@[simp] theorem State.modCtx_doms (s : State) (k j : Nat) (f : Ctx → Ctx) : (s.modCtx k j f).doms = s.doms := rfl
@[simp] theorem State.modCtx_vis (s : State) (k j : Nat) (f : Ctx → Ctx) : (s.modCtx k j f).vis = s.vis := rfl
@[simp] theorem State.modCtx_dies (s : State) (k j : Nat) (f : Ctx → Ctx) : (s.modCtx k j f).dies = s.dies := rfl
@[simp] theorem State.modCtx_launches (s : State) (k j : Nat) (f : Ctx → Ctx) : (s.modCtx k j f).launches = s.launches := rfl
@[simp] theorem State.modCtx_nextLaunch (s : State) (k j : Nat) (f : Ctx → Ctx) : (s.modCtx k j f).nextLaunch = s.nextLaunch := rfl
@[simp] theorem State.modCtx_grants (s : State) (k j : Nat) (f : Ctx → Ctx) : (s.modCtx k j f).grants = s.grants := rfl
@[simp] theorem State.modCtx_served (s : State) (k j : Nat) (f : Ctx → Ctx) : (s.modCtx k j f).served = s.served := rfl
@[simp] theorem State.modCtx_sg (s : State) (k j : Nat) (f : Ctx → Ctx) : (s.modCtx k j f).sg = s.sg := rfl
@[simp] theorem State.modCtx_sgLost (s : State) (k j : Nat) (f : Ctx → Ctx) : (s.modCtx k j f).sgLost = s.sgLost := rfl
@[simp] theorem State.modCtx_sgSeq (s : State) (k j : Nat) (f : Ctx → Ctx) : (s.modCtx k j f).sgSeq = s.sgSeq := rfl
@[simp] theorem State.modCtx_ports (s : State) (k j : Nat) (f : Ctx → Ctx) : (s.modCtx k j f).ports = s.ports := rfl
@[simp] theorem State.modCtx_colls (s : State) (k j : Nat) (f : Ctx → Ctx) : (s.modCtx k j f).colls = s.colls := rfl
@[simp] theorem State.modCtx_clSeq (s : State) (k j : Nat) (f : Ctx → Ctx) : (s.modCtx k j f).clSeq = s.clSeq := rfl
@[simp] theorem State.modCtx_rtAct (s : State) (k j : Nat) (f : Ctx → Ctx) : (s.modCtx k j f).rtAct = s.rtAct := rfl
@[simp] theorem State.modCtx_rtSha (s : State) (k j : Nat) (f : Ctx → Ctx) : (s.modCtx k j f).rtSha = s.rtSha := rfl
@[simp] theorem State.modCtx_rtIdx (s : State) (k j : Nat) (f : Ctx → Ctx) : (s.modCtx k j f).rtIdx = s.rtIdx := rfl
@[simp] theorem State.modCtx_rtMask (s : State) (k j : Nat) (f : Ctx → Ctx) : (s.modCtx k j f).rtMask = s.rtMask := rfl
@[simp] theorem State.modCtx_rtBad (s : State) (k j : Nat) (f : Ctx → Ctx) : (s.modCtx k j f).rtBad = s.rtBad := rfl
@[simp] theorem State.modCtx_rtShaBad (s : State) (k j : Nat) (f : Ctx → Ctx) : (s.modCtx k j f).rtShaBad = s.rtShaBad := rfl
@[simp] theorem State.modCtx_badChan (s : State) (k j : Nat) (f : Ctx → Ctx) : (s.modCtx k j f).badChan = s.badChan := rfl
@[simp] theorem State.modCtx_stage (s : State) (k j : Nat) (f : Ctx → Ctx) : (s.modCtx k j f).stage = s.stage := rfl
@[simp] theorem State.modCtx_measured (s : State) (k j : Nat) (f : Ctx → Ctx) : (s.modCtx k j f).measured = s.measured := rfl

@[simp] theorem State.core_modCtx_self (s : State) (k j : Nat) (f : Ctx → Ctx) :
    (s.modCtx k j f).core k = (s.core k).setCtx j (f (s.ctx k j)) := by
  simp [State.modCtx, State.ctx]

theorem State.core_modCtx_other (s : State) {k n : Nat} (j : Nat) (f : Ctx → Ctx) (h : n ≠ k) :
    (s.modCtx k j f).core n = s.core n := State.core_modCore_other s _ h

@[simp] theorem State.ctx_modCtx_self (s : State) (k j : Nat) (f : Ctx → Ctx) :
    (s.modCtx k j f).ctx k j = f (s.ctx k j) := by
  simp [State.ctx]

theorem State.ctx_modCtx_other (s : State) (k : Nat) {j n : Nat} (f : Ctx → Ctx) (h : n ≠ j) :
    (s.modCtx k j f).ctx k n = s.ctx k n := by
  simp [State.ctx, Core.ctx_setCtx_other _ _ h]

/-! ## Registers of a context -/

@[simp] theorem Ctx.wrS_status (x : Ctx) (n : Nat) (v : W64) : (x.wrS n v).status = x.status := rfl
@[simp] theorem Ctx.wrS_since (x : Ctx) (n : Nat) (v : W64) : (x.wrS n v).since = x.since := rfl
@[simp] theorem Ctx.wrS_pc (x : Ctx) (n : Nat) (v : W64) : (x.wrS n v).pc = x.pc := rfl
@[simp] theorem Ctx.wrS_half (x : Ctx) (n : Nat) (v : W64) : (x.wrS n v).half = x.half := rfl
@[simp] theorem Ctx.wrS_lastHdr (x : Ctx) (n : Nat) (v : W64) : (x.wrS n v).lastHdr = x.lastHdr := rfl
@[simp] theorem Ctx.wrS_priv (x : Ctx) (n : Nat) (v : W64) : (x.wrS n v).priv = x.priv := rfl
@[simp] theorem Ctx.wrS_inTrap (x : Ctx) (n : Nat) (v : W64) : (x.wrS n v).inTrap = x.inTrap := rfl
@[simp] theorem Ctx.wrS_nest (x : Ctx) (n : Nat) (v : W64) : (x.wrS n v).nest = x.nest := rfl
@[simp] theorem Ctx.wrS_a (x : Ctx) (n : Nat) (v : W64) : (x.wrS n v).a = x.a := rfl
@[simp] theorem Ctx.wrS_oa (x : Ctx) (n : Nat) (v : W64) : (x.wrS n v).oa = x.oa := rfl
@[simp] theorem Ctx.wrS_ob (x : Ctx) (n : Nat) (v : W64) : (x.wrS n v).ob = x.ob := rfl
@[simp] theorem Ctx.wrS_ka (x : Ctx) (n : Nat) (v : W64) : (x.wrS n v).ka = x.ka := rfl
@[simp] theorem Ctx.wrS_kb (x : Ctx) (n : Nat) (v : W64) : (x.wrS n v).kb = x.kb := rfl
@[simp] theorem Ctx.wrS_la0 (x : Ctx) (n : Nat) (v : W64) : (x.wrS n v).la0 = x.la0 := rfl
@[simp] theorem Ctx.wrS_la1 (x : Ctx) (n : Nat) (v : W64) : (x.wrS n v).la1 = x.la1 := rfl
@[simp] theorem Ctx.wrS_lb0 (x : Ctx) (n : Nat) (v : W64) : (x.wrS n v).lb0 = x.lb0 := rfl
@[simp] theorem Ctx.wrS_lb1 (x : Ctx) (n : Nat) (v : W64) : (x.wrS n v).lb1 = x.lb1 := rfl
@[simp] theorem Ctx.wrS_ha (x : Ctx) (n : Nat) (v : W64) : (x.wrS n v).ha = x.ha := rfl
@[simp] theorem Ctx.wrS_hb (x : Ctx) (n : Nat) (v : W64) : (x.wrS n v).hb = x.hb := rfl
@[simp] theorem Ctx.wrS_port (x : Ctx) (n : Nat) (v : W64) : (x.wrS n v).port = x.port := rfl
@[simp] theorem Ctx.wrS_ela (x : Ctx) (n : Nat) (v : W64) : (x.wrS n v).ela = x.ela := rfl
@[simp] theorem Ctx.wrS_elb (x : Ctx) (n : Nat) (v : W64) : (x.wrS n v).elb = x.elb := rfl
@[simp] theorem Ctx.wrS_cc (x : Ctx) (n : Nat) (v : W64) : (x.wrS n v).cc = x.cc := rfl
@[simp] theorem Ctx.wrS_sq (x : Ctx) (n : Nat) (v : W64) : (x.wrS n v).sq = x.sq := rfl
@[simp] theorem Ctx.wrS_vaMap (x : Ctx) (n : Nat) (v : W64) : (x.wrS n v).vaMap = x.vaMap := rfl
@[simp] theorem Ctx.wrS_vbMap (x : Ctx) (n : Nat) (v : W64) : (x.wrS n v).vbMap = x.vbMap := rfl
@[simp] theorem Ctx.wrS_accMap (x : Ctx) (n : Nat) (v : W64) : (x.wrS n v).accMap = x.accMap := rfl
@[simp] theorem Ctx.wrS_persist (x : Ctx) (n : Nat) (v : W64) : (x.wrS n v).persist = x.persist := rfl
@[simp] theorem Ctx.wrS_rot (x : Ctx) (n : Nat) (v : W64) : (x.wrS n v).rot = x.rot := rfl
@[simp] theorem Ctx.wrS_ntiles (x : Ctx) (n : Nat) (v : W64) : (x.wrS n v).ntiles = x.ntiles := rfl
@[simp] theorem Ctx.wrS_bundles (x : Ctx) (n : Nat) (v : W64) : (x.wrS n v).bundles = x.bundles := rfl
@[simp] theorem Ctx.wrS_retired (x : Ctx) (n : Nat) (v : W64) : (x.wrS n v).retired = x.retired := rfl
@[simp] theorem Ctx.wrS_phase (x : Ctx) (n : Nat) (v : W64) : (x.wrS n v).phase = x.phase := rfl
@[simp] theorem Ctx.wrS_trCause (x : Ctx) (n : Nat) (v : W64) : (x.wrS n v).trCause = x.trCause := rfl
@[simp] theorem Ctx.wrS_trPc (x : Ctx) (n : Nat) (v : W64) : (x.wrS n v).trPc = x.trPc := rfl
@[simp] theorem Ctx.wrS_trI0 (x : Ctx) (n : Nat) (v : W64) : (x.wrS n v).trI0 = x.trI0 := rfl
@[simp] theorem Ctx.wrS_trI1 (x : Ctx) (n : Nat) (v : W64) : (x.wrS n v).trI1 = x.trI1 := rfl
@[simp] theorem Ctx.wrS_trI2 (x : Ctx) (n : Nat) (v : W64) : (x.wrS n v).trI2 = x.trI2 := rfl
@[simp] theorem Ctx.wrS_trI3 (x : Ctx) (n : Nat) (v : W64) : (x.wrS n v).trI3 = x.trI3 := rfl
@[simp] theorem Ctx.wrS_mxStat (x : Ctx) (n : Nat) (v : W64) : (x.wrS n v).mxStat = x.mxStat := rfl
@[simp] theorem Ctx.wrS_mxMode (x : Ctx) (n : Nat) (v : W64) : (x.wrS n v).mxMode = x.mxMode := rfl
@[simp] theorem Ctx.wrS_mxCoord (x : Ctx) (n : Nat) (v : W64) : (x.wrS n v).mxCoord = x.mxCoord := rfl
@[simp] theorem Ctx.wrS_mxDue (x : Ctx) (n : Nat) (v : W64) : (x.wrS n v).mxDue = x.mxDue := rfl
@[simp] theorem Ctx.wrS_segPc (x : Ctx) (n : Nat) (v : W64) : (x.wrS n v).segPc = x.segPc := rfl
@[simp] theorem Ctx.wrS_commits (x : Ctx) (n : Nat) (v : W64) : (x.wrS n v).commits = x.commits := rfl
@[simp] theorem Ctx.wrS_rewinds (x : Ctx) (n : Nat) (v : W64) : (x.wrS n v).rewinds = x.rewinds := rfl
@[simp] theorem Ctx.wrS_snap (x : Ctx) (n : Nat) (v : W64) : (x.wrS n v).snap = x.snap := rfl
@[simp] theorem Ctx.wrS_loop (x : Ctx) (n : Nat) (v : W64) : (x.wrS n v).loop = x.loop := rfl
@[simp] theorem Ctx.wrS_susp (x : Ctx) (n : Nat) (v : W64) : (x.wrS n v).susp = x.susp := rfl
@[simp] theorem Ctx.wrS_pend (x : Ctx) (n : Nat) (v : W64) : (x.wrS n v).pend = x.pend := rfl
@[simp] theorem Ctx.wrS_frozen (x : Ctx) (n : Nat) (v : W64) : (x.wrS n v).frozen = x.frozen := rfl
@[simp] theorem Ctx.wrS_cmds (x : Ctx) (n : Nat) (v : W64) : (x.wrS n v).cmds = x.cmds := rfl
@[simp] theorem Ctx.wrS_cmdSeq (x : Ctx) (n : Nat) (v : W64) : (x.wrS n v).cmdSeq = x.cmdSeq := rfl
@[simp] theorem Ctx.wrS_faults (x : Ctx) (n : Nat) (v : W64) : (x.wrS n v).faults = x.faults := rfl
@[simp] theorem Ctx.wrS_guard (x : Ctx) (n : Nat) (v : W64) : (x.wrS n v).guard = x.guard := rfl
@[simp] theorem Ctx.wrS_mon (x : Ctx) (n : Nat) (v : W64) : (x.wrS n v).mon = x.mon := rfl
@[simp] theorem Ctx.wrS_monSeq (x : Ctx) (n : Nat) (v : W64) : (x.wrS n v).monSeq = x.monSeq := rfl
@[simp] theorem Ctx.wrS_counted (x : Ctx) (n : Nat) (v : W64) : (x.wrS n v).counted = x.counted := rfl
@[simp] theorem Ctx.wrS_rdvs (x : Ctx) (n : Nat) (v : W64) : (x.wrS n v).rdvs = x.rdvs := rfl
@[simp] theorem Ctx.wrS_gtrap (x : Ctx) (n : Nat) (v : W64) : (x.wrS n v).gtrap = x.gtrap := rfl
@[simp] theorem Ctx.wrS_ltrap (x : Ctx) (n : Nat) (v : W64) : (x.wrS n v).ltrap = x.ltrap := rfl
@[simp] theorem Ctx.wrS_stCrc (x : Ctx) (n : Nat) (v : W64) : (x.wrS n v).stCrc = x.stCrc := rfl
@[simp] theorem Ctx.wrS_dom (x : Ctx) (n : Nat) (v : W64) : (x.wrS n v).dom = x.dom := rfl
@[simp] theorem Ctx.wrS_launch (x : Ctx) (n : Nat) (v : W64) : (x.wrS n v).launch = x.launch := rfl
@[simp] theorem Ctx.wrS_tag (x : Ctx) (n : Nat) (v : W64) : (x.wrS n v).tag = x.tag := rfl
@[simp] theorem Ctx.wrS_vi (x : Ctx) (n : Nat) (v : W64) : (x.wrS n v).vi = x.vi := rfl
@[simp] theorem Ctx.wrS_notB (x : Ctx) (n : Nat) (v : W64) : (x.wrS n v).notB = x.notB := rfl
@[simp] theorem Ctx.wrS_saved (x : Ctx) (n : Nat) (v : W64) : (x.wrS n v).saved = x.saved := rfl
@[simp] theorem Ctx.wrS_wake (x : Ctx) (n : Nat) (v : W64) : (x.wrS n v).wake = x.wake := rfl
@[simp] theorem Ctx.wrS_again (x : Ctx) (n : Nat) (v : W64) : (x.wrS n v).again = x.again := rfl
@[simp] theorem Ctx.wrA_status (x : Ctx) (n : Nat) (v : W64) : (x.wrA n v).status = x.status := by
  unfold Ctx.wrA; split <;> rfl
@[simp] theorem Ctx.wrA_since (x : Ctx) (n : Nat) (v : W64) : (x.wrA n v).since = x.since := by
  unfold Ctx.wrA; split <;> rfl
@[simp] theorem Ctx.wrA_pc (x : Ctx) (n : Nat) (v : W64) : (x.wrA n v).pc = x.pc := by
  unfold Ctx.wrA; split <;> rfl
@[simp] theorem Ctx.wrA_half (x : Ctx) (n : Nat) (v : W64) : (x.wrA n v).half = x.half := by
  unfold Ctx.wrA; split <;> rfl
@[simp] theorem Ctx.wrA_lastHdr (x : Ctx) (n : Nat) (v : W64) : (x.wrA n v).lastHdr = x.lastHdr := by
  unfold Ctx.wrA; split <;> rfl
@[simp] theorem Ctx.wrA_priv (x : Ctx) (n : Nat) (v : W64) : (x.wrA n v).priv = x.priv := by
  unfold Ctx.wrA; split <;> rfl
@[simp] theorem Ctx.wrA_inTrap (x : Ctx) (n : Nat) (v : W64) : (x.wrA n v).inTrap = x.inTrap := by
  unfold Ctx.wrA; split <;> rfl
@[simp] theorem Ctx.wrA_nest (x : Ctx) (n : Nat) (v : W64) : (x.wrA n v).nest = x.nest := by
  unfold Ctx.wrA; split <;> rfl
@[simp] theorem Ctx.wrA_s (x : Ctx) (n : Nat) (v : W64) : (x.wrA n v).s = x.s := by
  unfold Ctx.wrA; split <;> rfl
@[simp] theorem Ctx.wrA_oa (x : Ctx) (n : Nat) (v : W64) : (x.wrA n v).oa = x.oa := by
  unfold Ctx.wrA; split <;> rfl
@[simp] theorem Ctx.wrA_ob (x : Ctx) (n : Nat) (v : W64) : (x.wrA n v).ob = x.ob := by
  unfold Ctx.wrA; split <;> rfl
@[simp] theorem Ctx.wrA_ka (x : Ctx) (n : Nat) (v : W64) : (x.wrA n v).ka = x.ka := by
  unfold Ctx.wrA; split <;> rfl
@[simp] theorem Ctx.wrA_kb (x : Ctx) (n : Nat) (v : W64) : (x.wrA n v).kb = x.kb := by
  unfold Ctx.wrA; split <;> rfl
@[simp] theorem Ctx.wrA_la0 (x : Ctx) (n : Nat) (v : W64) : (x.wrA n v).la0 = x.la0 := by
  unfold Ctx.wrA; split <;> rfl
@[simp] theorem Ctx.wrA_la1 (x : Ctx) (n : Nat) (v : W64) : (x.wrA n v).la1 = x.la1 := by
  unfold Ctx.wrA; split <;> rfl
@[simp] theorem Ctx.wrA_lb0 (x : Ctx) (n : Nat) (v : W64) : (x.wrA n v).lb0 = x.lb0 := by
  unfold Ctx.wrA; split <;> rfl
@[simp] theorem Ctx.wrA_lb1 (x : Ctx) (n : Nat) (v : W64) : (x.wrA n v).lb1 = x.lb1 := by
  unfold Ctx.wrA; split <;> rfl
@[simp] theorem Ctx.wrA_ha (x : Ctx) (n : Nat) (v : W64) : (x.wrA n v).ha = x.ha := by
  unfold Ctx.wrA; split <;> rfl
@[simp] theorem Ctx.wrA_hb (x : Ctx) (n : Nat) (v : W64) : (x.wrA n v).hb = x.hb := by
  unfold Ctx.wrA; split <;> rfl
@[simp] theorem Ctx.wrA_port (x : Ctx) (n : Nat) (v : W64) : (x.wrA n v).port = x.port := by
  unfold Ctx.wrA; split <;> rfl
@[simp] theorem Ctx.wrA_ela (x : Ctx) (n : Nat) (v : W64) : (x.wrA n v).ela = x.ela := by
  unfold Ctx.wrA; split <;> rfl
@[simp] theorem Ctx.wrA_elb (x : Ctx) (n : Nat) (v : W64) : (x.wrA n v).elb = x.elb := by
  unfold Ctx.wrA; split <;> rfl
@[simp] theorem Ctx.wrA_cc (x : Ctx) (n : Nat) (v : W64) : (x.wrA n v).cc = x.cc := by
  unfold Ctx.wrA; split <;> rfl
@[simp] theorem Ctx.wrA_sq (x : Ctx) (n : Nat) (v : W64) : (x.wrA n v).sq = x.sq := by
  unfold Ctx.wrA; split <;> rfl
@[simp] theorem Ctx.wrA_vaMap (x : Ctx) (n : Nat) (v : W64) : (x.wrA n v).vaMap = x.vaMap := by
  unfold Ctx.wrA; split <;> rfl
@[simp] theorem Ctx.wrA_vbMap (x : Ctx) (n : Nat) (v : W64) : (x.wrA n v).vbMap = x.vbMap := by
  unfold Ctx.wrA; split <;> rfl
@[simp] theorem Ctx.wrA_accMap (x : Ctx) (n : Nat) (v : W64) : (x.wrA n v).accMap = x.accMap := by
  unfold Ctx.wrA; split <;> rfl
@[simp] theorem Ctx.wrA_persist (x : Ctx) (n : Nat) (v : W64) : (x.wrA n v).persist = x.persist := by
  unfold Ctx.wrA; split <;> rfl
@[simp] theorem Ctx.wrA_rot (x : Ctx) (n : Nat) (v : W64) : (x.wrA n v).rot = x.rot := by
  unfold Ctx.wrA; split <;> rfl
@[simp] theorem Ctx.wrA_ntiles (x : Ctx) (n : Nat) (v : W64) : (x.wrA n v).ntiles = x.ntiles := by
  unfold Ctx.wrA; split <;> rfl
@[simp] theorem Ctx.wrA_bundles (x : Ctx) (n : Nat) (v : W64) : (x.wrA n v).bundles = x.bundles := by
  unfold Ctx.wrA; split <;> rfl
@[simp] theorem Ctx.wrA_retired (x : Ctx) (n : Nat) (v : W64) : (x.wrA n v).retired = x.retired := by
  unfold Ctx.wrA; split <;> rfl
@[simp] theorem Ctx.wrA_phase (x : Ctx) (n : Nat) (v : W64) : (x.wrA n v).phase = x.phase := by
  unfold Ctx.wrA; split <;> rfl
@[simp] theorem Ctx.wrA_trCause (x : Ctx) (n : Nat) (v : W64) : (x.wrA n v).trCause = x.trCause := by
  unfold Ctx.wrA; split <;> rfl
@[simp] theorem Ctx.wrA_trPc (x : Ctx) (n : Nat) (v : W64) : (x.wrA n v).trPc = x.trPc := by
  unfold Ctx.wrA; split <;> rfl
@[simp] theorem Ctx.wrA_trI0 (x : Ctx) (n : Nat) (v : W64) : (x.wrA n v).trI0 = x.trI0 := by
  unfold Ctx.wrA; split <;> rfl
@[simp] theorem Ctx.wrA_trI1 (x : Ctx) (n : Nat) (v : W64) : (x.wrA n v).trI1 = x.trI1 := by
  unfold Ctx.wrA; split <;> rfl
@[simp] theorem Ctx.wrA_trI2 (x : Ctx) (n : Nat) (v : W64) : (x.wrA n v).trI2 = x.trI2 := by
  unfold Ctx.wrA; split <;> rfl
@[simp] theorem Ctx.wrA_trI3 (x : Ctx) (n : Nat) (v : W64) : (x.wrA n v).trI3 = x.trI3 := by
  unfold Ctx.wrA; split <;> rfl
@[simp] theorem Ctx.wrA_mxStat (x : Ctx) (n : Nat) (v : W64) : (x.wrA n v).mxStat = x.mxStat := by
  unfold Ctx.wrA; split <;> rfl
@[simp] theorem Ctx.wrA_mxMode (x : Ctx) (n : Nat) (v : W64) : (x.wrA n v).mxMode = x.mxMode := by
  unfold Ctx.wrA; split <;> rfl
@[simp] theorem Ctx.wrA_mxCoord (x : Ctx) (n : Nat) (v : W64) : (x.wrA n v).mxCoord = x.mxCoord := by
  unfold Ctx.wrA; split <;> rfl
@[simp] theorem Ctx.wrA_mxDue (x : Ctx) (n : Nat) (v : W64) : (x.wrA n v).mxDue = x.mxDue := by
  unfold Ctx.wrA; split <;> rfl
@[simp] theorem Ctx.wrA_segPc (x : Ctx) (n : Nat) (v : W64) : (x.wrA n v).segPc = x.segPc := by
  unfold Ctx.wrA; split <;> rfl
@[simp] theorem Ctx.wrA_commits (x : Ctx) (n : Nat) (v : W64) : (x.wrA n v).commits = x.commits := by
  unfold Ctx.wrA; split <;> rfl
@[simp] theorem Ctx.wrA_rewinds (x : Ctx) (n : Nat) (v : W64) : (x.wrA n v).rewinds = x.rewinds := by
  unfold Ctx.wrA; split <;> rfl
@[simp] theorem Ctx.wrA_snap (x : Ctx) (n : Nat) (v : W64) : (x.wrA n v).snap = x.snap := by
  unfold Ctx.wrA; split <;> rfl
@[simp] theorem Ctx.wrA_loop (x : Ctx) (n : Nat) (v : W64) : (x.wrA n v).loop = x.loop := by
  unfold Ctx.wrA; split <;> rfl
@[simp] theorem Ctx.wrA_susp (x : Ctx) (n : Nat) (v : W64) : (x.wrA n v).susp = x.susp := by
  unfold Ctx.wrA; split <;> rfl
@[simp] theorem Ctx.wrA_pend (x : Ctx) (n : Nat) (v : W64) : (x.wrA n v).pend = x.pend := by
  unfold Ctx.wrA; split <;> rfl
@[simp] theorem Ctx.wrA_frozen (x : Ctx) (n : Nat) (v : W64) : (x.wrA n v).frozen = x.frozen := by
  unfold Ctx.wrA; split <;> rfl
@[simp] theorem Ctx.wrA_cmds (x : Ctx) (n : Nat) (v : W64) : (x.wrA n v).cmds = x.cmds := by
  unfold Ctx.wrA; split <;> rfl
@[simp] theorem Ctx.wrA_cmdSeq (x : Ctx) (n : Nat) (v : W64) : (x.wrA n v).cmdSeq = x.cmdSeq := by
  unfold Ctx.wrA; split <;> rfl
@[simp] theorem Ctx.wrA_faults (x : Ctx) (n : Nat) (v : W64) : (x.wrA n v).faults = x.faults := by
  unfold Ctx.wrA; split <;> rfl
@[simp] theorem Ctx.wrA_guard (x : Ctx) (n : Nat) (v : W64) : (x.wrA n v).guard = x.guard := by
  unfold Ctx.wrA; split <;> rfl
@[simp] theorem Ctx.wrA_mon (x : Ctx) (n : Nat) (v : W64) : (x.wrA n v).mon = x.mon := by
  unfold Ctx.wrA; split <;> rfl
@[simp] theorem Ctx.wrA_monSeq (x : Ctx) (n : Nat) (v : W64) : (x.wrA n v).monSeq = x.monSeq := by
  unfold Ctx.wrA; split <;> rfl
@[simp] theorem Ctx.wrA_counted (x : Ctx) (n : Nat) (v : W64) : (x.wrA n v).counted = x.counted := by
  unfold Ctx.wrA; split <;> rfl
@[simp] theorem Ctx.wrA_rdvs (x : Ctx) (n : Nat) (v : W64) : (x.wrA n v).rdvs = x.rdvs := by
  unfold Ctx.wrA; split <;> rfl
@[simp] theorem Ctx.wrA_gtrap (x : Ctx) (n : Nat) (v : W64) : (x.wrA n v).gtrap = x.gtrap := by
  unfold Ctx.wrA; split <;> rfl
@[simp] theorem Ctx.wrA_ltrap (x : Ctx) (n : Nat) (v : W64) : (x.wrA n v).ltrap = x.ltrap := by
  unfold Ctx.wrA; split <;> rfl
@[simp] theorem Ctx.wrA_stCrc (x : Ctx) (n : Nat) (v : W64) : (x.wrA n v).stCrc = x.stCrc := by
  unfold Ctx.wrA; split <;> rfl
@[simp] theorem Ctx.wrA_dom (x : Ctx) (n : Nat) (v : W64) : (x.wrA n v).dom = x.dom := by
  unfold Ctx.wrA; split <;> rfl
@[simp] theorem Ctx.wrA_launch (x : Ctx) (n : Nat) (v : W64) : (x.wrA n v).launch = x.launch := by
  unfold Ctx.wrA; split <;> rfl
@[simp] theorem Ctx.wrA_tag (x : Ctx) (n : Nat) (v : W64) : (x.wrA n v).tag = x.tag := by
  unfold Ctx.wrA; split <;> rfl
@[simp] theorem Ctx.wrA_vi (x : Ctx) (n : Nat) (v : W64) : (x.wrA n v).vi = x.vi := by
  unfold Ctx.wrA; split <;> rfl
@[simp] theorem Ctx.wrA_notB (x : Ctx) (n : Nat) (v : W64) : (x.wrA n v).notB = x.notB := by
  unfold Ctx.wrA; split <;> rfl
@[simp] theorem Ctx.wrA_saved (x : Ctx) (n : Nat) (v : W64) : (x.wrA n v).saved = x.saved := by
  unfold Ctx.wrA; split <;> rfl
@[simp] theorem Ctx.wrA_wake (x : Ctx) (n : Nat) (v : W64) : (x.wrA n v).wake = x.wake := by
  unfold Ctx.wrA; split <;> rfl
@[simp] theorem Ctx.wrA_again (x : Ctx) (n : Nat) (v : W64) : (x.wrA n v).again = x.again := by
  unfold Ctx.wrA; split <;> rfl

@[simp] theorem Ctx.rdS_wrS_self (x : Ctx) (n : Nat) (v : W64) : (x.wrS n v).rdS n = v := by
  simp [Ctx.rdS, Ctx.wrS]

theorem Ctx.rdS_wrS_other (x : Ctx) {n m : Nat} (v : W64) (h : m ≠ n) : (x.wrS n v).rdS m = x.rdS m := by
  simp [Ctx.rdS, Ctx.wrS, AMap.get_set_other _ _ _ h]

theorem Ctx.rdA_wrA_self (x : Ctx) {n : Nat} (v : W64) (h : n ≠ 0) : (x.wrA n v).rdA n = v := by
  simp [Ctx.rdA, Ctx.wrA, h]

theorem Ctx.rdA_wrA_other (x : Ctx) {n m : Nat} (v : W64) (h : m ≠ n) : (x.wrA n v).rdA m = x.rdA m := by
  unfold Ctx.wrA
  split
  · rfl
  · simp only [Ctx.rdA]
    split
    · rfl
    · exact AMap.get_set_other _ _ _ h

@[simp] theorem Ctx.rdA_zero (x : Ctx) : x.rdA 0 = 0 := rfl

@[simp] theorem Ctx.wrA_zero (x : Ctx) (v : W64) : x.wrA 0 v = x := rfl

end Sys2Proof.Machine
end

