-- ==== Sys2Proof/Laws/Issue.lean ====
section
/-!
SUPPORT. What the issue of a bundle of one slot does, said once: when nothing but the slot decides, `exec` answers
the machine with the slot's effects, and the end of the bundle leaves the rest alone.
-/

namespace Sys2Proof.Machine

/-! ## The end of a bundle -/

theorem Ctx.addIncs_frame (x : Ctx) (incs : List (Nat × Int)) : (x.addIncs incs).frame = x.frame := by
  unfold Ctx.addIncs
  induction incs generalizing x with
  | nil => rfl
  | cons p ps ih =>
    rw [List.foldl_cons, ih]
    unfold Ctx.wrA
    split <;> rfl

theorem Ctx.addIncs_keeps (x : Ctx) (incs : List (Nat × Int)) :
    (x.addIncs incs).s = x.s ∧ (x.addIncs incs).retired = x.retired ∧ (x.addIncs incs).ntiles = x.ntiles ∧
      (x.addIncs incs).snap = x.snap ∧ (x.addIncs incs).again = x.again := by
  unfold Ctx.addIncs
  induction incs generalizing x with
  | nil => exact ⟨rfl, rfl, rfl, rfl, rfl⟩
  | cons p ps ih =>
    rw [List.foldl_cons]
    obtain ⟨h1, h2, h3, h4, h5⟩ := ih (x.wrA p.1 (x.rdA p.1 + BitVec.ofInt 64 p.2))
    have hw : (x.wrA p.1 (x.rdA p.1 + BitVec.ofInt 64 p.2)).snap = x.snap ∧
        (x.wrA p.1 (x.rdA p.1 + BitVec.ofInt 64 p.2)).again = x.again := by
      unfold Ctx.wrA
      split <;> exact ⟨rfl, rfl⟩
    exact ⟨h1.trans (by simp), h2.trans (by simp), h3.trans (by simp), h4.trans hw.1, h5.trans hw.2⟩

theorem Ctx.addIncs_rdA (x : Ctx) (incs : List (Nat × Int)) (n : Nat) (h : ∀ p ∈ incs, p.1 ≠ n) :
    (x.addIncs incs).rdA n = x.rdA n := by
  unfold Ctx.addIncs
  induction incs generalizing x with
  | nil => rfl
  | cons p ps ih =>
    rw [List.foldl_cons, ih _ fun q hq => h q (by simp [hq])]
    exact Ctx.rdA_wrA_other _ _ fun e => h p (by simp) e.symm

/-- A step of a nest writes only the a-registers of its levels (R133). -/
theorem nestStep_aregs (ls : List Level) {ls' : List Level} {incs : List (Nat × Int)}
    (h : nestStep ls = some (ls', incs)) : ∀ p ∈ incs, ∃ v ∈ ls, v.areg = p.1 := by
  induction ls generalizing ls' incs with
  | nil => simp [nestStep] at h
  | cons l ls ih =>
    simp only [nestStep] at h
    split at h
    · obtain ⟨-, rfl⟩ := by simpa using h
      intro p hp
      exact ⟨l, by simp, by simp at hp; simp [hp]⟩
    · split at h
      · cases h
      · rename_i ls2 incs2 h2
        obtain ⟨-, rfl⟩ := by simpa using h
        intro p hp
        rcases List.mem_cons.1 hp with rfl | hp
        · exact ⟨l, by simp, rfl⟩
        · obtain ⟨v, hv, e⟩ := ih h2 p hp
          exact ⟨v, by simp [hv], e⟩

/-- Where a context goes on moves only what `Ctx.Ended` lists. -/
theorem Ctx.advance_keeps (x : Ctx) (ad : Advance) :
    (x.advance ad).frame = x.frame ∧ (x.advance ad).s = x.s ∧ (x.advance ad).retired = x.retired ∧
      (x.advance ad).ntiles = x.ntiles ∧ (x.advance ad).snap = x.snap ∧ (x.advance ad).again = x.again ∧
      ∀ n, (∀ l, x.loop = some l → ∀ v ∈ l.levels, v.areg ≠ n) → (x.advance ad).rdA n = x.rdA n := by
  cases ad with
  | jump t skip => cases skip <;> exact ⟨rfl, rfl, rfl, rfl, rfl, rfl, fun _ _ => rfl⟩
  | onto t => exact ⟨rfl, rfl, rfl, rfl, rfl, rfl, fun _ _ => rfl⟩
  | next a plain =>
    cases plain with
    | true => exact ⟨rfl, rfl, rfl, rfl, rfl, rfl, fun _ _ => rfl⟩
    | false =>
      show (x.loopOn a).frame = _ ∧ (x.loopOn a).s = _ ∧ (x.loopOn a).retired = _ ∧ (x.loopOn a).ntiles = _ ∧
        (x.loopOn a).snap = _ ∧ (x.loopOn a).again = _ ∧ ∀ n, _ → (x.loopOn a).rdA n = _
      unfold Ctx.loopOn
      split
      · exact ⟨rfl, rfl, rfl, rfl, rfl, rfl, fun _ _ => rfl⟩
      · rename_i l hl
        split
        · exact ⟨rfl, rfl, rfl, rfl, rfl, rfl, fun _ _ => rfl⟩
        · split
          · exact ⟨rfl, rfl, rfl, rfl, rfl, rfl, fun _ _ => rfl⟩
          · rename_i ls incs hs
            obtain ⟨h1, h2, h3, h4, h5⟩ := Ctx.addIncs_keeps
              { x with loop := some { l with levels := ls, cnt := 0 }, pc := l.start } incs
            refine ⟨(Ctx.addIncs_frame _ _).trans rfl, h1, h2, h3, h4, h5, fun n hn => ?_⟩
            rw [Ctx.addIncs_rdA]
            · rfl
            · intro p hp e
              obtain ⟨v, hv, e2⟩ := nestStep_aregs _ hs p hp
              exact hn l hl v hv (e2.trans e)

/-- Coordinates that are written move the registers they name, and the snapshot that keeps them. -/
theorem putTiles_keeps (x : Ctx) (ts : List Ntile) :
    (ts.foldl Ctx.putTile x).frame = x.frame ∧ (ts.foldl Ctx.putTile x).retired = x.retired ∧
      (ts.foldl Ctx.putTile x).a = x.a ∧ (ts.foldl Ctx.putTile x).again = x.again ∧
      (ts.foldl Ctx.putTile x).snap.isSome = x.snap.isSome ∧
      ∀ n, (∀ t ∈ ts, t.reg ≠ n) → (ts.foldl Ctx.putTile x).rdS n = x.rdS n := by
  induction ts generalizing x with
  | nil => exact ⟨rfl, rfl, rfl, rfl, rfl, fun _ _ => rfl⟩
  | cons t ts ih =>
    rw [List.foldl_cons]
    obtain ⟨h1, h2, h3, h4, h5, h6⟩ := ih (x.putTile t)
    have hp : (x.putTile t).frame = x.frame ∧ (x.putTile t).retired = x.retired ∧ (x.putTile t).a = x.a ∧
        (x.putTile t).again = x.again ∧ (x.putTile t).snap.isSome = x.snap.isSome ∧
        ∀ n, t.reg ≠ n → (x.putTile t).rdS n = x.rdS n := by
      unfold Ctx.putTile
      split
      · exact ⟨rfl, rfl, rfl, rfl, rfl, fun _ _ => rfl⟩
      · exact ⟨rfl, rfl, rfl, rfl, Option.isSome_map, fun n hn => Ctx.rdS_wrS_other x (t.val.getD 0) hn.symm⟩
    obtain ⟨g1, g2, g3, g4, g5, g6⟩ := hp
    exact ⟨h1.trans g1, h2.trans g2, h3.trans g3, h4.trans g4, h5.trans g5, fun n hn =>
      (h6 n fun q hq => hn q (by simp [hq])).trans (g6 n (hn t (by simp)))⟩

theorem Ctx.ntileDue_keeps {x y : Ctx} {n : Nat} (h : x.ntileDue n = some y) :
    y.frame = x.frame ∧ y.retired = x.retired ∧ y.a = x.a ∧ y.again = x.again ∧
      (y.snap.isSome = x.snap.isSome ∧ (x.ntiles = [] → y.snap = x.snap)) ∧
      ∀ m, (∀ t ∈ x.ntiles, t.reg ≠ m) → y.rdS m = x.rdS m := by
  unfold Ctx.ntileDue at h
  simp only at h
  split at h
  · cases h
    obtain ⟨h1, h2, h3, h4, h5, h6⟩ := putTiles_keeps { x with ntiles := x.ntiles.filter fun t => !t.due n }
      (x.ntiles.filter (·.due n))
    refine ⟨h1, h2, h3, h4, ⟨h5, fun e => by rw [e]; rfl⟩, fun m hm => ?_⟩
    rw [h6 m fun t ht => hm t (List.mem_filter.1 ht).1]
    rfl
  · cases h

/-- A context past its bundle, but for the bundle's count. -/
theorem Ctx.goOn_keeps (x : Ctx) (ad : Advance) :
    (x.goOn ad).frame = x.frame ∧ (x.goOn ad).retired = x.retired ∧ (x.goOn ad).again = x.again ∧
      ((x.goOn ad).snap.isSome = x.snap.isSome ∧ (x.ntiles = [] → (x.goOn ad).snap = x.snap)) ∧
      (∀ n, (∀ t ∈ x.ntiles, t.reg ≠ n) → (x.goOn ad).rdS n = x.rdS n) ∧
      ∀ n, (∀ l, x.loop = some l → ∀ v ∈ l.levels, v.areg ≠ n) → (x.goOn ad).rdA n = x.rdA n := by
  obtain ⟨h1, h2, h3, h4, h5, h6, h7⟩ := Ctx.advance_keeps x ad
  unfold Ctx.goOn
  simp only
  split
  · rename_i z hz
    obtain ⟨g1, g2, g3, g4, ⟨g5, g6⟩, g7⟩ := Ctx.ntileDue_keeps hz
    refine ⟨g1.trans h1, g2.trans h3, g4.trans h6, ⟨?_, fun e => ?_⟩, fun n hn => ?_, fun n hn => ?_⟩
    · show z.snap.isSome = _
      rw [g5, h5]
    · show z.snap = _
      rw [g6 (h4.trans e), h5]
    · show z.rdS n = _
      rw [g7 n (by rw [h4]; exact hn)]
      simp [Ctx.rdS, h2]
    · show z.rdA n = _
      rw [← h7 n hn]
      simp [Ctx.rdA, g3]
  · refine ⟨h1, h3, h6, ⟨congrArg _ h5, fun _ => h5⟩, fun n _ => ?_, fun n hn => h7 n hn⟩
    show (x.advance ad).rdS n = _
    simp [Ctx.rdS, h2]

theorem Core.frame_with (c : Core) (a : Bool) (b d : Nat) :
    ({ c with leave := a, issueAt := b, last := d } : Core).frame = c.frame := rfl

/-- A lock that ends or counts on changes nothing but the lock. -/
theorem Core.lockOn_eq (c : Core) (j : Nat) (b : Bool) : ∃ l, c.lockOn j b = { c with lock := l } := by
  unfold Core.lockOn
  split
  · exact ⟨c.lock, rfl⟩
  · split
    · exact ⟨c.lock, rfl⟩
    · split <;> exact ⟨_, rfl⟩

@[simp] theorem Core.freshRows_issueAt (c : Core) (rows : List (Nat × Nat)) : (c.freshRows rows).issueAt = c.issueAt := rfl

/-- Without a loop or a coordinate on its way, no register is written as a context goes on. -/
theorem Ctx.goRows_nil (x : Ctx) (j : Nat) (a : Advance) (hl : x.loop = none) (hn : x.ntiles = []) :
    x.goRows j a = [] := by
  unfold Ctx.goRows
  cases a <;> simp [hl, hn]

/-- What the end of a bundle makes of its core: the context that has issued, its lock, the errors of rows that are
written whole, and its issue cycles. -/
theorem Core.finish_eq (c : Core) (e : Env) (now : Nat) (f : Flow) :
    ∃ (x : Ctx) (rows : List (Nat × Nat)) (l : Option Lock) (lv : Bool) (n : Nat),
      c.finish e now f = { (c.setCtx e.j x).freshRows rows with lock := l, leave := lv, issueAt := n, last := now } ∧
      Ctx.Ended (c.ctx e.j) x ∧ ((c.ctx e.j).loop = none → (c.ctx e.j).ntiles = [] → rows = []) := by
  have hag : ∀ {α : Type} (o : Option α) (b d : Bool) (p : α → Bool),
      (o = none → (if b then o else if d then o.filter p else none) = none) ∧
        (b = true → (if b then o else if d then o.filter p else none) = o) := by
    intro α o b d p
    refine ⟨?_, fun h => by rw [h]; rfl⟩
    rintro rfl
    cases b <;> cases d <;> rfl
  unfold Core.finish
  simp only
  obtain ⟨l, hl⟩ := Core.lockOn_eq ((c.setCtx e.j _).freshRows _) e.j _
  rw [hl]
  refine ⟨_, _, l, _, _, rfl, ?_, ?_⟩
  · split
    · exact ⟨rfl, fun _ _ => rfl, fun _ _ => rfl, rfl, ⟨rfl, fun _ => rfl⟩, hag (c.ctx e.j).again (c.ctx e.j).inTrap f.done _⟩
    · split
      · obtain ⟨h1, h2, h3, h4, h5, h6⟩ := Ctx.goOn_keeps
          { c.ctx e.j with
            retired := (c.ctx e.j).retired + 1, bundles := (c.ctx e.j).bundles + 1,
            counted := if c.othersReady e.j then (c.ctx e.j).counted + 1 else (c.ctx e.j).counted,
            lastHdr := e.pc, pc := e.pc, half := e.pc / 0x8000,
            again := if (c.ctx e.j).inTrap then (c.ctx e.j).again
              else if f.done then (c.ctx e.j).again.filter (·.1 == (c.ctx e.j).pc) else none }
          (advanceOf e (c.ctx e.j) f)
        exact ⟨h1, h5, h6, h2, h4, by rw [h3]; exact hag (c.ctx e.j).again (c.ctx e.j).inTrap f.done _⟩
      · exact ⟨rfl, fun _ _ => rfl, fun _ _ => rfl, rfl, ⟨rfl, fun _ => rfl⟩, hag (c.ctx e.j).again (c.ctx e.j).inTrap f.done _⟩
  · intro h0 h1
    split
    · rfl
    · exact Ctx.goRows_nil _ _ _ h0 h1

/-- The end of a bundle leaves alone what `Ended` says. -/
theorem finish_ended (u : State) (e : Env) (now : Nat) (f : Flow) :
    State.Ended e.k e.j u ((u.modCore e.k fun c => c.finish e now f).fresh) := by
  have hc : ((u.modCore e.k fun c => c.finish e now f).fresh).core e.k = (u.core e.k).finish e now f := by
    simp [State.core_fresh]
  obtain ⟨x, rows, l, lv, n, hf, hx, hr⟩ := (u.core e.k).finish_eq e now f
  rw [hf] at hc
  have hj : ({ ((u.core e.k).setCtx e.j x).freshRows rows with lock := l, leave := lv, issueAt := n, last := now } :
      Core).ctx e.j = x := Core.ctx_setCtx_self ..
  have ho : ∀ m, m ≠ e.k → ((u.modCore e.k fun c => c.finish e now f).fresh).core m = u.core m := fun m hm => by
    rw [State.core_fresh, State.core_modCore_other _ _ hm]
  refine ⟨rfl, ho, by rw [hc]; rfl, fun m hm => by rw [hc]; exact Core.ctx_setCtx_other _ _ hm, ?_, ?_, ?_, ?_,
    fun _ => rfl, fun _ => rfl, fun _ => rfl⟩
  · rw [show ((u.modCore e.k fun c => c.finish e now f).fresh).ctx e.k e.j = x from
      (congrArg (fun c : Core => c.ctx e.j) hc).trans hj]
    exact hx
  · rw [hc]
    refine ⟨fun f hf => (List.mem_filter.1 hf).1, fun h0 h1 => ?_⟩
    rw [hr h0 h1]
    simp [Core.freshRows]
  · intro m a
    by_cases h : m = e.k
    · rw [h, hc]; rfl
    · rw [ho m h]
  · intro m a
    by_cases h : m = e.k
    · rw [h, hc]; rfl
    · rw [ho m h]

/-! ## A bundle of one slot -/

theorem applySlots_one (e : Env) (sl : Slot) (swap : Bool) (s : State) :
    applySlots e [sl] swap s = sl.apply e s := by
  obtain ⟨kd, raw, ins, sem⟩ := sl
  cases kd <;> cases swap <;> rfl

/-- A change that leaves the core as a first change made it. -/
theorem State.modCore_again (s : State) (k : Nat) {f g : Core → Core} (h : g (f (s.core k)) = f (s.core k)) :
    (s.modCore k f).modCore k g = s.modCore k f := by
  simp [State.modCore, h]

/-- A core with no flipped bit and no injected one has no bit in error (R293, R340). -/
theorem Core.rowFlips_clean {c : Core} (h : c.flips = []) (g : c.inject.getLsbD 0 = false) (a r : Nat) :
    c.rowFlips a r = 0 := by
  have hs : c.stuck a r = none := by
    unfold Core.stuck
    simp only [g, Bool.false_eq_true, false_and, if_false]
  simp [Core.rowFlips, Core.rowErrs, hs, h]

theorem Core.scrub_clean {c : Core} (h : c.flips = []) (g : c.inject.getLsbD 0 = false) (a r : Nat) :
    c.scrub a r = c := by
  simp [Core.scrub, Core.rowFlips_clean h g]

theorem Core.scrub_all_clean {c : Core} (h : c.flips = []) (g : c.inject.getLsbD 0 = false) (rows : List RowRef) :
    rows.foldl (fun c r => c.scrub r.1 r.2.1) c = c := by
  induction rows with
  | nil => rfl
  | cons r rs ih => rw [List.foldl_cons, Core.scrub_clean h g, ih]

theorem badRow_clean {e : Env} (h : e.c.flips = []) (g : e.c.inject.getLsbD 0 = false) (sl : Slot) :
    sl.badRow e = none := by
  simp [Slot.badRow, Core.rowFlips_clean h g]

/-- Nothing of a bundle has issued before, so that all of it issues (R290). -/
theorem issueBundle_whole {e : Env} (h : e.x.again = none) (slots : List Slot) (s : State) :
    issueBundle e slots s = issueWhole e slots s := by
  simp [issueBundle, Env.issuing, Env.slots, Env.goesAgain, h]

/-- No 0x16 is due at a bundle of a calm context (R230, R298). -/
theorem due16_of_calm {s : State} {k j : Nat} {i : Instr} (h : s.Calm k j i) : due16 (s.env k j i) = none := by
  have hg : (s.env k j i).x.gtrap = none := h.gtrap
  have hl : (s.env k j i).x.ltrap = none := h.ltrap
  simp [due16, hg, hl, h.clash]

theorem running_of_calm {s : State} {k j : Nat} {i : Instr} (h : s.Calm k j i) : s.running = some (k, j) := by
  have hr : ((s.core k).ctx j).isReady = true := by
    have := h.ready
    simp [State.ctx] at this
    simp [Ctx.isReady, this]
  simp [State.running, h.cur, h.run, hr]

theorem deferred_of_calm {s : State} {k j : Nat} {i : Instr} (h : s.Calm k j i) :
    deferred (s.env k j i) = none := by
  have hx : (s.env k j i).x = s.ctx k j := rfl
  unfold deferred
  simp only [hx]
  rcases h.faults with ht | ⟨hf, hg⟩
  · simp [ht]
  · simp [Ctx.dueFault, hf, hg]

/-- What the core counts before the effects of its bundle. -/
def State.counted (s : State) (k : Nat) : State := s.modCore k fun c => { c with ord := c.ord + 1 }

/-- A slot without an illegal field, of no other phase or privilege, whose own check passes: the bundle has the
slot's effects and its end (R146). -/
theorem issueOne_calm {s : State} {k j : Nat} {i : Instr} (m : Sem) (h : s.Calm k j i) (hw : i.wfError = none)
    (hp : m.priv (s.env k j i) = none) (hs : m.super.ok (s.ctx k j).phase = true)
    (hk : m.check (s.env k j i) = none) :
    issueOne i m s = .next (((m.post (s.env k j i) (m.eff (s.env k j i) (s.counted k))).modCore k fun c =>
      c.finish (s.env k j i) s.now (flowOf (s.env k j i) [slotOf i m])).fresh) := by
  have hsem : (slotOf i m).sem = m := rfl
  have hins : (slotOf i m).ins = .ok i := by simp [slotOf, hw]
  have htrap : (slotOf i m).trap (s.env k j i) = none := by
    have hx : (s.env k j i).x.phase = (s.ctx k j).phase := rfl
    simp [Slot.trap, hins, hsem, hk, hp, hx, hs, badRow_clean (e := s.env k j i) h.flips h.inject]
  simp only [issueOne, running_of_calm h, h.alone]
  rw [issueBundle_whole (e := s.env k j i) h.again]
  simp only [issueWhole, due16_of_calm h, firstTrap, htrap, deferred_of_calm h]
  congr 1
  unfold commitBundle
  simp only [applySlots_one, Slot.apply, hsem, List.foldl_cons, List.foldl_nil]
  have hb : (s.counted k).modCore k (fun c => (m.rows (s.env k j i)).foldl (fun c r => c.scrub r.1 r.2.1) c) =
      s.counted k :=
    State.modCore_again s k (Core.scrub_all_clean (c := { s.core k with ord := (s.core k).ord + 1 })
      h.flips h.inject _)
  exact congrArg (fun u => State.fresh (State.modCore (m.post (s.env k j i) (m.eff (s.env k j i) u)) k fun c =>
    c.finish (s.env k j i) s.now (flowOf (s.env k j i) [slotOf i m]))) hb

/-- The count that a bundle takes for its results is no effect of it. -/
theorem State.Ended.uncount {k j : Nat} {u t : State} (h : State.Ended k j (u.counted k) t) :
    State.Ended k j u t := by
  have hc : (u.counted k).core k = { u.core k with ord := (u.core k).ord + 1 } := by simp [State.counted]
  have ho : ∀ n, n ≠ k → (u.counted k).core n = u.core n := fun n hn => State.core_modCore_other u _ hn
  obtain ⟨h1, h2, h3, h4, h5, hfl, h6, h7, h8, h9, h10⟩ := h
  refine ⟨h1, fun n hn => (h2 n hn).trans (ho n hn), by rw [h3, hc]; rfl, fun n hn => ?_, ?_, ?_, fun n a => ?_,
    fun n a => ?_, h8, h9, h10⟩
  · rw [h4 n hn, hc]; rfl
  · rw [State.ctx, hc] at h5; exact h5
  · rw [State.ctx, hc] at hfl; exact hfl
  · rw [h6 n a]
    by_cases e : n = k
    · subst e; rw [hc]; rfl
    · rw [ho n e]
  · rw [h7 n a]
    by_cases e : n = k
    · subst e; rw [hc]
    · rw [ho n e]

@[simp] theorem flowOf_one (e : Env) (sl : Slot) : flowOf e [sl] = sl.sem.flow e := by
  unfold flowOf
  cases h : sl.sem.flow e
  simp [List.foldl, h]

theorem Ctx.goOn_plain (x y : Ctx) (e : Env) (hy : y.loop = none) (hl : x.loop = none) (hn : x.ntiles = [])
    (hr : e.x.again = none) :
    (x.goOn (advanceOf e y {})).pc = e.next ∧ (x.goOn (advanceOf e y {})).status = .ready := by
  have ha : advanceOf e y {} = .next e.next false := by simp [advanceOf, Env.goesAgain, hy, hr]
  have hd : x.advance (.next e.next false) = { x with pc := e.next } := by
    show x.loopOn e.next = _
    unfold Ctx.loopOn
    rw [hl]
  rw [ha]
  unfold Ctx.goOn
  rw [hd]
  simp [Ctx.ntileDue, hn]

/-- A plain bundle goes on with the one behind it. -/
theorem finish_goesOn {s u : State} {k j : Nat} {i : Instr} (hl : (u.ctx k j).loop = (s.ctx k j).loop)
    (hn : (u.ctx k j).ntiles = (s.ctx k j).ntiles) (hi : (u.core k).issueAt = (s.core k).issueAt)
    (hr : (s.ctx k j).again = none) :
    s.GoesOn k j i ((u.modCore k fun c => c.finish (s.env k j i) s.now {}).fresh) := by
  intro h0 h1
  rw [h0] at hl
  rw [h1] at hn
  have hlk : ∀ (c : Core) (b : Bool), (c.lockOn j b).ctxs = c.ctxs ∧ (c.lockOn j b).issueAt = c.issueAt := by
    intro c b
    unfold Core.lockOn
    split
    · exact ⟨rfl, rfl⟩
    · split
      · exact ⟨rfl, rfl⟩
      · split <;> exact ⟨rfl, rfl⟩
  have hc : ((u.modCore k fun c => c.finish (s.env k j i) s.now {}).fresh).core k =
      (u.core k).finish (s.env k j i) s.now {} := by simp [State.core_fresh]
  have hj : (s.env k j i).j = j := rfl
  have hx0 : ((u.core k).ctx j).loop = none := hl
  have hx1 : ((u.core k).ctx j).ntiles = [] := hn
  have key : (((u.core k).finish (s.env k j i) s.now {}).ctx j).pc = (s.ctx k j).pc + bundleOf i ∧
      (((u.core k).finish (s.env k j i) s.now {}).ctx j).status = .ready := by
    unfold Core.finish
    simp only [hj]
    rw [show ∀ (c : Core) (x : Ctx) (rs : List (Nat × Nat)) (b : Bool) (p : Bool) (q r : Nat),
        ({ ((c.setCtx j x).freshRows rs).lockOn j b with leave := p, issueAt := q, last := r } : Core).ctx j = x from
      fun c x rs b _ _ _ => (congrArg (fun m : AMap Ctx => AMap.get m j {}) (hlk ((c.setCtx j x).freshRows rs) b).1).trans
        (Core.ctx_setCtx_self ..)]
    exact Ctx.goOn_plain _ _ (s.env k j i) hx0 hx0 hx1 hr
  refine ⟨?_, ?_, ?_⟩
  · rw [State.ctx, hc]; exact key.1
  · rw [State.ctx, hc]; exact key.2
  · rw [hc]
    unfold Core.finish
    simp only [hj, (hlk _ _).2, Core.freshRows_issueAt, Core.setCtx_issueAt, hi]
    simp

/-- A plain slot completes with its effects. -/
theorem completes_of_calm {s : State} {k j : Nat} {i : Instr} (m : Sem) (u : State) (h : s.Calm k j i)
    (hx : exec i s = issueOne i m s) (hw : i.wfError = none) (hp : m.priv (s.env k j i) = none)
    (hs : m.super.ok (s.ctx k j).phase = true) (hk : m.check (s.env k j i) = none)
    (hu : m.post (s.env k j i) (m.eff (s.env k j i) (s.counted k)) = u.counted k)
    (hf : m.flow (s.env k j i) = {}) (hl : (u.ctx k j).loop = (s.ctx k j).loop)
    (hn : (u.ctx k j).ntiles = (s.ctx k j).ntiles) (hi : (u.core k).issueAt = (s.core k).issueAt) :
    Completes i s k j u := by
  have hsem : (slotOf i m).sem = m := rfl
  refine ⟨_, hx.trans (issueOne_calm m h hw hp hs hk), ?_, ?_⟩
  · rw [hu]
    exact (finish_ended (u.counted k) (s.env k j i) s.now _).uncount
  · rw [hu, flowOf_one, hsem, hf]
    have hc : (u.counted k).core k = { u.core k with ord := (u.core k).ord + 1 } := by simp [State.counted]
    apply finish_goesOn
    · rw [← hl, State.ctx, hc]; rfl
    · rw [← hn, State.ctx, hc]; rfl
    · rw [hc]; exact hi
    · exact h.again

end Sys2Proof.Machine
end

