-- ==== Sys2Proof/Laws/Results.lean ====
section
/-!
SUPPORT. What issuing a result does (R131), where no other result for the same destination is in flight.
-/

namespace Sys2Proof.Machine

theorem lanesLeft_none {ps : List Pend} {d : Dest} (h : ∀ p ∈ ps, p.dest ≠ d) (due : Nat) (lanes : BitVec 32) :
    lanesLeft ps d due lanes = lanes := by
  unfold lanesLeft
  induction ps generalizing lanes with
  | nil => rfl
  | cons p ps ih =>
    have hp : p.dest ≠ d := h p (by simp)
    rw [List.foldl_cons, ih fun q hq => h q (by simp [hq])]
    simp [hp]

theorem supersede_none {p : Pend} {ps : List Pend} (h : ∀ q ∈ ps, q.dest ≠ p.dest) : supersede p ps = ps := by
  unfold supersede
  induction ps with
  | nil => rfl
  | cons q qs ih =>
    have hq : q.dest ≠ p.dest := h q (by simp)
    rw [List.filterMap_cons]
    have := ih fun r hr => h r (by simp [hr])
    simp only [hq, false_and, if_false]
    exact congrArg (q :: ·) this

theorem Core.fresh_clean {c : Core} (h : c.flips = []) (a r : Nat) : c.fresh a r = c := by
  cases c
  simp_all [Core.fresh]

/-- A result of latency 1 for an s-register is there at once. -/
theorem Core.result_sreg {c : Core} {j : Nat} {n : Nat} (hf : c.flips = [])
    (hn : (c.ctx j).NoneFor (.sreg n)) (now free : Nat) (v : W64) (hb : Nat) :
    c.result now free j (.sreg n) allLanes (v.zeroExtend 1024) 1 hb = c.setCtx j ((c.ctx j).wrS n v) := by
  have hl := lanesLeft_none hn (now + 1) allLanes
  have hv : (v.zeroExtend 1024).extractLsb' 0 64 = v := by
    apply BitVec.eq_of_getLsbD_eq
    intro i hi
    simp [hi]
    omega
  have ha : allLanes ≠ 0 := by decide
  simp only [Core.result, hl, Nat.le_refl, ite_true, Core.deliver, ha, Bool.false_eq_true, or_self, ite_false,
    Nat.lt_irrefl, List.append_nil]
  have hps : ∀ p : Pend, p.dest = .sreg n → (c.ctx j).pend.filter (· != p) = (c.ctx j).pend := by
    intro p hp
    rw [List.filter_eq_self]
    intro q hq
    have : q ≠ p := fun e => hn q hq (e ▸ hp)
    simp [this]
  rw [hps _ rfl, supersede_none fun q hq => hn q hq]
  simp only [Core.wrDest, hv]
  rw [Core.fresh_clean (c := c.setCtx j ((c.ctx j).wrS n v)) hf]
  simp
  congr 1

/-- A result of latency 1 for an a-register is there at once; a0 stays zero. -/
theorem Core.result_areg {c : Core} {j : Nat} {n : Nat} (hf : c.flips = [])
    (hn : (c.ctx j).NoneFor (.areg n)) (now free : Nat) (v : W64) (hb : Nat) :
    c.result now free j (.areg n) allLanes (v.zeroExtend 1024) 1 hb = c.setCtx j ((c.ctx j).wrA n v) := by
  have hl := lanesLeft_none hn (now + 1) allLanes
  have hv : (v.zeroExtend 1024).extractLsb' 0 64 = v := by
    apply BitVec.eq_of_getLsbD_eq
    intro i hi
    simp [hi]
    omega
  have ha : allLanes ≠ 0 := by decide
  simp only [Core.result, hl, Nat.le_refl, ite_true, Core.deliver, ha, Bool.false_eq_true, or_self, ite_false,
    Nat.lt_irrefl, List.append_nil]
  have hps : ∀ p : Pend, p.dest = .areg n → (c.ctx j).pend.filter (· != p) = (c.ctx j).pend := by
    intro p hp
    rw [List.filter_eq_self]
    intro q hq
    have : q ≠ p := fun e => hn q hq (e ▸ hp)
    simp [this]
  rw [hps _ rfl, supersede_none fun q hq => hn q hq]
  simp only [Core.wrDest, hv]
  rw [Core.fresh_clean (c := c.setCtx j ((c.ctx j).wrA n v)) hf]
  simp
  unfold Ctx.wrA
  split <;> rfl

/-- A longer result waits in flight. -/
theorem Core.result_later {c : Core} {j : Nat} {d : Dest} (hn : (c.ctx j).NoneFor d) (now free : Nat)
    (lanes : BitVec 32) (v : VReg) {lat : Nat} (hlat : 1 < lat) (hb : Nat) :
    c.result now free j d lanes v lat hb = c.setCtx j { c.ctx j with
      pend := (c.ctx j).pend ++ [{ dest := d, val := v, lanes := lanes, due := now + lat,
                                   at_ := landing now free d lat hb, ord := c.ord * 16 + hb }] } := by
  have hl := lanesLeft_none hn (now + lat) lanes
  simp [Core.result, hl, Nat.not_le.2 hlat]

/-- The delivery of a longer result lies within its latency. -/
theorem landing_bound (now free : Nat) (d : Dest) (hb : Nat) {lat : Nat} (hlat : 1 < lat) :
    now < landing now free d lat hb ∧ landing now free d lat hb ≤ now + lat := by
  have := Nat.mod_lt (Config.early free hb) (show 0 < lat by omega)
  cases d with
  | areg n => simp only [landing]; split <;> omega
  | _ => simp only [landing]; omega

theorem counted_modCtx (s : State) (k j : Nat) (f : Ctx → Ctx) :
    (s.counted k).modCtx k j f = (s.modCtx k j f).counted k := by
  simp only [State.modCtx, State.counted, State.modCore_modCore]
  rfl

/-- A slot whose only effect is a result of latency 1 in an s-register. -/
theorem delivers_sreg {s : State} {k j : Nat} {i : Instr} {n : Nat} {v : W64} (m : Sem) (h : s.Calm k j i)
    (hx : exec i s = issueOne i m s) (hw : i.wfError = none) (hp : m.priv (s.env k j i) = none)
    (hs : m.super.ok (s.ctx k j).phase = true) (hk : m.check (s.env k j i) = none)
    (hd : (s.ctx k j).NoneFor (.sreg n))
    (he : ∀ u, m.post (s.env k j i) (m.eff (s.env k j i) u) = putRes (s.env k j i) (.sreg n) v 1 0 u)
    (hf : m.flow (s.env k j i) = {}) : Completes i s k j (s.putS k j n v) := by
  refine completes_of_calm m _ h hx hw hp hs hk ?_ hf (by simp [State.putS]) (by simp [State.putS])
    (by simp [State.putS])
  rw [he]
  have hc : (s.counted k).core k = { s.core k with ord := (s.core k).ord + 1 } := by simp [State.counted]
  have := Core.result_sreg (c := (s.counted k).core k) (j := j) (n := n) (by rw [hc]; exact h.flips)
    (by rw [hc]; exact hd) (s.counted k).now (s.counted k).free v 0
  show (s.counted k).setCore k (((s.counted k).core k).result (s.counted k).now (s.counted k).free j (.sreg n)
    allLanes (v.zeroExtend 1024) 1 0) = _
  rw [this, State.putS, ← counted_modCtx]
  rfl

/-- A slot whose only effect is a longer result. -/
theorem delivers_later {s : State} {k j : Nat} {i : Instr} {d : Dest} {lanes : BitVec 32} {v : VReg} {lat hb : Nat}
    (m : Sem) (h : s.Calm k j i)
    (hx : exec i s = issueOne i m s) (hw : i.wfError = none) (hp : m.priv (s.env k j i) = none)
    (hs : m.super.ok (s.ctx k j).phase = true) (hk : m.check (s.env k j i) = none)
    (hd : (s.ctx k j).NoneFor d) (hlat : 1 < lat)
    (he : ∀ u, m.post (s.env k j i) (m.eff (s.env k j i) u) =
      u.modCore k fun c => c.result u.now u.free j d lanes v lat hb)
    (hf : m.flow (s.env k j i) = {}) : Delivers i s k j s d lanes v lat hb := by
  obtain ⟨b1, b2⟩ := landing_bound s.now s.free d hb hlat
  refine ⟨_, b1, b2, completes_of_calm m _ h hx hw hp hs hk ?_ hf (by simp [State.sends]) (by simp [State.sends])
    (by simp [State.sends])⟩
  rw [he]
  have hc : (s.counted k).core k = { s.core k with ord := (s.core k).ord + 1 } := by simp [State.counted]
  have := Core.result_later (c := (s.counted k).core k) (j := j) (d := d) (by rw [hc]; exact hd)
    (s.counted k).now (s.counted k).free lanes v hlat hb
  show (s.counted k).setCore k (((s.counted k).core k).result (s.counted k).now (s.counted k).free j d lanes v lat
    hb) = _
  rw [this, State.sends, ← counted_modCtx]
  unfold State.modCtx State.modCore
  rw [hc]
  rfl

end Sys2Proof.Machine
end

