-- ==== Sys2Proof/Laws/Ends.lean ====
section
/-!
SUPPORT. How a bundle of one slot ends: it goes on, transfers control, waits, or takes a trap (R25, R146, R175,
R287). Each lemma asks for what the meaning of the slot says, and gives the whole next state in the terms of Safety.
-/

namespace Sys2Proof.Machine

/-! ## The end of a bundle -/

theorem Core.lockOn_keeps (c : Core) (j : Nat) (b : Bool) :
    (c.lockOn j b).ctxs = c.ctxs ∧ (c.lockOn j b).issueAt = c.issueAt ∧ (c.lockOn j b).leave = c.leave := by
  unfold Core.lockOn
  split
  · exact ⟨rfl, rfl, rfl⟩
  · split
    · exact ⟨rfl, rfl, rfl⟩
    · split <;> exact ⟨rfl, rfl, rfl⟩

theorem Core.finish_ctx (c : Core) (e : Env) (now : Nat) (f : Flow) :
    (c.finish e now f).ctx e.j =
      let x := c.ctx e.j
      let x1 := { x with
        retired := x.retired + 1
        bundles := x.bundles + 1
        counted := if c.othersReady e.j then x.counted + 1 else x.counted }
      let x' := { x1 with
        lastHdr := e.pc
        pc := e.pc
        half := e.pc / 0x8000
        again := if x.inTrap then x.again
          else if f.done then x.again.filter (·.1 == x.pc) else none }
      if f.halt then x'
      else if f.waits = [] then x'.goOn (advanceOf e x f)
      else { x' with status := .blocked f.waits (advanceOf e x f) } := by
  unfold Core.finish
  simp only
  rw [show ∀ (c : Core) (x : Ctx) (rs : List (Nat × Nat)) (b : Bool) (p : Bool) (q r : Nat),
        ({ ((c.setCtx e.j x).freshRows rs).lockOn e.j b with leave := p, issueAt := q, last := r } : Core).ctx e.j = x from
      fun c x rs b _ _ _ => (congrArg (fun m : AMap Ctx => AMap.get m e.j {})
        (Core.lockOn_keeps ((c.setCtx e.j x).freshRows rs) e.j b).1).trans (Core.ctx_setCtx_self ..)]

theorem Core.finish_issueAt (c : Core) (e : Env) (now : Nat) (f : Flow) :
    (c.finish e now f).issueAt = max c.issueAt (if f.gap ∨ f.target.isSome then now + 3 else now + 1) := by
  unfold Core.finish
  simp only [(Core.lockOn_keeps _ _ _).2.1, Core.freshRows_issueAt, Core.setCtx_issueAt]

theorem State.core_counted (u : State) (k : Nat) :
    (u.counted k).core k = { u.core k with ord := (u.core k).ord + 1 } := by simp [State.counted]

theorem State.ctx_counted (u : State) (k j : Nat) : (u.counted k).ctx k j = u.ctx k j := by
  rw [State.ctx, State.core_counted]; rfl

theorem Ctx.ntileDue_place {x y : Ctx} {n : Nat} (h : x.ntileDue n = some y) :
    y.pc = x.pc ∧ y.half = x.half ∧ y.loop = x.loop := by
  have one : ∀ (x : Ctx) (t : Ntile),
      (x.putTile t).pc = x.pc ∧ (x.putTile t).half = x.half ∧ (x.putTile t).loop = x.loop := by
    intro x t
    unfold Ctx.putTile
    split <;> exact ⟨rfl, rfl, rfl⟩
  have key : ∀ (ts : List Ntile) (x : Ctx), (ts.foldl Ctx.putTile x).pc = x.pc ∧
      (ts.foldl Ctx.putTile x).half = x.half ∧ (ts.foldl Ctx.putTile x).loop = x.loop := by
    intro ts
    induction ts with
    | nil => intro x; exact ⟨rfl, rfl, rfl⟩
    | cons t ts ih =>
      intro x
      obtain ⟨h1, h2, h3⟩ := ih (x.putTile t)
      obtain ⟨g1, g2, g3⟩ := one x t
      exact ⟨h1.trans g1, h2.trans g2, h3.trans g3⟩
  unfold Ctx.ntileDue at h
  simp only at h
  split at h
  · cases h; exact key _ _
  · cases h

/-- A coordinate that is due moves no context to another place. -/
theorem Ctx.goOn_place (x : Ctx) (ad : Advance) : (x.goOn ad).pc = (x.advance ad).pc ∧
    (x.goOn ad).half = (x.advance ad).half ∧ (x.goOn ad).loop = (x.advance ad).loop := by
  unfold Ctx.goOn
  simp only
  split
  · rename_i z hz; obtain ⟨a1, a2, a3⟩ := Ctx.ntileDue_place hz; exact ⟨a1, a2, a3⟩
  · exact ⟨rfl, rfl, rfl⟩

/-! ## A slot that raises no trap -/

/-- A slot ends as its flow says. -/
theorem ends_of_calm {s : State} {k j : Nat} {i : Instr} (m : Sem) (u : State) (h : s.Calm k j i)
    (hx : exec i s = issueOne i m s) (hw : i.wfError = none) (hp : m.priv (s.env k j i) = none)
    (hs : m.super.ok (s.ctx k j).phase = true) (hk : m.check (s.env k j i) = none)
    (hu : m.post (s.env k j i) (m.eff (s.env k j i) (s.counted k)) = u.counted k) :
    ∃ t, exec i s = .next t ∧ State.Ended k j u t ∧
      t.core k = ((u.counted k).core k).finish (s.env k j i) s.now (m.flow (s.env k j i)) := by
  have hsem : (slotOf i m).sem = m := rfl
  refine ⟨_, hx.trans (issueOne_calm m h hw hp hs hk), ?_, ?_⟩
  · rw [hu]
    exact (finish_ended (u.counted k) (s.env k j i) s.now _).uncount
  · rw [hu, flowOf_one, hsem]
    simp [State.core_fresh]

/-- A slot whose only effect is a result for an s-register. -/
theorem givesS_of_calm {s : State} {k j : Nat} {i : Instr} {n lat : Nat} {v : W64} (m : Sem) (h : s.Calm k j i)
    (hx : exec i s = issueOne i m s) (hw : i.wfError = none) (hp : m.priv (s.env k j i) = none)
    (hs : m.super.ok (s.ctx k j).phase = true) (hk : m.check (s.env k j i) = none)
    (hd : (s.ctx k j).NoneFor (.sreg n)) (hlat : 1 ≤ lat)
    (he : ∀ u, m.post (s.env k j i) (m.eff (s.env k j i) u) = putRes (s.env k j i) (.sreg n) v lat 0 u)
    (hf : m.flow (s.env k j i) = {}) : GivesS i s k j n lat v := by
  unfold GivesS
  split
  · rename_i hl; subst hl
    exact delivers_sreg m h hx hw hp hs hk hd he hf
  · exact delivers_later m h hx hw hp hs hk hd (by omega) (fun u => he u) hf

/-- A slot that transfers control. -/
theorem transfers_of_calm {s : State} {k j : Nat} {i : Instr} (m : Sem) (u : State) (a : Nat) (h : s.Calm k j i)
    (hx : exec i s = issueOne i m s) (hw : i.wfError = none) (hp : m.priv (s.env k j i) = none)
    (hs : m.super.ok (s.ctx k j).phase = true) (hk : m.check (s.env k j i) = none)
    (hu : m.post (s.env k j i) (m.eff (s.env k j i) (s.counted k)) = u.counted k)
    (hf : m.flow (s.env k j i) = { target := some a }) (hi : (u.core k).issueAt = (s.core k).issueAt) :
    Transfers i s k j u a := by
  obtain ⟨t, h1, h2, h3⟩ := ends_of_calm m u h hx hw hp hs hk hu
  rw [hf] at h3
  have hj : (s.env k j i).j = j := rfl
  have hx := Core.finish_ctx ((u.counted k).core k) (s.env k j i) s.now { target := some a }
  rw [hj, ← h3] at hx
  have key : ∀ x : Ctx, (x.goOn (.jump a false)).pc = a ∧ (x.goOn (.jump a false)).half = a / 0x8000 ∧
      (x.goOn (.jump a false)).loop = none := fun x => Ctx.goOn_place x (.jump a false)
  have ha : ∀ x : Ctx, advanceOf (s.env k j i) x { target := some a } = .jump a false := fun x => by
    have : (s.env k j i).x.again = none := h.again
    simp [advanceOf, Env.goesAgain, this]
  simp only [ha] at hx
  refine ⟨t, h1, h2, ?_, ?_, ?_, ?_⟩
  · rw [State.ctx, hx]; exact (key _).1
  · rw [State.ctx, hx]; exact (key _).2.1
  · rw [State.ctx, hx]; exact (key _).2.2
  · rw [h3, Core.finish_issueAt, State.core_counted, ← hi]; simp

/-- A slot whose context waits. -/
theorem blocks_of_calm {s : State} {k j : Nat} {i : Instr} (m : Sem) (u : State) (ws : List Wait) (h : s.Calm k j i)
    (hx : exec i s = issueOne i m s) (hw : i.wfError = none) (hp : m.priv (s.env k j i) = none)
    (hs : m.super.ok (s.ctx k j).phase = true) (hk : m.check (s.env k j i) = none)
    (hu : m.post (s.env k j i) (m.eff (s.env k j i) (s.counted k)) = u.counted k)
    (hf : m.flow (s.env k j i) = { waits := ws }) (hn : ws ≠ [])
    (hl : (u.ctx k j).loop = (s.ctx k j).loop) : Blocks i s k j u ws := by
  obtain ⟨t, h1, h2, h3⟩ := ends_of_calm m u h hx hw hp hs hk hu
  rw [hf] at h3
  have hj : (s.env k j i).j = j := rfl
  have hx := Core.finish_ctx ((u.counted k).core k) (s.env k j i) s.now { waits := ws }
  rw [hj, ← h3] at hx
  have hu' : ((u.counted k).core k).ctx j = u.ctx k j := State.ctx_counted u k j
  refine ⟨t, h1, h2, ?_⟩
  rw [State.ctx, hx, hu']
  have hl' : (s.env k j i).x.loop = (u.ctx k j).loop := hl.symm
  have hr : (s.env k j i).x.again = none := h.again
  simp [hn, advanceOf, Env.goesAgain, hr, hl']
  rfl

/-! ## A slot that raises a trap -/

/-- The trap of a slot is taken before anything of the bundle happens, but for what the slot records. -/
theorem traps_of_calm {s : State} {k j : Nat} {i : Instr} (m : Sem) (t : Trap) (h : s.Calm k j i)
    (hx : exec i s = issueOne i m s) (ht : (slotOf i m).trap (s.env k j i) = some t) :
    exec i s = .next ((m.fail (s.env k j i) t s).takeTrap k j t (s.ctx k j).pc) := by
  rw [hx]
  simp only [issueOne, running_of_calm h, h.alone]
  rw [issueBundle_whole (e := s.env k j i) h.again]
  simp only [issueWhole, due16_of_calm h, firstTrap, ht]
  rfl

theorem image_slot (cause n : Nat) (i0 i1 i2 i3 : W64) (pp : Bool) :
    Trap.image { cause := cause, slot := some n, i0 := i0, i1 := i1, i2 := i2, i3 := i3 } pp =
      causeImage cause n pp := by
  unfold Trap.image causeImage
  cases pp <;> simp

/-- A context that has a handler enters it, and nothing else changes (R287). -/
theorem takeTrap_handled {s : State} {k j : Nat} (hc : s.CanHandle k j) (t : Trap) (pc : Nat) (hd : t.cause ≠ 8)
    (hs : t.cause = 9 → (s.ctx k j).inSeg = false) :
    s.takeTrap k j t pc = s.handled k j (t.image (s.ctx k j).priv) (BitVec.ofNat 64 pc) t.i0 t.i1 t.i2 t.i3 := by
  obtain ⟨hv, ht, hg, hp⟩ := hc
  have hl : s.loseMember k j = s := by simp [State.loseMember, hg]
  have h9 : ¬ (t.cause = 9 ∧ (s.ctx k j).inSeg = true) := fun h => by rw [hs h.1] at h; exact absurd h.2 (by decide)
  have ht' : ((s.core k).ctx j).inTrap = false := ht
  simp only [State.takeTrap, h9, if_false, hp, State.takeOne, State.takeAs, ht, Bool.false_and, Bool.false_eq_true, hl, ite_self, hv,
    hd, State.enter, State.handled]
  refine congrArg (fun c => State.setCore s k c) ?_
  simp only [Ctx.handling, ht']
  split <;> rfl

end Sys2Proof.Machine
end

