-- ==== Sys2Proof/Tests/Slice0.lean ====
section
/-!
SUPPORT. Tests. Expected values come from the manual: its encoded examples, its worked results, or a hand calculation
from a rule. A `witness_…` theorem applies a statement to a concrete machine that meets its hypotheses.
-/

namespace Sys2Proof.Tests

open Sys2Proof.Machine

set_option Elab.async false

/-- The instruction that a word decodes to, and the reason of a word that does not decode. -/
def read (w : Enc) : Option Instr := match decode w with
  | .ok i => some i
  | .error _ => none
def refusal (w : Enc) : Option DecodeError := match decode w with
  | .ok _ => none
  | .error e => some e

/-! ## Well-formedness: one ill-formed term for each check -/

/-- The fields of a vector slot in VA, unmasked, rounding to nearest. -/
def vop (fmt : Fmt) (d s1 s2 s3 : BitVec 10) (sub : BitVec 4 := 0) : VOp :=
  { unit := .va, fmt := fmt, mask := 0, rnd := .rne, h1 := false, h2 := false, h3 := false, d := d, s1 := s1, s2 := s2,
    s3 := s3, sub := sub }

/-- The fields of a load or store of class 0. -/
def lsop (file : LsFile) (reg : BitVec 10) (base idx : BitVec 5) (off : BitVec 18) : LsOp :=
  { cls := 0, file := file, reg := reg, base := base, idx := idx, off := off }

/-- The fields of a beat outside a gang. -/
def beat (pair : Pair) (bank : BitVec 2) (asrc : Bool) (aring : BitVec 4) (alr bsrc : Bool) (bring : BitVec 4)
    (blr : Bool) (row : BitVec 5) : BeatOp where
  pair := pair
  bank := bank
  asrc := asrc
  aring := aring
  alr := alr
  bsrc := bsrc
  bring := bring
  blr := blr
  row := row
  gang := false

theorem test_reserved_opcode : refusal (.s 0x2E000000) = some .reservedOpcode := by decide
theorem test_reserved_field : refusal (.v .va 0x01038000_00000000) = some .reservedField := by decide
theorem test_must_be_zero : refusal (.s 0x02182101) = some .mustBeZero := by decide
theorem test_register_range : (Instr.sToa 32 9).wfError = some .registerRange := by decide
theorem test_register_range_ls : (Instr.ldD (lsop .a 32 0 0 0)).wfError = some .registerRange := by decide
theorem test_immediate_range : (Instr.sShli 1 2 64).wfError = some .immediateRange := by decide
theorem test_bit_field_range : (Instr.sBext 4 1 61 3).wfError = some .immediateRange := by decide
theorem test_lock_count : (Instr.sLock 8 17).wfError = some .immediateRange := by decide
theorem test_csr_outside_map : (Instr.sCsrr 5 0x005).wfError = some .csrOutsideMap := by decide
theorem test_file_not_allowed : (Instr.ldB (lsop .va 1 0 0 0)).wfError = some .fileNotAllowed := by decide
theorem test_alias_class : (Instr.stI { lsop .s 11 4 0 8 with cls := 1 }).wfError = some .aliasClass := by decide
theorem test_ring_offset :
    (Instr.ldRing { cls := 0, file := .va, reg := 1, ring := 5, lr := false, off := 64 }).wfError =
      some .ringOffset := by decide
theorem test_format : (Instr.vAdd (vop .i32 1 2 3 0)).wfError = some .formatNotAccepted := by decide
theorem test_rounding :
    (Instr.vMin { vop .f32 1 2 3 0 with rnd := .sat }).wfError = some .roundingNotAccepted := by decide
theorem test_source_code : (Instr.vAdd (vop .f32 1 805 3 0)).wfError = some .sourceCode := by decide
theorem test_dest_code : (Instr.vAdd (vop .f32 800 2 3 0)).wfError = some .destCode := by decide
theorem test_mask_operand : (Instr.vCmp (vop .f32 0 2 3 0)).wfError = some .maskOperand := by decide
theorem test_mask_field :
    (Instr.vSort { vop .f32 0 2 4 0 with mask := 1 }).wfError = some .maskField := by decide
theorem test_hold_bit : (Instr.vAbs { vop .f32 1 2 0 0 with h2 := true }).wfError = some .holdBit := by decide
theorem test_sub_field : (Instr.vZip (vop .f32 1 2 3 0 2)).wfError = some .subField := by decide
theorem test_conversion : (Instr.vPack (vop .f32 1 2 3 0 3)).wfError = some .conversion := by decide
theorem test_drain_target : (Instr.mDrain .bf16 0 .va 0 5 .rne).wfError = some .drainTarget := by decide
theorem test_function_code : (Instr.xFence 5 3 0).wfError = some .functionCode := by decide

/-! ## Decoding: the words that the manual spells out (R147 to R158, and the examples of the entries) -/

theorem test_word_add : read (.s 0x02182100) = some (.sAdd 3 1 2) := by decide
theorem test_word_addi : read (.s 0x3028BFFF) = some (.sAddi 5 5 0x1FFF) := by decide
theorem test_word_movk : read (.s 0x423ABEEF) = some (.sMovk 7 2 0xBEEF) := by decide
theorem test_word_bext : read (.s 0x4A202203) = some (.sBext 4 1 8 3) := by decide
theorem test_word_crc : read (.s 0x4E104180) = some (.sCrc 2 2 3) := by decide
theorem test_word_toa : read (.s 0x50192000) = some (.sToa 3 9) := by decide
theorem test_word_bc : read (.s 0x54012000) = some (.sBc 9) := by decide
theorem test_word_bnz : read (.s 0x622FFFD8) = some (.sBnz 5 0x7FFD8) := by decide
theorem test_word_loop : read (.s 0x7000C003) = some (.sLoop 6 3) := by decide
theorem test_word_lock : read (.s 0x76010003) = some (.sLock 8 3) := by decide
theorem test_word_seg_entry : read (.s 0x78000000) = some .sSegEntry := by decide
theorem test_word_seg_commit : read (.s 0x78000001) = some .sSegCommit := by decide
theorem test_word_ifence : read (.s 0x7A000000) = some .sIfence := by decide
theorem test_word_csrr : read (.s 0x80280060) = some (.sCsrr 5 0x060) := by decide
theorem test_word_csrw : read (.s 0x8200A070) = some (.sCsrw 5 0x070) := by decide
theorem test_word_csrc : read (.s 0x86002030) = some (.sCsrc 1 0x030) := by decide
theorem test_word_trap : read (.s 0x88000007) = some (.sTrap 7) := by decide
theorem test_word_eret : read (.s 0x8C000000) = some .sEret := by decide
theorem test_word_ld_d : read (.ld 0x1C0071000010) = some (.ldD (lsop .s 7 2 0 16)) := by decide
theorem test_word_ld_v : read (.ld 0x208021800080) = some (.ldV (lsop .va 2 3 0 0x80)) := by decide
theorem test_word_ld_ring :
    read (.ld 0x2880C5800100) =
      some (.ldRing { cls := 0, file := .va, reg := 12, ring := 5, lr := true, off := 256 }) := by decide
theorem test_word_st_vs : read (.st 0x25C092140000) = some (.stVs { lsop .vb 9 4 5 0 with cls := 1 }) := by decide
theorem test_word_st_i : read (.st 0x2C00B2000008) = some (.stI (lsop .s 11 4 0 8)) := by decide
theorem test_word_ag_wrap : read (.ld 0x4C4073A40080) = some (.agWrap .ld 7 7 9 128) := by decide
theorem test_word_v_add : read (.v .va 0x0100001006004000) = some (.vAdd (vop .f32 4 6 1 0)) := by decide
theorem test_word_v_fma :
    read (.v .vb 0x0400102002C8B030) =
      some (.vFma { vop .f32 8 2 802 771 with unit := .vb, h1 := true }) := by decide
theorem test_word_v_iadd :
    read (.v .vb 0x20C2800C01008000) = some (.vIadd { vop .i16 3 1 2 0 with unit := .vb, rnd := .sat }) := by decide
theorem test_word_v_cmp : read (.v .va 0x18A0000C01C88002) = some (.vCmp (vop .i32 3 1 802 0 2)) := by decide
theorem test_word_v_sel : read (.v .va 0x1900001801008004) = some (.vSel (vop .f32 6 1 2 0 4)) := by decide
theorem test_word_v_kop : read (.v .va 0x1A0000040200C000) = some (.vKop (vop .f32 1 2 3 0)) := by decide
theorem test_word_v_cvt :
    read (.v .va 0x30030C0807000003) = some (.vCvt { vop .f32 770 7 0 0 3 with rnd := .efsat }) := by decide
theorem test_word_v_cvt_unsigned : read (.v .va 0x30A0001805C20000) = some (.vCvt (vop .i32 6 5 776 0)) := by decide
theorem test_word_v_unpack : read (.v .va 0x3260002401000002) = some (.vUnpack (vop .e4m3 9 1 0 0 2)) := by decide
theorem test_word_v_scan :
    read (.v .va 0x43A8001003000000) = some (.vScan { vop .i32 4 3 0 0 with mask := 2 }) := by decide
theorem test_word_v_merge : read (.v .va 0x4600004010038001) = some (.vMerge (vop .f32 16 16 14 0 1)) := by decide
theorem test_word_v_xcp : read (.v .va 0x5100000C05000000) = some (.vXcp (vop .f32 3 5 0 0)) := by decide
theorem test_word_v_movi : read (.v .va 0x5200000CFE000000) = some (.vMovi (vop .f32 3 0xFE 0 0)) := by decide
theorem test_word_v_park : read (.v .va 0x5800000014000000) = some (.vPark (vop .f32 0 20 0 0)) := by decide
theorem test_word_m_push : read (.m 0x0042C000) = some (.mPush .bf16 false 4 5 true) := by decide
theorem test_word_m_dist :
    read (.m 0x9180D000) = some (.mDist (beat .e4m3 0 true 0 false false 6 true 0)) := by decide
theorem test_word_m_acc :
    read (.m 0xBA147F80) = some (.mAcc (beat .bf16dp8 1 false 2 true false 3 true 31)) := by decide
theorem test_word_m_shift : read (.m 0x44000000) = some (.mShift 2) := by decide
theorem test_word_m_zero : read (.m 0x45000000) = some (.mZero 2) := by decide
theorem test_word_m_drain : read (.m 0xC2050200) = some (.mDrain .bf16 1 .va 40 1 .rne) := by decide
theorem test_word_m_topk : read (.m 0xC3052018) = some (.mTopk .bf16 1 .va 41 3 false) := by decide
theorem test_word_q_ld : read (.q 0x13000101) = some (.qLd 6 2) := by decide
theorem test_word_q_ldt : read (.q 0x23800010) = some (.qLdt 7 0 16) := by decide
theorem test_word_q_skip : read (.q 0x30000020) = some (.qSkip 32) := by decide
theorem test_word_x_xch : read (.x 0x0103100000000005) = some (.xXch 0 .plain 3 4 5 0) := by decide
theorem test_word_x_xchp : read (.x 0x0200180000000428) = some (.xXchp 0 0 6 40 1) := by decide
theorem test_word_x_xchn : read (.x 0x0302240000800000) = some (.xXchn 0 .acq 2 9) := by decide
theorem test_word_x_xchs : read (.x 0x04050420C000001F) = some (.xXchs 0 .plain 5 1 2 3 31) := by decide
theorem test_word_x_wadv : read (.x 0x0904000000000022) = some (.xWadv 0 4 2 2) := by decide
theorem test_word_x_rst : read (.x 0x14020420C0000000) = some (.xRst 0 2 1 2 3 0) := by decide
theorem test_word_x_phq : read (.x 0x1901140000000000) = some (.xPhq 1 5) := by decide
theorem test_word_x_rdv : read (.x 0x1A00000000000003) = some (.xRdv 3) := by decide
theorem test_word_x_amo :
    read (.x 0x2001083007000010) = some (.xAmo 0 .plain 1 2 3 0 7 0 true) := by decide
theorem test_word_x_amov :
    read (.x 0x21060420C40003F0) = some (.xAmov 0 .plain 6 1 2 3 4 0 true 31) := by decide
theorem test_word_x_redm : read (.x 0x2203042000007FC0) = some (.xRedm 0 .plain 3 1 2 0 0 511) := by decide
theorem test_word_x_mon : read (.x 0x2300085000000000) = some (.xMon 0 .plain 0 2 5) := by decide
theorem test_word_x_coll : read (.x 0x28070C0000000000) = some (.xColl 0 7 3) := by decide
theorem test_word_x_cpoll : read (.x 0x2D03140000000002) = some (.xCpoll 3 5 2) := by decide
theorem test_word_x_probe : read (.x 0x3401083000000001) = some (.xProbe 1 2 3 0 true false) := by decide
theorem test_word_x_hint : read (.x 0x3601083000000005) = some (.xHint 1 2 3 1 1) := by decide
theorem test_word_x_fence : read (.x 0x380500000000000C) = some (.xFence 5 1 4) := by decide

/-- The bundle of three slots that the manual takes apart, in its bytes (R144). -/
def bundle3 : List Byte :=
  [0x15, 0xFF, 0xBF, 0x28, 0x30, 0x80, 0x00, 0x80, 0x21, 0x80, 0x20, 0x00, 0x40, 0x00, 0x06, 0x10, 0x00, 0x00, 0x01]

theorem test_bundle_slots :
    (decodeBundle bundle3).map Bundle.toIns =
      some [.sAddi 5 5 0x1FFF, .ldV (lsop .va 2 3 0 0x80), .vAdd (vop .f32 4 6 1 0)] := by decide
theorem test_bundle_length : (decodeBundle bundle3).map (·.len) = some 19 := by decide
theorem test_bundle_cut : (decodeBundle (bundle3.take 18)).isNone = true := by decide
theorem test_table_word : decodeTableWord 32 0x02182100 = some (.sAdd 3 1 2) := by decide

/-! ## A small machine -/

/-- The machine in cycle 100, its boot behind it, with one core that runs context 0: a handler at 0xC000, and the core
changed by `f`. -/
def machine (x : Ctx) (f : Core → Core := id) : State :=
  { State.reset with
    turn := .issue 0, stage := 2, now := 100,
    cores := [(0, f { smode := 0, heldB := false, run := some 0, vec := 0xC000, ctxs := [(0, x)] })] }

/-- A ready context with two footprints' worth of registers and two banks; S[1] is 5 and S[2] is −7. -/
def ctx0 : Ctx :=
  { status := .ready, priv := false, vaMap := [0, 1], vbMap := [2, 3], accMap := [0, 1],
    s := [(1, 5), (2, BitVec.ofInt 64 (-7)), (3, 0xA30), (63, 0x40)], a := [(1, 0x1000), (2, 64)] }

def m0 : State := machine ctx0

/-- The instruction runs. -/
def Runs (i : Instr) (s : State) : Prop := ∃ t, exec i s = .next t

/-- The machine after an instruction. -/
def run (i : Instr) (s : State) : State := match exec i s with
  | .next t => t
  | _ => s

/-- What an instruction gives an s-register, at once or as a result on its way. -/
def sVal (i : Instr) (n : Nat) (s : State) : W64 :=
  let x := (run i s).ctx 0 0
  match List.find? (fun p : Pend => p.dest == .sreg n) x.pend with
  | some p => p.val.extractLsb' 0 64
  | none => x.rdS n

/-- A result on its way to a vector register. -/
def vVal (i : Instr) (u : VUnit) (n : Nat) (s : State) : VReg :=
  match List.find? (fun p : Pend => p.dest == .vreg u n) ((run i s).ctx 0 0).pend with
  | some p => p.val
  | none => 0

theorem calm (s : State) (i : Instr)
    (h : s.cur = 0 ∧ (s.core 0).run = some 0 ∧ (s.ctx 0 0).status = .ready ∧ s.pairOf 0 0 = none ∧
      (s.ctx 0 0).gtrap = none ∧ (s.ctx 0 0).ltrap = none ∧ s.gangs = [] ∧ (s.ctx 0 0).faults = [] ∧
      (s.ctx 0 0).guard = none ∧ (s.core 0).flips = [] ∧ (s.core 0).inject.getLsbD 0 = false ∧
      (s.ctx 0 0).again = none) : s.Calm 0 0 i where
  cur := h.1
  run := h.2.1
  ready := h.2.2.1
  alone := h.2.2.2.1
  gtrap := h.2.2.2.2.1
  ltrap := h.2.2.2.2.2.1
  clash := by simp [gangClash, State.gangOf, State.env, h.2.2.2.2.2.2.1]
  faults := .inr ⟨h.2.2.2.2.2.2.2.1, h.2.2.2.2.2.2.2.2.1⟩
  flips := h.2.2.2.2.2.2.2.2.2.1
  inject := h.2.2.2.2.2.2.2.2.2.2.1
  again := h.2.2.2.2.2.2.2.2.2.2.2

theorem noneFor {x : Ctx} {d : Dest} (h : x.pend = []) : x.NoneFor d := by simp [Ctx.NoneFor, h]

theorem runs_completes {i : Instr} {s u : State} {k j : Nat} : Completes i s k j u → Runs i s
  | ⟨t, h, _⟩ => ⟨t, h⟩
theorem runs_delivers {i : Instr} {s u : State} {k j lat hb : Nat} {d : Dest} {l : BitVec 32} {v : VReg} :
    Delivers i s k j u d l v lat hb → Runs i s
  | ⟨_, _, _, h⟩ => runs_completes h
theorem runs_load {i : Instr} {s u : State} {k j : Nat} {d : Dest} {A B : Load → Prop}
    (h : ∃ l, A l ∧ B l ∧ DeliversLoad i s k j u d l) : Runs i s := by
  obtain ⟨_, _, _, _, _, _, p⟩ := h
  exact runs_completes p
theorem runs_blocks {i : Instr} {s u : State} {k j : Nat} {ws : List Wait} : Blocks i s k j u ws → Runs i s
  | ⟨t, h, _⟩ => ⟨t, h⟩
theorem runs_transfers {i : Instr} {s u : State} {k j a : Nat} : Transfers i s k j u a → Runs i s
  | ⟨t, h, _⟩ => ⟨t, h⟩
theorem runs_givesV {i : Instr} {o : VOp} {s : State} {k j lat : Nat} {l : BitVec 32} {v : VReg} :
    Claims.GivesV i o s k j lat l v → Runs i s
  | ⟨_, _, _, h⟩ => runs_completes h

theorem calm0 (i : Instr) : m0.Calm 0 0 i := calm m0 i (by decide)

theorem canHandle0 : m0.CanHandle 0 0 := by refine ⟨?_, ?_, ?_, ?_⟩ <;> decide

/-! ## The S slot: values -/

theorem test_add : sVal (.sAdd 4 1 2) 4 m0 = BitVec.ofInt 64 (-2) := by decide
theorem test_sub : sVal (.sSub 4 1 2) 4 m0 = 12 := by decide
theorem test_mul : sVal (.sMul 4 1 2) 4 m0 = BitVec.ofInt 64 (-35) := by decide
theorem test_mulh : sVal (.sMulh 4 1 2) 4 m0 = BitVec.allOnes 64 := by decide
theorem test_mulhu : sVal (.sMulhu 4 1 2) 4 m0 = 4 := by decide
theorem test_div : sVal (.sDiv 4 2 1) 4 m0 = BitVec.ofInt 64 (-1) := by decide
theorem test_div_zero : sVal (.sDiv 4 1 0) 4 m0 = BitVec.allOnes 64 := by decide
theorem test_rem : sVal (.sRem 4 2 1) 4 m0 = BitVec.ofInt 64 (-2) := by decide
theorem test_rem_zero : sVal (.sRem 4 1 0) 4 m0 = 5 := by decide
theorem test_sra : sVal (.sSra 4 2 1) 4 m0 = BitVec.allOnes 64 := by decide
theorem test_slt : sVal (.sSlt 4 2 1) 4 m0 = 1 := by decide
theorem test_sltu : sVal (.sSltu 4 2 1) 4 m0 = 0 := by decide
theorem test_min : sVal (.sMin 4 1 2) 4 m0 = BitVec.ofInt 64 (-7) := by decide
theorem test_minu : sVal (.sMinu 4 1 2) 4 m0 = 5 := by decide
/-- R171: the manual's example of s.movk. -/
theorem test_movk : sVal (.sMovk 7 2 0xBEEF) 7 m0 = 0x0000BEEF00000000 := by decide
/-- R172: the manual's example of s.bext. -/
theorem test_bext : sVal (.sBext 4 3 8 3) 4 m0 = 0xA := by decide
theorem test_bins : sVal (.sBins 1 3 4 7) 1 m0 = 0x305 := by decide
theorem test_clz : sVal (.sClz 4 1) 4 m0 = 61 := by decide
theorem test_clz_zero : sVal (.sClz 4 0) 4 m0 = 64 := by decide
theorem test_ctz : sVal (.sCtz 4 3) 4 m0 = 4 := by decide
theorem test_pop : sVal (.sPop 4 3) 4 m0 = 4 := by decide
theorem test_addi_negative : sVal (.sAddi 4 1 0x1FFF) 4 m0 = 4 := by decide
/-- R173: the CRC-32C of 32 zero bytes is 0x8A9136AA. -/
theorem test_crc : (([0, 0, 0, 0].foldl (fun c v => (crcBytes c (leBytes 8 v)))) (BitVec.allOnes 32)) ^^^
    BitVec.allOnes 32 = (0x8A9136AA : W32) := by decide +kernel
theorem test_bnz_taken : ((run (.sBnz 1 0x20) m0).ctx 0 0).pc = 0x20 := by decide
theorem test_bz_not_taken : ((run (.sBz 1 0x20) m0).ctx 0 0).pc = 5 := by decide
theorem test_blt : ((run (.sBlt 2 0x20) m0).ctx 0 0).pc = 0x20 := by decide
theorem test_branch_lost_cycles : ((run (.sJmp 0x20) m0).core 0).issueAt = 103 := by decide
theorem test_branch_outside : ((run (.sBz 1 0x7FFFF) m0).ctx 0 0).trCause = 0x801 := by decide
theorem test_call : ((run (.sCall 0x20) m0).ctx 0 0).rdS 63 = 5 := by decide
theorem test_ret : ((run .sRet m0).ctx 0 0).pc = 0x40 := by decide
theorem test_bswap : ((run (.sBswap 0x8010) m0).ctx 0 0).half = 1 := by decide
theorem test_bc : ((run (.sBc 1) m0).ctx 0 0).port = 5 := by decide
theorem test_trap_pc : ((run (.sTrap 7) m0).ctx 0 0).trPc = 0 := by decide
theorem test_trap_info : ((run (.sTrap 7) m0).ctx 0 0).trI1 = 5 := by decide
theorem test_trap_handler : ((run (.sTrap 7) m0).ctx 0 0).pc = 0xC000 := by decide
theorem test_eret_user : ((run .sEret m0).ctx 0 0).trCause = 0x802 := by decide
theorem test_csrr_core : sVal (.sCsrr 4 0x061) 4 (machine { ctx0 with retired := 9 }) = 9 := by decide
theorem test_csrw_user : ((run (.sCsrw 3 0x023) m0).ctx 0 0).trPc = 0 := by decide
theorem test_csrw_priv : ((run (.sCsrw 3 0x023) (machine { ctx0 with priv := true })).ctx 0 0).trPc = 0xA30 := by decide
theorem test_seg_commit :
    ((run .sSegCommit (machine { ctx0 with snap := some ⟨[], [], [], [], 0, 0⟩ })).ctx 0 0).commits = 1 := by decide
theorem test_lock : ((run (.sLock 1 3) m0).core 0).lock = some { ctx := 0, mask := 5, left := 2 } := by decide
theorem test_wait_blocks :
    ((run (.sWait 3) m0).ctx 0 0).status = .blocked [.cycle 0xA30] (.next 5 false) := by decide

/-! ## Witnesses: the S slot -/

def mP : State := machine { ctx0 with priv := true }
def mSeg : State := machine { ctx0 with snap := some ⟨[], [], [], [], 0, 0⟩ }
def mReturn : State := machine { ctx0 with priv := true, inTrap := true, trPc := 0x40 }

theorem witness_ScalarRegisterForms :
    Obligations.ScalarRegisterForms → GivesS (.sAdd 4 1 2) m0 0 0 4 1 (BitVec.ofInt 64 (-2)) := fun h =>
  h m0 0 0 (.sAdd 4 1 2) 4 1 2 1 _ rfl (calm0 _) (noneFor rfl)

theorem witness_ScalarRegisterForms_late : Obligations.ScalarRegisterForms → Runs (.sMul 63 1 2) m0 := fun h =>
  runs_delivers (h m0 0 0 (.sMul 63 1 2) 63 1 2 3 _ rfl (calm0 _) (noneFor rfl))

theorem witness_ScalarImmediates :
    Obligations.ScalarImmediates → GivesS (.sShli 4 1 63) m0 0 0 4 1 0x8000000000000000 := fun h =>
  h m0 0 0 (.sShli 4 1 63) 4 1 _ rfl (by decide) (calm0 _) (noneFor rfl)

theorem witness_CopiesBetweenClasses :
    Obligations.CopiesBetweenClasses →
      Runs (.sToa 31 1) m0 ∧ Runs (.sFroma 1 31) m0 ∧ Runs (.sFroma 1 0) m0 ∧ Runs (.sBc 1) m0 ∧ Runs .sNop m0 :=
  fun h => ⟨runs_completes ((h m0 0 0 31 1).1 (calm0 _) (by decide) (noneFor rfl)),
    ((h m0 0 0 1 31).2.1 (calm0 _) (by decide) (noneFor rfl)).elim fun _ p => runs_delivers p.2,
    ((h m0 0 0 1 0).2.1 (calm0 _) (by decide) (noneFor rfl)).elim fun _ p => runs_delivers p.2,
    runs_completes ((h m0 0 0 0 1).2.2.1 (calm0 _)), runs_completes ((h m0 0 0 0 0).2.2.2 (calm0 _))⟩

/-- R175: a branch to the last byte of the half, taken and not taken. -/
theorem witness_BranchesGo :
    Claims.BranchesGo → Runs (.sBnz 1 0x7FFF) m0 ∧ Runs (.sBz 1 0x7FFF) m0 := fun h =>
  ⟨runs_transfers (h m0 0 0 (.sBnz 1 0x7FFF) 1 0x7FFF 0x7FFF _ rfl (calm0 _) ⟨by decide, by decide⟩),
   runs_completes (h m0 0 0 (.sBz 1 0x7FFF) 1 0x7FFF 0x7FFF _ rfl (calm0 _) ⟨by decide, by decide⟩)⟩

theorem not_lands (a : Nat) : ¬ Claims.Lands (m0.ctx 0 0) 0x8000 a := by
  rintro ⟨h, h2⟩
  have e : (m0.ctx 0 0).pc = 0 := rfl
  have e2 : (m0.ctx 0 0).half = 0 := rfl
  rw [e] at h
  rw [e2] at h2
  have e3 : (0x8000 : BitVec 19).toInt = 0x8000 := by decide
  rw [e3] at h
  omega

/-- R175: one byte beyond the half. -/
theorem witness_BranchesOutsideTrap : Claims.BranchesOutsideTrap → Runs (.sBz 1 0x8000) m0 := fun h =>
  ⟨_, h m0 0 0 (.sBz 1 0x8000) 1 0x8000 _ rfl (calm0 _) canHandle0 not_lands⟩

theorem witness_UnconditionalTransfers :
    Obligations.UnconditionalTransfers →
      Runs (.sJmp 0x7FFF) m0 ∧ Runs (.sJr 3) m0 ∧ Runs .sRet m0 ∧ Runs (.sCall 0) m0 ∧ Runs (.sBswap 0x8000) m0 := fun h =>
  ⟨runs_transfers ((h m0 0 0 0x7FFF 0x7FFF 0).1 (calm0 _) ⟨by decide, by decide⟩),
   runs_transfers ((h m0 0 0 0xA30 0 3).2.1 (calm0 _) (by decide) (by decide) (by decide)),
   runs_transfers ((h m0 0 0 0x40 0 0).2.2.1 (calm0 _) (by decide) (by decide) (by decide)),
   runs_transfers ((h m0 0 0 0 0 0).2.2.2.1 (calm0 _) ⟨by decide, by decide⟩ (noneFor rfl)),
   runs_transfers ((h m0 0 0 0x8000 0x8000 0).2.2.2.2 (calm0 _) (by decide) (by decide) (by decide) rfl)⟩

/-- R177: a loop of the greatest length with five passes, one with a trip count of zero, and a nest of one level. -/
theorem witness_LoopsOpen :
    Claims.LoopsOpen → Runs (.sLoop 1 31) m0 ∧ Runs (.sLoop 0 0) m0 := by
  intro h
  have a := h m0 0 0 32 (.sLoop 1 31) _ 1 31 (calm0 _) rfl (.inl ⟨rfl, rfl, rfl⟩)
  have b := h m0 0 0 1 (.sLoop 0 0) _ 0 0 (calm0 _) rfl (.inl ⟨rfl, rfl, rfl⟩)
  rw [if_pos (by decide)] at a
  rw [if_neg (by decide)] at b
  exact ⟨a.imp fun _ p => p.1, b.imp fun _ p => p.1⟩

/-- A nest descriptor of one level at address 0: 3 passes over a body of 2 bundles. -/
def nestMachine : State :=
  machine { ctx0 with s := [(1, 0)] } fun c =>
    { c with sb := [(0, { state := .present })], sp := Mem.writeBytes [] 0 [1, 1, 0, 0, 0, 0, 0, 0, 3] }

theorem witness_LoopsOpen_nest : Claims.LoopsOpen → Runs (.sNest 1) nestMachine := by
  intro h
  have a := h nestMachine 0 0 _ (.sNest 1) _ 1 0 (calm _ _ (by decide)) rfl
    (.inr ⟨rfl, by decide, by decide, by decide, rfl, rfl⟩)
  rw [if_pos (by decide)] at a
  exact a.imp fun _ p => p.1

/-- A body of two bundles at address 0 in a nest of two levels: `i` passes of the inner three and `o` of the outer two are
over, and a1 steps by 8 with the inner level, a2 by 1 with the outer one. -/
def mLoop (i o cnt : Nat) : State :=
  machine { ctx0 with loop := some { start := 0, len := 2, cnt := cnt, levels :=
    [{ trip := 3, areg := 1, inc := 8, i := i }, { trip := 2, areg := 2, inc := 1, i := o }] } }

/-- R133: a step within a pass, to the next pass of the inner level, to the next of the outer one, and out of the loop; the
values are hand calculations. -/
theorem witness_LoopsRun :
    Claims.LoopsRun →
      (∃ t, exec (.sAddi 4 1 1) (mLoop 0 0 0) = .next t ∧ (t.ctx 0 0).pc = 5) ∧
      (∃ t, exec .sNop (mLoop 0 0 1) = .next t ∧ (t.ctx 0 0).pc = 0 ∧ (t.ctx 0 0).rdA 1 = 0x1008) ∧
      (∃ t, exec .sNop (mLoop 2 0 1) = .next t ∧ (t.ctx 0 0).rdA 1 = 0xFF0 ∧ (t.ctx 0 0).rdA 2 = 65) ∧
      ∃ t, exec .sNop (mLoop 2 1 1) = .next t ∧ (t.ctx 0 0).loop = none := by
  intro h
  obtain ⟨t, a, _, _, a1, _⟩ := h (mLoop 0 0 0) 0 0 (.sAddi 4 1 1) _ (calm _ _ (by decide))
    (.inr ⟨by decide, by decide⟩) rfl rfl
  obtain ⟨u, b, _, _, _, b1⟩ := h (mLoop 0 0 1) 0 0 .sNop _ (calm _ _ (by decide)) (.inl rfl) rfl rfl
  obtain ⟨v, c, _, _, _, c1⟩ := h (mLoop 2 0 1) 0 0 .sNop _ (calm _ _ (by decide)) (.inl rfl) rfl rfl
  obtain ⟨w, d, _, _, _, d1⟩ := h (mLoop 2 1 1) 0 0 .sNop _ (calm _ _ (by decide)) (.inl rfl) rfl rfl
  have b2 := (b1 (by decide)).1 [] _ _ ⟨rfl, by decide, by decide⟩
  have c2 := (c1 (by decide)).1 [{ trip := 3, areg := 1, inc := 8, i := 2 }] [] _ ⟨rfl, by decide, by decide⟩
  exact ⟨⟨t, a, (a1 (by decide)).1⟩, ⟨u, b, b2.1, (b2.2.2 1 (by decide)).trans (by decide)⟩,
    ⟨v, c, (c2.2.2 1 (by decide)).trans (by decide), (c2.2.2 2 (by decide)).trans (by decide)⟩,
    ⟨w, d, ((d1 (by decide)).2 (by decide)).2.1⟩⟩

/-- A handler that returns to an address, with a loop of one bundle at address 5 suspended. -/
def mSusp (a : W64) : State :=
  machine { ctx0 with priv := true, inTrap := true, trPc := a, susp := some { start := 5, len := 1, cnt := 0, levels :=
    [{ trip := 3, areg := 0, inc := 0, i := 1 }] } } fun c =>
      { c with imem := Mem.writeBytes [] 0 (encodeBundle .sNop ++ encodeBundle .sNop ++ encodeBundle .sNop) }

theorem witness_LoopsResume :
    Claims.LoopsResume → (∃ t, exec .sEret (mSusp 5) = .next t ∧ (t.ctx 0 0).loop = ((mSusp 5).ctx 0 0).susp) ∧
      ∃ t, exec .sEret (mSusp 10) = .next t ∧ (t.ctx 0 0).loop = none := by
  intro h
  obtain ⟨t, a, _, _, a1, _⟩ := h (mSusp 5) 0 0 _ (calm _ _ (by decide +kernel)) (by decide +kernel) rfl
  obtain ⟨u, b, _, _, _, b1⟩ := h (mSusp 10) 0 0 _ (calm _ _ (by decide +kernel)) (by decide +kernel) rfl
  exact ⟨⟨t, a, a1 0 (by decide +kernel)⟩, ⟨u, b, b1 (by decide +kernel)⟩⟩

/-- R179, R180: the wait that is over in its own cycle, one that is not; locks of 1 and of 16 bundles. -/
theorem witness_WaitAndLock :
    Claims.WaitAndLock → Runs (.sWait 1) (machine { ctx0 with s := [(1, 100)] }) ∧
      Runs (.sWait 1) (machine { ctx0 with s := [(1, 101)] }) ∧ Runs (.sLock 1 1) m0 ∧ Runs (.sLock 1 16) m0 := by
  intro h
  have a := (h (machine { ctx0 with s := [(1, 100)] }) 0 0 1 1).1 (calm _ _ (by decide))
  have b := (h (machine { ctx0 with s := [(1, 101)] }) 0 0 1 1).1 (calm _ _ (by decide))
  rw [if_pos (by decide)] at a
  rw [if_neg (by decide)] at b
  obtain ⟨t, p, _⟩ := (h m0 0 0 1 1).2 (calm0 _) (by decide) (by decide) rfl
  obtain ⟨u, q, _⟩ := (h m0 0 0 1 16).2 (calm0 _) (by decide) (by decide) rfl
  exact ⟨runs_completes a, runs_blocks b, ⟨t, p⟩, ⟨u, q⟩⟩

theorem witness_SegmentsOpenAndCommit :
    Obligations.SegmentsOpenAndCommit → Runs .sSegEntry m0 ∧ Runs .sSegCommit m0 ∧
      Runs .sSegCommit mSeg := by
  intro h
  have a := (h m0 0 0 rfl).2 (calm0 _)
  have b := (h mSeg 0 0 rfl).2 (calm _ _ (by decide))
  rw [if_pos (by decide)] at a
  rw [if_neg (by decide)] at b
  exact ⟨runs_completes ((h m0 0 0 rfl).1 (calm0 _)), runs_completes a, runs_completes b⟩

theorem witness_InstructionFence : Claims.InstructionFence → Runs .sIfence m0 := fun h =>
  (h m0 0 0 (calm0 _)).imp fun _ p => p.1

theorem footFits0 : Claims.FootFits (m0.ctx 0 0) := ⟨by decide, by decide, by decide, by decide⟩

/-- regfoot is two banks of VA, two of VB and two accumulators: 0x222. -/
theorem witness_CsrsRead :
    Claims.CsrsRead → GivesS (.sCsrr 4 0x023) m0 0 0 4 1 0 ∧ GivesS (.sCsrr 4 0x021) m0 0 0 4 1 0 ∧
      GivesS (.sCsrr 4 0x080) m0 0 0 4 1 0x222 := by
  intro h
  have a := h m0 0 0 4 0x023 0 (by decide) (calm0 _) (noneFor rfl) (by decide) (by decide) footFits0 (by decide)
  have b := h m0 0 0 4 0x021 0xC000 (by decide) (calm0 _) (noneFor rfl) (by decide) (by decide) footFits0 (by decide)
  have c := h m0 0 0 4 0x080 0x222 (by decide) (calm0 _) (noneFor rfl) (by decide) (by decide) footFits0 (by decide)
  rw [if_neg (by decide)] at a c
  rw [if_pos (by decide)] at b
  exact ⟨a, b, c⟩

/-- A core in test mode, whose repair.idx selects a row of an array; word 1 of register 2 of VA is 7. -/
def mRaw (array row : Nat) : State :=
  machine { ctx0 with priv := true } fun c =>
    { c with smode := 2, ridx := BitVec.ofNat 64 (row + array * 2 ^ 20), va := [(2, 7 <<< 64)], repair := [(3, 9)] }

theorem portWorks (array row : Nat) (h : array = 4 ∧ row = 3 ∨ array = 2 ∧ row = 33 ∨ array = 0 ∧ row = 131071 ∨
    array = 5 ∧ row = 8191) : Claims.PortWorks ((mRaw array row).core 0) := by
  obtain ⟨rfl, rfl⟩ | ⟨rfl, rfl⟩ | ⟨rfl, rfl⟩ | ⟨rfl, rfl⟩ := h <;> unfold Claims.PortWorks <;> decide

theorem witness_RawPortReads :
    Claims.RawPortReads → GivesS (.sCsrr 4 0x071) (mRaw 2 33) 0 0 4 1 7 ∧ GivesS (.sCsrr 4 0x071) (mRaw 4 3) 0 0 4 1 9 ∧
      GivesS (.sCsrr 4 0x071) m0 0 0 4 1 0 := by
  intro h
  have a := (h (mRaw 2 33) 0 0 4 (calm _ _ (by decide)) (noneFor rfl) (fun _ => rfl) rfl).1 rfl (portWorks _ _ (by decide))
  have b := (h (mRaw 4 3) 0 0 4 (calm _ _ (by decide)) (noneFor rfl) (fun _ => rfl) rfl).1 rfl (portWorks _ _ (by decide))
  have c := (h m0 0 0 4 (calm0 _) (noneFor rfl) (fun _ => rfl) rfl).2 (.inl rfl)
  rw [show Claims.rowBits ((mRaw 2 33).core 0) = 7 from by decide +kernel] at a
  rw [show Claims.rowBits ((mRaw 4 3).core 0) = 9 from by decide +kernel] at b
  exact ⟨a, b, c⟩

theorem witness_CsrWritesComplete : Claims.CsrWritesComplete → Runs (.sCsrs 1 0x041) m0 := fun h =>
  runs_completes (h m0 0 0 (.sCsrs 1 0x041) _ _ _ rfl (by decide) (calm0 _))

/-- R184: in U a write of trap.vec changes nothing; in P the handler address 0x8000 is taken. -/
theorem witness_CsrWriteEffects :
    Claims.CsrWriteEffects → csrWrite m0 0 0 .write 0x021 0x8000 = m0 ∧
      ((csrWrite mP 0 0 .write 0x021 0x8000).core 0).vec = 0x8000 := by
  intro h
  have b : ((csrWrite mP 0 0 .write 0x021 0x8000).core 0).vec = _ := ((h mP 0 0 .write 0x8000).2.2.2 rfl).2.2.2.1
  exact ⟨(h m0 0 0 .write 0x8000).2.2.1 rfl 0x021 (by decide) (by decide), b.trans (by decide)⟩

/-- A core in test mode with one entry of the repair table, for row 33 of VA. -/
def mMode : State :=
  machine { ctx0 with priv := true } fun c =>
    { c with smode := 2, va := [(2, 7 <<< 64)], repair := [(3, BitVec.ofNat 64 (1 + 2 * 33 + 2 * 2 ^ 21))] }

/-- A write of 0 leaves test mode, and the row that the entry begins to serve reads zero. -/
theorem witness_ModeWrites :
    Claims.ModeWrites → ((csrWrite mMode 0 0 .write 0x020 0).core 0).smode = 0 ∧
      (AMap.get ((csrWrite mMode 0 0 .write 0x020 0).core 0).va 2 0).extractLsb' 64 64 = 0 := by
  intro h
  have a := h mMode 0 0 .write 0 5 (by decide) (by decide) rfl
  have k : ¬ ((((Claims.written .write 0x3FFE 5 0).extractLsb' 1 2 = 2) ∨ (mMode.core 0).smode = 2) ∧
      ∃ n ∈ (mMode.core 0).residents, n ≠ 0) := by decide
  have m := a.2.2.2.1 k
  exact ⟨m.trans (by decide), (a.2.2.2.2.2.2.2.2 3 33 _ rfl (by rw [m]; decide) rfl rfl (by decide) (by decide)).1 rfl⟩

theorem witness_RawPortWrites :
    Claims.RawPortWrites →
      (AMap.get ((csrWrite (mRaw 4 3) 0 0 .set 0x071 6).core 0).repair 3 0) = 15 ∧
      (AMap.get ((csrWrite (mRaw 2 33) 0 0 .write 0x071 6).core 0).va 2 0).extractLsb' 64 64 = 6 ∧
      ((csrWrite (mRaw 0 131071) 0 0 .write 0x071 6).core 0).sp.read 0xFFFF8 = 6 ∧
      ((csrWrite (mRaw 5 8191) 0 0 .write 0x071 6).core 0).imem.read 0xFFF8 = 6 ∧
      (csrWrite mP 0 0 .write 0x071 6).core 0 = mP.core 0 := by
  intro h
  have z : (0 : W64).getLsbD 0 = false := by decide
  have p := fun (array row : Nat) op (v : W64) => h (mRaw array row) 0 0 op v rfl rfl z (fun _ => rfl) rfl rfl rfl
  have a := (p 4 3 .set 6).2.1 (portWorks _ _ (by decide)) rfl 3
  have b := (p 2 33 .write 6).2.2.1 (portWorks _ _ (by decide)) rfl 33
  have c := (p 0 131071 .write 6).2.2.2.2.1 (portWorks _ _ (by decide)) (by decide) 0xFFFF8
  have d := (p 5 8191 .write 6).2.2.2.2.2 (portWorks _ _ (by decide)) rfl 0xFFF8
  have e := (h mP 0 0 .write 6 rfl rfl z (fun _ => rfl) rfl rfl rfl).1 (by unfold Claims.PortWorks; decide)
  exact ⟨a.trans (by decide +kernel), b.trans (by decide +kernel), c.trans (by decide +kernel),
    d.trans (by decide +kernel), e⟩

theorem witness_SoftwareTraps :
    Obligations.SoftwareTraps → Runs (.sTrap 8191) m0 ∧ Runs .sBrk m0 ∧ Runs .sEret m0 := fun h =>
  ⟨⟨_, (h m0 0 0 8191 canHandle0).1 (calm0 _)⟩, ⟨_, (h m0 0 0 0 canHandle0).2.1 (calm0 _)⟩,
   ⟨_, (h m0 0 0 0 canHandle0).2.2 (calm0 _) rfl⟩⟩

theorem witness_ReturnFromException :
    Obligations.ReturnFromException → Runs .sEret mReturn :=
  fun h => (h mReturn 0 0 (calm _ _ (by decide)) rfl).imp
    fun _ p => p.1

/-! ## The LD and ST slots -/

/-- Bytes 0x80, 1, 2, … at 0x1000 in a present block; a3 is the last word of the window, a4 the first address beyond; a5
is a stride; ring 5 has one filled slot at slot 2. -/
def mLd : State :=
  machine { ctx0 with a := [(1, 0x1000), (2, 64), (3, 0x13FFF8), (4, 0x140000), (5, 8), (9, 0x0000280000002000)] } fun c =>
    { c with sb := [(2, { state := .present })], sp := Mem.writeBytes [] 0x1000 [0x80, 1, 2, 3, 4, 5, 6, 0xF7],
             rings := [(5, { cfg := true, base := 2, len := 4, tail := 1, head := 0, free := 0 })] }

theorem calmLd (i : Instr) : mLd.Calm 0 0 i := calm mLd i (by decide)

theorem test_ld_b : sVal (.ldB (lsop .s 4 1 0 0)) 4 mLd = 0xFFFFFFFFFFFFFF80 := by decide +kernel
theorem test_ld_bu : sVal (.ldBu (lsop .s 4 1 0 0)) 4 mLd = 0x80 := by decide +kernel
theorem test_ld_h : sVal (.ldH (lsop .s 4 1 0 6)) 4 mLd = 0xFFFFFFFFFFFFF706 := by decide +kernel
theorem test_ld_wu : sVal (.ldWu (lsop .s 4 1 0 4)) 4 mLd = 0xF7060504 := by decide +kernel
/-- R188: the low bits of the address are cleared, and index and offset are added. -/
theorem test_ld_d_unaligned : sVal (.ldD (lsop .s 4 1 2 0x3FFC7)) 4 mLd = 0xF706050403020180 := by
  decide +kernel
theorem test_ld_ring :
    sVal (.ldRing { cls := 0, file := .s, reg := 4, ring := 5, lr := true, off := 0 }) 4 mLd = 0xF706050403020180 := by
  decide +kernel
theorem test_ld_absent : sVal (.ldD (lsop .s 4 0 0 0)) 4 mLd = 0 := by decide +kernel
theorem test_st_waits :
    ((run (.stH (lsop .s 2 1 0 2)) mLd).core 0).stq =
      [{ ctx := 0, addr := 0x1002, data := [0xF9, 0xFF], cls := 0, t := 100 }] := by decide
theorem test_st_i :
    ((run (.stI (lsop .s 1 1 0 0)) (machine { ctx0 with a := [(1, 0x8008)] })).core 0).iq =
      [{ ctx := 0, addr := 0x8008, data := [5, 0, 0, 0, 0, 0, 0, 0], t := 100 }] := by decide
/-- R197: the manual's examples of ag.wrap. -/
theorem test_ag_wrap :
    ((run (.agWrap .ld 7 7 9 128) (machine { ctx0 with a := [(7, 0x2780), (9, 0x0000280000002000)] })).ctx 0 0).rdA 7 =
      0x2000 := by decide
theorem test_ag_wrap_down :
    ((run (.agWrap .ld 7 7 9 0x3FF80) (machine { ctx0 with a := [(7, 0x2000), (9, 0x0000280000002000)] })).ctx 0 0).rdA 7 =
      0x2780 := by decide
theorem test_ag_a0 : ((run (.agAddi .st 0 1 8) mLd).ctx 0 0).rdA 0 = 0 := by decide

/-- The last word of the window, and a byte store that waits in front of a load. -/
theorem witness_ScalarLoads :
    Claims.ScalarLoads → Runs (.ldD (lsop .s 63 3 0 0)) mLd ∧ Runs (.ldB (lsop .a 31 1 2 0x3FFFF)) mLd := fun h =>
  ⟨runs_load (h mLd 0 0 8 (.ldD (lsop .s 63 3 0 0)) _ _ rfl (by decide) (calmLd _) ⟨by decide, by decide⟩
      (noneFor rfl)),
   runs_load (h mLd 0 0 1 (.ldB (lsop .a 31 1 2 0x3FFFF)) _ _ rfl (by decide) (calmLd _) ⟨by decide, by decide⟩
      (noneFor rfl))⟩

/-- Register 127 is the last of the footprint. -/
theorem witness_VectorLoads :
    Claims.VectorLoads → Runs (.ldV (lsop .va 127 1 0 0)) mLd ∧ Runs (.ldVs (lsop .vb 0 1 5 0)) mLd := fun h =>
  ⟨runs_load ((h mLd 0 0 (lsop .va 127 1 0 0) (noneFor rfl) (by unfold Claims.InFootprint; decide)).1 (calmLd _)
      (by decide) ⟨by decide, by decide⟩),
   runs_load ((h mLd 0 0 (lsop .vb 0 1 5 0) (noneFor rfl) (by unfold Claims.InFootprint; decide)).2 (calmLd _)
      (by decide) (by unfold Claims.Reaches; decide))⟩

def ringOp (file : LsFile) (reg : BitVec 10) (lr : Bool) (off : BitVec 18) : RingOp :=
  { cls := 0, file := file, reg := reg, ring := 5, lr := lr, off := off }

theorem witness_RingLoads :
    Claims.RingLoads → Runs (.ldRing (ringOp .s 4 true 2040)) mLd ∧ Runs (.ldRing (ringOp .va 4 false 1920)) mLd :=
  fun h =>
  ⟨runs_load (h mLd 0 0 (ringOp .s 4 true 2040) (calmLd _) (by decide) (by decide) (by decide)
      (by unfold Claims.InFootprint; decide) ⟨by decide, by decide⟩ (noneFor rfl)),
   runs_load (h mLd 0 0 (ringOp .va 4 false 1920) (calmLd _) (by decide) (by decide) (by decide)
      (by unfold Claims.InFootprint; decide) ⟨by decide, by decide⟩ (noneFor rfl))⟩

/-- A core whose only store covers 0x1002 and 0x1003. -/
def cSt : Core :=
  { mLd.core 0 with stq := [{ ctx := 0, addr := 0x1002, data := [0xAA, 0xBB], cls := 0, t := 100 }] }

theorem witness_LoadsSeeOwnStores :
    Obligations.LoadsSeeOwnStores → cSt.ldByte 0 0 0 0x1001 = 1 ∧ cSt.ldByte 0 0 0 0x1004 = 4 ∧
      cSt.ldByte 0 0 0 0x800 = 0 ∧ cSt.ldByte 0 0 0 0x1003 = 0xBB := by
  intro h
  have a := ((h cSt 0 0 0x1001).1 (by decide)).2 (by decide) (by decide)
  have b := ((h cSt 0 0 0x1004).1 (by decide)).2 (by decide) (by decide)
  exact ⟨a.trans (by decide), b.trans (by decide), ((h cSt 0 0 0x800).1 (by decide)).1 (by decide),
    ((h cSt 0 0 0x1003).2 [] _ rfl rfl (by decide) (by decide)).trans (by decide)⟩

theorem witness_OutOfRangeLoads : Obligations.OutOfRangeLoads → Runs (.ldW (lsop .s 4 4 0 0)) mLd := fun h =>
  runs_load (h mLd 0 0 4 (.ldW (lsop .s 4 4 0 0)) _ _ rfl (by decide) (calmLd _) rfl (by decide) rfl (noneFor rfl))

theorem witness_StoresAreQueued :
    Obligations.StoresAreQueued → Runs (.stD (lsop .s 2 3 0 0)) mLd ∧ Runs (.stVs (lsop .va 3 1 5 0)) mLd ∧
      Runs (.stRing (ringOp .vb 3 false 0)) mLd := by
  intro h
  obtain ⟨_, _, a⟩ := h mLd 0 0 (.stD (lsop .s 2 3 0 0)) 0 _ .s 2 rfl rfl (by decide) (calmLd _)
    (by unfold Claims.InFootprint; decide) trivial (by unfold Claims.Reaches; decide) (by decide)
  obtain ⟨_, _, b⟩ := h mLd 0 0 (.stVs (lsop .va 3 1 5 0)) 0 _ .va 3 rfl rfl (by decide) (calmLd _)
    (by unfold Claims.InFootprint; decide) trivial (by unfold Claims.Reaches; decide) (by decide)
  obtain ⟨_, _, c⟩ := h mLd 0 0 (.stRing (ringOp .vb 3 false 0)) 0 _ .vb 3 rfl rfl (by decide) (calmLd _)
    (by unfold Claims.InFootprint; decide) ⟨by decide, by decide, by decide⟩ (by unfold Claims.Reaches; decide)
    (by decide)
  exact ⟨runs_completes a, runs_completes b, runs_completes c⟩

/-- A store in its second cycle, to the last bytes of the window, and one to a poisoned block. -/
def mStq (poisoned : Bool) : State :=
  machine ctx0 fun c =>
    { c with stq := [{ ctx := 0, addr := 0x13FFF8, data := [1, 2, 3, 4, 5, 6, 7, 8], cls := 0, t := 98 }],
             sb := [(639, { state := if poisoned then .poisoned else .empty })] }

theorem test_store_commits :
    (((run (.storeCommit 0) (mStq false)).core 0).spByte 0x13FFFF, ((run (.storeCommit 0) (mStq false)).core 0).stq) =
      (8, []) := by decide

theorem witness_StoreCommits :
    Obligations.StoreCommits → Runs (.storeCommit 0) (mStq false) ∧ Runs (.storeCommit 0) (mStq true) := fun h =>
  ⟨(h (mStq false) 0 _ [] rfl (by decide) (by decide) (by decide) rfl rfl).imp fun _ p => p.1,
   (h (mStq true) 0 _ [] rfl (by decide) (by decide) (by decide) rfl rfl).imp fun _ p => p.1⟩

/-- The last bytes below the handler, and, in P, those of the other half's end. -/
def mSti (a : W64) (priv : Bool) : State := machine { ctx0 with a := [(1, a)], priv := priv }

theorem witness_InstructionStores :
    Obligations.InstructionStores → Runs (.stI (lsop .s 1 1 0 0)) (mSti 0xBFF8 false) ∧
      Runs (.stI (lsop .va 1 1 0 0)) (mSti 0xFF80 true) := fun h =>
  ⟨runs_completes (h (mSti 0xBFF8 false) 0 0 (lsop .s 1 1 0 0) (calm _ _ (by decide)) (by decide)
      (by unfold Claims.InFootprint; decide) (by decide) (by decide)),
   runs_completes (h (mSti 0xFF80 true) 0 0 (lsop .va 1 1 0 0) (calm _ _ (by decide)) (by decide)
      (by unfold Claims.InFootprint; decide) (by decide) (by decide))⟩

theorem witness_AddressForms :
    Obligations.AddressForms → Runs (.agAdd .ld 0 1 2) mLd ∧ Runs (.agAddi .st 31 1 0x20000) mLd ∧
      Runs (.agMov .ld 3 1) mLd ∧ Runs (.agWrap .st 3 1 9 5) mLd := by
  intro h
  obtain ⟨_, _, _, _, a, _⟩ := h mLd 0 0 .ld 0 1 2 0 (noneFor rfl)
  obtain ⟨_, _, _, _, _, b, _⟩ := h mLd 0 0 .st 31 1 0 0x20000 (noneFor rfl)
  obtain ⟨_, _, _, _, _, _, c, _⟩ := h mLd 0 0 .ld 3 1 0 0 (noneFor rfl)
  obtain ⟨_, _, _, _, _, _, _, d⟩ := h mLd 0 0 .st 3 1 9 5 (noneFor rfl)
  exact ⟨runs_completes (a (calmLd _)), runs_completes (b (calmLd _)), runs_completes (c (calmLd _)),
    runs_completes (d (calmLd _))⟩

/-! ## The VA and VB slots: values -/

/-- A register whose 32-bit lanes are the list, zero beyond it. -/
def lanes32 (xs : List Nat) : VReg := ofElems 32 32 fun n => xs.getD n 0

/-- The keys and payloads of the manual's example of v.merge (R221) in va2 to va5, and small vectors in va1, va6 and
vb1. -/
def mV : State :=
  machine { ctx0 with port := 7, ka := [(1, 1), (2, 5)] } fun c =>
    { c with
      va := [(1, lanes32 [0xFFFFFFFF, 3, 30000, 0x800000FF]),
             (2, ofElems 32 32 fun n => [0x41100000, 0x40E00000, 0x40E00000, 0x40400000].getD n 0xFF800000),
             (3, ofElems 32 32 fun n => n),
             (4, ofElems 32 32 fun n => [0x41000000, 0x40E00000, 0x40000000].getD n 0xFF800000),
             (5, ofElems 32 32 fun n => 100 + n),
             (6, lanes32 [1, 2, 5000, 0])],
      vb := [(129, lanes32 [9, 8])] }

/-- The element of an instruction's result on its way to a register. -/
def vElem (i : Instr) (u : VUnit) (d w n : Nat) : Nat := elemOf w (vVal i u d mV) n

/-- The rounded sum of two FP32 codes. -/
def sum32 (a b : Nat) : Nat := Fmt.f32.round .rne (sumVals .rne [Fmt.f32.val a, Fmt.f32.val b])

theorem test_v_min : vElem (.vMin (vop .i32 7 1 6 0)) .va 7 32 0 = 1 := by decide +kernel
theorem test_v_max_float : vElem (.vMax (vop .f32 7 2 803 0)) .va 7 32 4 = 0 := by decide +kernel
theorem test_v_rcp : rcpCode .f32 (Fmt.f32.val 0x40400000) = 0x3EAAAAAA := by decide +kernel
theorem test_v_rcp_exact : rcpCode .f32 (Fmt.f32.val 0x3E800000) = 0x40800000 := by decide +kernel
theorem test_v_rsq : rsqCode .f32 (Fmt.f32.val 0x40800000) = 0x3F000000 := by decide +kernel
/-- The square root of 2 to 24 bits. -/
theorem test_v_sqrt : Fmt.f32.round .rne (sqrtVal (Fmt.f32.val 0x40000000)) = 0x3FB504F3 := by decide +kernel
theorem test_v_exp2 : Fmt.f32.round .rne (exp2Val (Fmt.f32.val 0x3F000000)) = 0x3FB504F3 := by decide +kernel
theorem test_v_log2 : log2Elem (vop .f32 0 0 0 0) 0x41000000 = 0x40400000 := by decide +kernel
/-- 1 + 2^−24 is a tie and goes to the even 1; 1 + 3 · 2^−24 is a tie and goes to the even 1 + 2^−22. -/
theorem test_v_add_tie : sum32 0x3F800000 0x33800000 = 0x3F800000 := by decide +kernel
theorem test_v_add_tie_up : sum32 0x3F800000 0x34400000 = 0x3F800002 := by decide +kernel
/-- R209: 30,000 and 5,000 give 32,767. -/
theorem test_v_iadd_sat : vElem (.vIadd { vop .i16 7 1 6 0 with rnd := .sat }) .va 7 16 4 = 32767 := by decide +kernel
theorem test_v_iadd_wrap : vElem (.vIadd (vop .i16 7 1 6 0)) .va 7 16 4 = 35000 := by decide +kernel
theorem test_v_sra : vElem (.vSra (vop .i32 7 1 804 0)) .va 7 32 3 = 0xC000007F := by decide +kernel
theorem test_v_clz : vElem (.vClz (vop .i32 7 6 0 0)) .va 7 32 2 = 19 := by decide +kernel
/-- Lanes 0 and 2 hold values below those of va6: −1 < 1 signed; 3 < 2 and 30000 < 5000 fail; lane 3 is negative. -/
theorem test_v_cmp :
    ((run (.vCmp (vop .i32 3 1 6 0 2)) mV).ctx 0 0).pend.map (·.val.toNat) = [9] := by decide +kernel
theorem test_v_kop : ((run (.vKop (vop .f32 1 2 1 0 3)) mV).ctx 0 0).pend.map (·.val.toNat) = [4] := by decide +kernel
theorem test_v_kpop : sVal (.vKpop (vop .f32 9 2 0 0)) 9 mV = 2 := by decide +kernel
theorem test_v_sel : vElem (.vSel (vop .f32 7 1 6 0 1)) .va 7 32 1 = 2 := by decide +kernel
/-- R212: a lane that holds 0x8000_00FF gives 0.5. -/
theorem test_v_cvt_uniform : vElem (.vCvt (vop .i32 7 1 776 0)) .va 7 32 3 = 0x3F000000 := by decide +kernel
theorem test_v_pack : vElem (.vPack (vop .i32 7 1 6 0 6)) .va 7 16 34 = 5000 := by decide +kernel
theorem test_v_unpack : vElem (.vUnpack (vop .i8 7 1 0 0 0)) .va 7 32 12 = 0xFFFFFFFF := by decide +kernel
theorem test_v_zip : vElem (.vZip (vop .i32 7 1 3 0 1)) .va 7 32 1 = 16 := by decide +kernel
theorem test_v_unzip : vElem (.vUnzip (vop .i32 7 1 3 0 1)) .va 7 32 31 = 31 := by decide +kernel
theorem test_v_rot : vElem (.vRot (vop .i32 7 3 802 0)) .va 7 32 30 = 5 := by decide +kernel
theorem test_v_perm : vElem (.vPerm (vop .i32 7 1 6 0)) .va 7 32 0 = 3 := by decide +kernel
theorem test_v_ext : sVal (.vExt (vop .i32 5 3 802 0)) 5 mV = 7 := by decide +kernel
/-- R215: v.iota of zero gives lane i = i. -/
theorem test_v_iota : vElem (.vIota (vop .i32 7 803 0 0)) .va 7 32 31 = 31 := by decide +kernel
theorem test_v_xcp : vElem (.vXcp (vop .f32 7 1 0 0)) .va 7 32 1 = 8 := by decide +kernel
/-- R222: a counter of 0 under key 0 gives 0. -/
theorem test_v_rng : kch32 0 0 = 0 := by decide +kernel
/-- R155: v.movi.f32 #0x3F800 is 1.0. -/
theorem test_v_movi : vElem (.vMovi (vop .f32 7 0x0FE 0 0)) .va 7 32 9 = 0x3F800000 := by decide +kernel
theorem test_v_rsum : vElem (.vRsum { vop .i32 7 3 0 0 with mask := 2 }) .va 7 32 0 = 2 := by decide +kernel
theorem test_v_argmax : vElem (.vArgmax (vop .f32 7 2 0 0)) .va 7 32 5 = 0 := by decide +kernel
theorem test_v_scan : vElem (.vScan (vop .i32 7 3 0 0 1)) .va 7 32 31 = 465 := by decide +kernel
/-- R221: the manual's example: keys and payloads of lanes 0 to 6 and of lane 31, and v.sort's, which are the same. -/
theorem test_v_merge :
    ([0, 1, 2, 3, 4, 5, 6, 31].map (vElem (.vMerge (vop .f32 10 2 4 0 1)) .va 10 32),
     [0, 1, 2, 3, 4, 5, 6, 31].map (vElem (.vMerge (vop .f32 10 2 4 0 1)) .va 11 32)) =
    ([0x41100000, 0x41000000, 0x40E00000, 0x40E00000, 0x40E00000, 0x40400000, 0x40000000, 0xFF800000],
     [0, 100, 1, 2, 101, 3, 102, 28]) := by decide +kernel
theorem test_v_merge_last : vElem (.vMerge (vop .f32 10 2 4 0 3)) .va 11 32 3 = 103 := by decide +kernel
theorem test_v_sort :
    [0, 1, 2, 3, 4, 5, 6, 31].map (vElem (.vSort (vop .f32 10 2 4 0 1)) .va 11 32) =
      [0, 100, 1, 2, 101, 3, 102, 28] := by decide +kernel
theorem test_v_park : ((run (.vPark (vop .f32 0 3 0 0)) mV).core 0).spill.map (fun p => (p.reg, p.bank, p.due)) =
    [(3, 2, 102)] := by decide +kernel

/-! ## Witnesses: the VA and VB slots -/

theorem readyV (s : State) (i : Instr)
    (h : s.cur = 0 ∧ (s.core 0).run = some 0 ∧ (s.ctx 0 0).status = .ready ∧ s.pairOf 0 0 = none ∧
      (s.ctx 0 0).gtrap = none ∧ (s.ctx 0 0).ltrap = none ∧ s.gangs = [] ∧ (s.ctx 0 0).faults = [] ∧
      (s.ctx 0 0).guard = none ∧ (s.core 0).flips = [] ∧ (s.core 0).inject.getLsbD 0 = false ∧
      (s.ctx 0 0).again = none)
    (h2 : i.wfError = none ∧ (s.ctx 0 0).phase.getLsbD 0 = false ∧ vFootprint (s.env 0 0 i) i = none) :
    Claims.VectorReady s 0 0 i where
  calm := calm s i h
  wf := h2.1
  phase := h2.2.1
  foot := h2.2.2

/-- Every clause: the last code of the footprint, readable latches, the port of a s.bc and that of the context. -/
theorem witness_VectorOperandCodes :
    Obligations.VectorOperandCodes → vsrc (mV.env 0 0 (.sBc 1)) .va .f32 1 5 = lanes32 ((List.range 32).map (100 + ·)) ∧
      vsrc (mV.env 0 0 (.sBc 1)) .va .f32 1 800 = ((mV.ctx 0 0).latch0 .va).val ∧
      vsrc (mV.env 0 0 (.sBc 1)) .va .f32 1 801 = ((mV.ctx 0 0).latch1 .va).val ∧
      (mV.env 0 0 (.sBc 1)).port = (mV.ctx 0 0).rdS 1 ∧ (mV.env 0 0 .sNop).port = 7 := by
  intro h
  have a := h (mV.env 0 0 (.sBc 1)) .va .f32 1 5 31 (by decide)
  have b := h (mV.env 0 0 .sNop) .va .f32 1 5 31 (by decide)
  exact ⟨(a.1 (by decide)).trans (by decide +kernel), a.2.1 (by decide),
    (h (mV.env 0 0 (.sBc 1)) .va .f32 1 5 31 (by decide)).2.2.1 (by decide), a.2.2.2.2.2.2.2.1 1 [] rfl,
    b.2.2.2.2.2.2.2.2 rfl⟩

theorem witness_VectorElementwise :
    Obligations.VectorElementwise → Runs (.vFma { vop .bf16 127 1 1023 3 with h1 := true, mask := 2, rnd := .sat }) mV := by
  intro h
  obtain ⟨_, g, _⟩ := h mV 0 0 4 (.vFma { vop .bf16 127 1 1023 3 with h1 := true, mask := 2, rnd := .sat }) _ _ rfl
    (readyV _ _ (by decide) (by decide)) (noneFor rfl)
  exact runs_givesV g

theorem witness_VectorMasks :
    Obligations.VectorMasks → Runs (.vCmp (vop .i32 3 1 6 0 2)) mV ∧ Runs (.vKop (vop .f32 1 2 1 0 3)) mV ∧
      Runs (.vKpop (vop .f32 9 2 0 0)) mV ∧ Runs (.vSel (vop .f32 7 1 6 0 1)) mV := by
  intro h
  obtain ⟨_, a, _⟩ := (h mV 0 0 (vop .i32 3 1 6 0 2)).1 (readyV _ _ (by decide) (by decide)) (noneFor rfl)
  obtain ⟨_, b, _⟩ := (h mV 0 0 (vop .f32 1 2 1 0 3)).2.1 (readyV _ _ (by decide) (by decide)) (noneFor rfl)
  have c := (h mV 0 0 (vop .f32 9 2 0 0)).2.2.1 (readyV _ _ (by decide) (by decide)) (noneFor rfl)
  obtain ⟨_, d, _⟩ := (h mV 0 0 (vop .f32 7 1 6 0 1)).2.2.2 (readyV _ _ (by decide) (by decide)) (noneFor rfl)
  exact ⟨runs_delivers a, runs_delivers b, runs_delivers c, runs_givesV d⟩

/-- The conversions, with and without an error-feedback code. -/
theorem witness_VectorConversions :
    Obligations.VectorConversions → Runs (.vCvt (vop .i32 7 1 0 0 1)) mV ∧
      (∃ v, Claims.GivesV (.vCvt (vop .f32 7 2 0 0 3)) (vop .f32 7 2 0 0 3) mV 0 0 4
        (Claims.lanesOf mV 0 0 (vop .f32 7 2 0 0 3)) v ∧ elemOf 8 v 32 = 0) ∧
      Runs (.vCvt (vop .i32 6 5 776 0)) mV ∧ Runs (.vPack { vop .f32 7 1 6 0 1 with rnd := .ef }) mV ∧ Runs (.vUnpack (vop .i8 7 1 0 0 3)) mV := by
  intro h
  obtain ⟨_, a, _⟩ := (h mV 0 0 (vop .i32 7 1 0 0 1) (noneFor rfl)).1 _ (readyV _ _ (by decide) (by decide)) rfl
  obtain ⟨v, a2, a3⟩ := (h mV 0 0 (vop .f32 7 2 0 0 3) (noneFor rfl)).1 _ (readyV _ _ (by decide) (by decide)) rfl
  have a4 := a3 32 (by decide)
  rw [if_neg (by decide), if_neg (by decide)] at a4
  obtain ⟨_, u, _⟩ := (h mV 0 0 (vop .i32 6 5 776 0) (noneFor rfl)).1 _ (readyV _ _ (by decide) (by decide)) rfl
  obtain ⟨_, b, _⟩ := (h mV 0 0 { vop .f32 7 1 6 0 1 with rnd := .ef } (noneFor rfl)).2.1 _
    (readyV _ _ (by decide) (by decide)) rfl
  obtain ⟨_, c, _⟩ := (h mV 0 0 (vop .i8 7 1 0 0 3) (noneFor rfl)).2.2 (readyV _ _ (by decide) (by decide))
  exact ⟨runs_givesV a, ⟨v, a2, a4⟩, runs_givesV u, runs_givesV b, runs_givesV c⟩

/-- R115: the manual's example, of four lanes that hold 1.0625, and one with the second lane off. -/
theorem test_outputs : Claims.outputs .f32 (.fmt .e4m3) .ef (0, 0) (List.replicate 4 (0x3F880000, true)) =
    [some 0x38, some 0x39, some 0x38, some 0x39] := by decide +kernel
theorem test_outputs_masked : Claims.outputs .f32 (.fmt .e4m3) .ef (0, 0)
    [(0x3F880000, true), (0x3F880000, false), (0x3F880000, true)] = [some 0x38, none, some 0x39] := by decide +kernel

theorem witness_VectorConversions_pack :
    Obligations.VectorConversions →
      ∃ v, Claims.GivesV (.vPack (vop .i32 7 1 6 0 6)) (vop .i32 7 1 6 0 6) mV 0 0 4
        (Claims.lanesOf mV 0 0 (vop .i32 7 1 6 0 6)) v ∧ elemOf 16 v 63 = 0 := by
  intro h
  obtain ⟨v, a, b⟩ := (h mV 0 0 (vop .i32 7 1 6 0 6) (noneFor rfl)).2.1 _ (readyV _ _ (by decide) (by decide)) rfl
  have c := b 63 (by decide)
  unfold Claims.converted at c
  rw [if_neg (by decide)] at c
  exact ⟨v, a, c.trans (by decide +kernel)⟩

theorem witness_VectorMovement :
    Obligations.VectorMovement → Runs (.vIns (vop .bf16 7 1 804 802)) mV ∧ Runs (.vXcp (vop .f32 7 1 0 0)) mV ∧
      Runs (.vExt (vop .i32 63 3 802 0)) mV ∧ Runs (.vRng (vop .i32 7 3 0 0)) mV := by
  intro h
  obtain ⟨_, a, _⟩ := (h mV 0 0).1 (.vIns (vop .bf16 7 1 804 802)) _ _ _ rfl (readyV _ _ (by decide) (by decide))
    (noneFor rfl)
  obtain ⟨_, b, _⟩ := (h mV 0 0).1 (.vXcp (vop .f32 7 1 0 0)) _ _ _ rfl (readyV _ _ (by decide) (by decide))
    (noneFor rfl)
  have c := (h mV 0 0).2.1 (vop .i32 63 3 802 0) (readyV _ _ (by decide) (by decide)) (noneFor rfl)
  obtain ⟨_, d, _⟩ := (h mV 0 0).2.2 (vop .i32 7 3 0 0) (readyV _ _ (by decide) (by decide)) (noneFor rfl)
  exact ⟨runs_givesV a, runs_givesV b, runs_delivers c, runs_givesV d⟩

/-- The reductions over some lanes, and over none: mask 7 holds no lane. -/
theorem witness_VectorReductions :
    Obligations.VectorReductions →
      (Runs (.vRsum (vop .f32 7 2 0 0)) mV ∧ Runs (.vRmax (vop .f32 7 2 0 0)) mV ∧ Runs (.vRmin (vop .i8 7 2 0 0)) mV ∧
        Runs (.vArgmax (vop .f16 7 2 0 0)) mV ∧ Runs (.vScan (vop .f32 7 2 0 0 1)) mV) := by
  intro h
  have g := fun o => h mV 0 0 o
  have a := (g (vop .f32 7 2 0 0) (noneFor rfl)).1 (readyV _ _ (by decide) (by decide))
  have b := (g (vop .f32 7 2 0 0) (noneFor rfl)).2.1 (readyV _ _ (by decide) (by decide))
  have c := (g (vop .i8 7 2 0 0) (noneFor rfl)).2.2.1 (readyV _ _ (by decide) (by decide))
  have d := (g (vop .f16 7 2 0 0) (noneFor rfl)).2.2.2.1 (readyV _ _ (by decide) (by decide))
  obtain ⟨_, e, _⟩ := (g (vop .f32 7 2 0 0 1) (noneFor rfl)).2.2.2.2 (readyV _ _ (by decide) (by decide))
  rw [if_neg (by decide)] at a b c d
  obtain ⟨_, a, _⟩ := a
  obtain ⟨_, b, _⟩ := b
  obtain ⟨_, c, _⟩ := c
  obtain ⟨_, _, d, _⟩ := d
  exact ⟨runs_givesV a, runs_givesV b, runs_givesV c, runs_givesV d, runs_givesV e⟩

theorem witness_VectorReductions_none :
    Obligations.VectorReductions →
      Runs (.vRsum { vop .f32 7 2 0 0 with mask := 7 }) mV ∧ Runs (.vRmax { vop .f32 7 2 0 0 with mask := 7 }) mV ∧
      Runs (.vRmin { vop .f32 7 2 0 0 with mask := 7 }) mV ∧ Runs (.vArgmax { vop .f32 7 2 0 0 with mask := 7 }) mV := by
  intro h
  have g := h mV 0 0 { vop .f32 7 2 0 0 with mask := 7 } (noneFor rfl)
  have a := g.1 (readyV _ _ (by decide) (by decide))
  have b := g.2.1 (readyV _ _ (by decide) (by decide))
  have c := g.2.2.1 (readyV _ _ (by decide) (by decide))
  have d := g.2.2.2.1 (readyV _ _ (by decide) (by decide))
  rw [if_pos (by decide)] at a b c d
  exact ⟨runs_completes a, runs_completes b, runs_completes c, runs_completes d⟩

theorem witness_VectorSortAndMerge :
    Obligations.VectorSortAndMerge → Runs (.vSort (vop .i32 126 2 4 0 0)) mV ∧ Runs (.vMerge (vop .f32 10 2 4 0 3)) mV := by
  intro h
  obtain ⟨_, _, _, _, _, _, _, _, _, _, _, _, a⟩ :=
    (h mV 0 0 (vop .i32 126 2 4 0 0) (noneFor rfl) (noneFor rfl)).1 (readyV _ _ (by decide) (by decide))
  obtain ⟨_, _, _, _, _, _, _, _, _, _, b⟩ :=
    (h mV 0 0 (vop .f32 10 2 4 0 3) (noneFor rfl) (noneFor rfl)).2 (readyV _ _ (by decide) (by decide))
  exact ⟨runs_completes a, runs_completes b⟩

/-- va3 is parked in a column of bank 2 since cycle 90. -/
def mParked : State :=
  machine ctx0 fun c => { c with spill := [{ ctx := 0, u := .va, reg := 3, val := 5, old := 0, due := 92, bank := 2 }] }

theorem witness_VectorParking :
    Obligations.VectorParking → Runs (.vPark (vop .f32 0 127 0 0)) mV ∧ Runs (.vPark (vop .f32 0 3 0 0)) mParked ∧
      Runs (.vUnpark (vop .f32 3 0 0 0)) mParked := by
  intro h
  obtain ⟨_, _, _, _, _, _, _, a⟩ :=
    ((h mV 0 0 (vop .f32 0 127 0 0)).1 (readyV _ _ (by decide) (by decide))).1 _ rfl (by decide : _ = some 2)
  have b := ((h mParked 0 0 (vop .f32 0 3 0 0)).1 (readyV _ _ (by decide) (by decide))).2 _ rfl (by decide)
  obtain ⟨_, _, _, c⟩ :=
    (h mParked 0 0 (vop .f32 3 0 0 0)).2 (readyV _ _ (by decide) (by decide)) (noneFor rfl) _ rfl (by decide)
  exact ⟨runs_completes a, runs_completes b, runs_completes c⟩

/-- The first code beyond the footprint, as a destination, in a pair and as a source. -/
theorem witness_VectorFootprintTraps :
    Claims.VectorFootprintTraps → Runs (.vAdd (vop .f32 128 1 1 0)) mV ∧ Runs (.vSort (vop .f32 127 1 1 0)) mV ∧
      Runs (.vPark (vop .f32 0 767 0 0)) mV := fun h =>
  ⟨⟨_, h mV 0 0 128 _ _ _ rfl (by decide) (calm _ _ (by decide)) (by refine ⟨?_, ?_, ?_, ?_⟩ <;> decide)
      (.inl ⟨by decide, rfl⟩) (by decide) (by decide)⟩,
   ⟨_, h mV 0 0 128 _ _ _ rfl (by decide) (calm _ _ (by decide)) (by refine ⟨?_, ?_, ?_, ?_⟩ <;> decide)
      (.inr (.inl ⟨rfl, .inr rfl⟩)) (by decide) (by decide)⟩,
   ⟨_, h mV 0 0 767 _ _ _ rfl (by decide) (calm _ _ (by decide)) (by refine ⟨?_, ?_, ?_, ?_⟩ <;> decide)
      (.inr (.inr (.inl ⟨by decide, rfl⟩))) (by decide) (by decide)⟩⟩

def mX : State := machine { ctx0 with phase := 3 }

theorem canHandleX : mX.CanHandle 0 0 := by refine ⟨?_, ?_, ?_, ?_⟩ <;> decide

theorem witness_SuperstepLegality :
    Claims.SuperstepLegality → Runs (.vMov (vop .f32 1 2 0 0)) mX ∧ Runs (.mZero 1) mX ∧ Runs .qNop mX ∧
      Runs .xGend m0 := fun h =>
  ⟨⟨_, h mX 0 0 4 _ (by decide) (calm _ _ (by decide)) canHandleX
      (.inl ⟨by decide, ⟨_, _, rfl, rfl⟩, by decide, by simp, by simp⟩)⟩,
   ⟨_, h mX 0 0 6 _ (by decide) (calm _ _ (by decide)) canHandleX
      (.inr (.inl ⟨by decide, rfl, 1, .inr rfl, by decide⟩))⟩,
   ⟨_, h mX 0 0 7 _ (by decide) (calm _ _ (by decide)) canHandleX (.inr (.inr (.inl ⟨by decide, rfl, rfl⟩)))⟩,
   ⟨_, h m0 0 0 1 _ (by decide) (calm0 _) canHandle0 (.inr (.inr (.inr ⟨by decide, rfl, rfl⟩)))⟩⟩

/-! ## The M and Q slots -/

/-- The code of an integer in FP32. -/
def f32 (n : Nat) : W32 := BitVec.ofNat 32 (Fmt.f32.round .rne (.fin n 0))

/-- R235's example: row 3 of bank 0 after a beat, with bit 21 of cell (3, 5) flipped, its checksums, and, where `two`
holds, cell (3, 7) flipped as well. -/
def flipped (two : Bool) : AccBank where
  cells := (List.range 32).map fun n =>
    (96 + n, if n = 5 ∨ (n = 7 ∧ two) then f32 (2 * (n + 1)) ^^^ 0x200000 else f32 (2 * (n + 1)))
  ckr := (List.range 32).map fun n => (n, f32 (2 * (n + 1)))
  ckc := [(3, f32 1056)]
  checked := false

def mBank (b : AccBank) : State := machine ctx0 fun c => { c with accs := [(0, b)] }

/-- R235: only row 3 and column 5 mismatch, and the cell becomes 12. -/
theorem test_bank_check : (flipped false).check false 0 = .fix 3 5 0x41400000 := by decide +kernel
/-- R235: R_3 = 1,058; with cell (3, 7) flipped as well, C_5 and C_7 differ from their checksums. -/
theorem test_bank_sums :
    (bankSum false ((flipped false).row 3), bankSum false ((flipped true).col 5), bankSum false ((flipped true).col 7)) =
      ((f32 1058).toNat, (f32 14).toNat, (f32 20).toNat) := by decide +kernel
/-- R237: mx.status shows ckc, bank 0, rowmis 1, colmis 1 and corr 1. -/
theorem test_mx_status : mxAfter 0 1 0 1 1 1 = 0x01010102 := by decide

/-- R234: a bottom row that holds 5, 2, 9, 2 in columns 0 to 3 and 7 elsewhere. -/
def bottomRow : AccBank where
  cells := (List.range 32).map fun n => (n, f32 ([5, 2, 9, 2].getD n 7))

theorem test_topk :
    ([0, 1, 2, 3].map (elemOf 32 (topVal .bf16 3 false bottomRow)),
     [8, 9, 10, 11].map (elemOf 32 (topVal .bf16 3 false bottomRow))) =
    ([0x40000000, 0x40000000, 0x40A00000, 0], [1, 3, 0, 0]) := by decide +kernel
theorem test_topk_max :
    [8, 9, 10].map (elemOf 32 (topVal .bf16 3 true bottomRow)) = [2, 4, 5] := by decide +kernel

/-- Rings 0 and 1 with a filled slot each; ring 2 is filled too, and its row lies in the last slot. The slots are in
class A; the scale queue holds 32 entries of 1. -/
def mMat (q : ScaleQ := {}) : State :=
  machine { ctx0 with a := [(1, 0x1000), (2, 64)], sq := q } fun c =>
    { c with
      sb := [(2, { state := .present }), (3, { state := .present })],
      sp := Mem.writeBytes (Mem.writeBytes [] 0x1000 [0, 0x40, 0x80, 0x3F]) 0x1800 [0, 0x40, 0x80, 0x3F],
      rings := [(0, { cfg := true, base := 2, len := 1, tail := 1 }), (1, { cfg := true, base := 3, len := 4, tail := 1 }),
                (2, { cfg := true, base := 639, len := 1, tail := 1 })] }

def landed32 : ScaleQ := { landed := List.replicate 32 0x3F80 }

theorem readyM (s : State) (i : Instr)
    (h : s.cur = 0 ∧ (s.core 0).run = some 0 ∧ (s.ctx 0 0).status = .ready ∧ s.pairOf 0 0 = none ∧
      (s.ctx 0 0).gtrap = none ∧ (s.ctx 0 0).ltrap = none ∧ s.gangs = [] ∧ (s.ctx 0 0).faults = [] ∧
      (s.ctx 0 0).guard = none ∧ (s.core 0).flips = [] ∧ (s.core 0).inject.getLsbD 0 = false ∧
      (s.ctx 0 0).again = none)
    (h2 : i.wfError = none ∧ (s.ctx 0 0).phase.getLsbD 0 = false) : Claims.SlotReady s 0 0 i where
  calm := calm s i h
  wf := h2.1
  phase := h2.2

/-- R229: A[0][0] = 2 and A[0][1] = 1, B the same: cell (0, 0) becomes 4 and the sum of row 0 becomes 6. -/
def smallBeat (dist : Bool) : AccBank :=
  AccBank.beat {} { pair := .bf16, dist := dist, a := [0, 0x40, 0x80, 0x3F], b := [0, 0x40, 0x80, 0x3F], scales := [] }

theorem test_beat_cell : (smallBeat false).cell 0 0 = 0x40800000 := by decide +kernel
theorem test_beat_sum : AMap.get (smallBeat false).ckc 0 0 = 0x40C00000 := by decide +kernel
theorem test_dist_cell : (smallBeat true).cell 0 1 = 0x3F800000 := by decide +kernel
theorem test_beat_pops :
    ((run (.mAcc (beat .bf16 0 false 0 false false 1 true 0)) mMat).core 0 |>.ring 1).head = 1 := by decide +kernel
theorem test_shift :
    ((run (.mShift 0) (mBank (flipped false))).core 0 |>.acc 0 0).cell 2 0 = 0x40000000 := by decide +kernel
theorem test_q_ld :
    ((run (.qLd 1 0) (mMat)).ctx 0 0).sq.loads.map (fun l => (l.at_, l.vals.take 2)) = [(104, [0x4000, 0x3F80])] := by
  decide +kernel

/-! ### Witnesses -/

theorem witness_MatrixPush :
    Obligations.MatrixPush → Runs (.mPush .e4m3dp8 false 2 15 true) mMat ∧ Runs (.mPush .bf16 true 1 31 false) mMat := by
  intro h
  obtain ⟨_, _, a⟩ := h mMat 0 0 .e4m3dp8 false true 2 15 (readyM _ _ (by decide) (by decide))
    ⟨by decide, by decide, by unfold Claims.Reaches; decide +kernel⟩
  obtain ⟨_, _, b⟩ := h mMat 0 0 .bf16 true false 1 31 (readyM _ _ (by decide) (by decide))
    ⟨by decide, by decide, by unfold Claims.Reaches; decide +kernel⟩
  exact ⟨runs_completes a, runs_completes b⟩

theorem witness_MatrixShiftAndZero :
    Obligations.MatrixShiftAndZero → Runs (.mShift 1) m0 ∧ Runs (.mZero 1) m0 := by
  intro h
  obtain ⟨_, _, _, _, _, a⟩ := (h m0 0 0 1 (by decide)).1 (readyM _ _ (by decide) (by decide))
  obtain ⟨_, _, _, _, _, b⟩ := (h m0 0 0 1 (by decide)).2 (readyM _ _ (by decide) (by decide))
  exact ⟨runs_completes a, runs_completes b⟩

/-- A beat of two rings, and the last beat of a K-block with the scales of the queue and an edge latch. -/
theorem witness_MatrixBeats :
    Claims.MatrixBeats → Runs (.mAcc (beat .bf16 1 false 0 false false 1 true 31)) mMat ∧
      Runs (.mDist (beat .e4m3dp8 0 true 0 false false 2 true 7)) (mMat landed32) := by
  intro h
  obtain ⟨_, _, a⟩ := h mMat 0 0 (.mAcc (beat .bf16 1 false 0 false false 1 true 31)) _ _ rfl rfl
    (readyM _ _ (by decide) (by decide))
    ⟨by decide, fun x => absurd x (by decide), fun _ => ⟨by decide, by decide, by unfold Claims.Reaches; decide +kernel⟩,
      fun _ _ => ⟨by decide, by decide, by unfold Claims.Reaches; decide +kernel⟩, fun x => absurd x (by decide)⟩
  obtain ⟨_, _, b⟩ := h (mMat landed32) 0 0 (.mDist (beat .e4m3dp8 0 true 0 false false 2 true 7)) _ _ rfl rfl
    (readyM _ _ (by decide) (by decide))
    ⟨by decide, fun x => absurd x (by decide), fun x => absurd x (by decide),
      fun _ _ => ⟨by decide, by decide, by unfold Claims.Reaches; decide +kernel⟩,
      fun _ _ => ⟨by decide, by unfold Claims.QueueSound; decide⟩⟩
  exact ⟨runs_completes a, runs_completes b⟩

/-- A beat whose fields name the gang. -/
def gangBeat : BeatOp := { beat .bf16 0 false 0 false false 1 true 0 with gang := true }

def theGang : Gang where
  die := 0
  cluster := 0
  mask := 3
  members := [(0, 0), (1, 0)]
  ended := []
  beatAt := some 100
  beatRow := List.replicate 64 0
  scales := List.replicate 32 0
  seen := some 100
  peers := [{ core := 1, pair := .bf16, dist := false, row := 0 }]

/-- Cores 0 and 1 run context 0 of a gang; core 1's turn, or core 0's. -/
def mGang (k : Nat) : State :=
  { mMat with turn := .issue k, cur := k, gangs := [theGang], cores := [(0, mMat.core 0), (1, mMat.core 0)] }

theorem readyG (k : Nat) (i : Instr)
    (h : (mGang k).cur = k ∧ ((mGang k).core k).run = some 0 ∧ ((mGang k).ctx k 0).status = .ready ∧
      (mGang k).pairOf k 0 = none ∧ ((mGang k).ctx k 0).gtrap = none ∧ ((mGang k).ctx k 0).ltrap = none ∧
      gangClash ((mGang k).env k 0 i) = none ∧ ((mGang k).ctx k 0).faults = [] ∧ ((mGang k).ctx k 0).guard = none ∧
      ((mGang k).core k).flips = [] ∧ ((mGang k).core k).inject.getLsbD 0 = false ∧ ((mGang k).ctx k 0).again = none)
    (h2 : i.wfError = none ∧ ((mGang k).ctx k 0).phase.getLsbD 0 = false) : Claims.SlotReady (mGang k) k 0 i where
  calm := ⟨h.1, h.2.1, h.2.2.1, h.2.2.2.1, h.2.2.2.2.1, h.2.2.2.2.2.1, h.2.2.2.2.2.2.1,
    .inr ⟨h.2.2.2.2.2.2.2.1, h.2.2.2.2.2.2.2.2.1⟩, h.2.2.2.2.2.2.2.2.2.1, h.2.2.2.2.2.2.2.2.2.2.1,
    h.2.2.2.2.2.2.2.2.2.2.2⟩
  wf := h2.1
  phase := h2.2

/-- The leader's beat, which the member's agrees with, and the member's. -/
theorem witness_MatrixGangBeats :
    Claims.MatrixGangBeats → Runs (.mAcc gangBeat) (mGang 0) ∧ Runs (.mAcc gangBeat) (mGang 1) := by
  intro h
  have a := h (mGang 0) 0 0 (.mAcc gangBeat) _ _ theGang rfl rfl (readyG 0 _ (by decide +kernel) (by decide))
    ⟨by decide, fun _ => by decide, fun _ => ⟨by decide, by decide, by unfold Claims.Reaches; decide +kernel⟩,
      fun _ _ => ⟨by decide, by decide, by unfold Claims.Reaches; decide +kernel⟩, fun x => absurd x (by decide)⟩
    (by decide) (by decide)
  have b := h (mGang 1) 1 0 (.mAcc gangBeat) _ _ theGang rfl rfl (readyG 1 _ (by decide +kernel) (by decide))
    ⟨by decide, fun _ => by decide, fun _ => ⟨by decide, by decide, by unfold Claims.Reaches; decide +kernel⟩,
      fun _ x => absurd x (by decide), fun x => absurd x (by decide)⟩
    (by decide) (by decide)
  rw [if_neg (by decide)] at a
  rw [if_pos (by decide)] at b
  obtain ⟨_, _, _, _, _, _, a⟩ := a
  obtain ⟨_, _, b⟩ := b (by decide) (by decide)
  exact ⟨runs_completes a, runs_completes b⟩

/-- A drain of a checked bank to the last register of the footprint, and a selection from an unchecked one without
checks. -/
theorem witness_MatrixDrains :
    Obligations.MatrixDrains → Runs (.mDrain .bf16 1 .va 127 0 .rne) m0 ∧
      Runs (.mTopk .i8 0 .vb 0 7 true) (machine { ctx0 with mxMode := 2 } fun c =>
        { c with accs := [(0, { checked := false })] }) := by
  intro h
  obtain ⟨_, _, _, _, a⟩ := h m0 0 0 (.mDrain .bf16 1 .va 127 0 .rne) _ _ _ _ _ rfl
    (readyM _ _ (by decide) (by decide)) (by decide) (by decide) (.inl (by decide)) (noneFor rfl)
  obtain ⟨_, _, _, _, b⟩ := h (machine { ctx0 with mxMode := 2 } fun c =>
      { c with accs := [(0, { checked := false })] }) 0 0 (.mTopk .i8 0 .vb 0 7 true) _ _ _ _ _ rfl
    (readyM _ _ (by decide) (by decide)) (by decide) (by decide) (.inr (.inl (by decide))) (noneFor rfl)
  exact ⟨runs_delivers a, runs_delivers b⟩

/-- An unchecked INT32 bank whose checksum of row 2 is 6 and whose column checksums are those of cell (2, 3) = 6 and, in
`two`, of (2, 4) = 1; the cell holds 7. -/
def mInt (two : Bool) : State :=
  mBank { cells := [(67, 7)], ckr := [(3, 6), (4, if two then 1 else 0)], ckc := [(2, 6)], checked := false }

theorem witness_MatrixChecks :
    Obligations.MatrixChecks → Runs (.mDrain .i8 0 .va 1 5 .rne) (mInt false) ∧
      Runs (.mTopk .i8 0 .va 1 3 true) (mInt false) ∧ Runs (.mDrain .i8 0 .va 1 5 .rne) (mInt true) := by
  intro h
  have ms : ((mInt true).core 0 |>.acc 0 0).misses true 0 = ([2], [3, 4]) := by decide +kernel
  obtain ⟨_, _, _, _, _, _, _, a⟩ := (h (mInt false) 0 0 (.mDrain .i8 0 .va 1 5 .rne) _ _ _ _ _ rfl
    (readyM _ _ (by decide) (by decide)) (by decide) (by decide) (by decide) (by decide)).1 2 3 (by decide +kernel)
    (noneFor rfl)
  obtain ⟨_, _, _, _, _, _, _, c⟩ := (h (mInt false) 0 0 (.mTopk .i8 0 .va 1 3 true) _ _ _ _ _ rfl
    (readyM _ _ (by decide) (by decide)) (by decide) (by decide) (by decide) (by decide)).1 2 3 (by decide +kernel)
    (noneFor rfl)
  have b := (h (mInt true) 0 0 (.mDrain .i8 0 .va 1 5 .rne) _ _ _ _ _ rfl (readyM _ _ (by decide) (by decide))
    (by decide) (by decide) (by decide) (by decide)).2 (by decide +kernel)
    (fun r c e => by
      have := ms.symm.trans e
      simp at this)
    rfl (by refine ⟨?_, ?_, ?_, ?_⟩ <;> decide)
  exact ⟨runs_delivers a, runs_delivers c, ⟨_, b⟩⟩

/-- With no result in flight, an address is read as it stands. -/
theorem mayRead {x : Ctx} {n : Nat} {v : W64} (p : x.pend = []) (h : Claims.MayRead x n v) :
    v = if n = 0 then 0 else x.rdA n := by
  rcases h with h | ⟨_, q, hq, _⟩
  · exact h
  · simp [p] at hq

/-- q.skip of more entries than have landed: those of a load in flight go when they land. -/
theorem witness_ScaleSlots :
    Obligations.ScaleSlots → Runs .qNop m0 ∧ Runs (.qLd 1 0) (mMat landed32) ∧ Runs (.qLdt 1 0xFFF0 16) mMat ∧
      Runs (.qSkip 64) (mMat { landed32 with loads := [⟨103, 103, List.replicate 32 0⟩] }) := by
  intro h
  obtain ⟨_, _, a, _⟩ := h m0 0 0 0 0
  obtain ⟨v, r, _, b, _⟩ := h (mMat landed32) 0 0 1 0
  obtain ⟨w, q, _, _, c, _⟩ := h mMat 0 0 1 0xFFF0
  obtain ⟨_, _, _, _, _, d⟩ := h (mMat { landed32 with loads := [⟨103, 103, List.replicate 32 0⟩] }) 0 0 0 0
  obtain rfl := mayRead rfl r
  obtain rfl := mayRead rfl q
  have b := b (readyM _ _ (by decide) (by decide)) (by decide) rfl rfl (by unfold Claims.Reaches; decide +kernel)
  obtain ⟨_, _, _, _, _, c⟩ := c (readyM _ _ (by decide) (by decide)) (by decide) rfl rfl
    (by unfold Claims.Reaches; decide +kernel)
  have d := d 64 (readyM _ _ (by decide) (by decide)) (by unfold Claims.QueueSound; decide) (by decide) (by decide)
  exact ⟨runs_completes (a (readyM _ _ (by decide) (by decide))), runs_completes b, runs_completes c, runs_completes d⟩

/-! ## Witnesses: the X slot at issue -/

theorem readyX (s : State) (i : Instr)
    (h : s.cur = 0 ∧ (s.core 0).run = some 0 ∧ (s.ctx 0 0).status = .ready ∧ s.pairOf 0 0 = none ∧
      (s.ctx 0 0).gtrap = none ∧ (s.ctx 0 0).ltrap = none ∧ s.gangs = [] ∧ (s.ctx 0 0).faults = [] ∧
      (s.ctx 0 0).guard = none ∧ (s.core 0).flips = [] ∧ (s.core 0).inject.getLsbD 0 = false ∧
      (s.ctx 0 0).again = none)
    (h2 : i.wfError = none ∧ Claims.onlyIn i ≠ some (!(s.ctx 0 0).phase.getLsbD 0)) : Claims.CommandReady s 0 0 i where
  calm := calm s i h
  wf := h2.1
  phase b e := by
    have := h2.2
    rw [e] at this
    revert this
    cases b <;> cases (s.ctx 0 0).phase.getLsbD 0 <;> simp

theorem runs_handsOver {i : Instr} {s : State} {k j n : Nat} {f : State → State} : Claims.HandsOver i s k j n f → Runs i s
  | ⟨_, _, h⟩ => runs_completes h

/-- A command in flight. -/
def aCmd : Cmd where
  ins := .xPhq 0 0
  seq := 0
  t := 0
  pc := 0
  args := []
  data := []
  reads := []
  i := 0
  n := 0
  sub := 0
  status := .queued
  bad := none
  hold := none
  poison := none
  sent := 0
  src := 0

/-- s1 to s4: the last 4 KiB-aligned level-D addresses, the last pieces of the working slots of 128 and 256 bytes, and
1,023; ring 5 has an open window. -/
def mCmd (phase : W64) (n : Nat) : State :=
  machine { ctx0 with
      s := [(1, 0xFFFFFFFFFF800), (2, 0xFFF80), (3, 0xFFF00), (4, 1023), (5, 0x13FFC0), (6, 4095), (7, 0xFFE00)],
      phase := phase, dom := some 0,
      cmds := List.replicate n aCmd }
    fun c => { c with rings := [(5, { cfg := true, base := 2, len := 4, win := some ⟨0, 1, 2048, 0⟩ })] }

/-- The limits of the operands: the last slot, the last pool slot, a list at the end of the working slots, the last core,
63 commands in flight. -/
theorem witness_CommandsHandOver :
    Claims.CommandsHandOver →
      (Runs (.xXch 0 .plain 1 1 639 0) (mCmd 0 63) ∧ Runs (.xXchp 0 1 6 639 0) (mCmd 1 0) ∧
      Runs (.xXchs 0 .acq 1 7 2 1 31) (mCmd 0 0) ∧ Runs (.xWadv 0 1 5 0xFFFF) (mCmd 0 0) ∧ Runs (.xWcls 0 1 5) (mCmd 0 0)) ∧
      Runs (.xRst 0 1 5 5 4 0) (mCmd 1 0) ∧ Runs (.xPhq 1 9) (mCmd 0 0) ∧
      Runs (.xAmov 0 .ar 1 1 2 3 3 8 true 31) (mCmd 0 0) ∧ Runs (.xRedm 0 .rel 1 1 5 0 1 31) (mCmd 0 0) ∧
      Runs (.xFence 1 0 4) (mCmd 1 0) := by
  intro h
  refine ⟨⟨?_, ?_, ?_, ?_, ?_⟩, ?_, ?_, ?_, ?_, ?_⟩
  · exact runs_handsOver (h (mCmd 0 63) 0 0 _ _ _ rfl (readyX _ _ (by decide) (by decide)) (by decide)
      ⟨by decide, by unfold Claims.farAt; decide, by unfold Claims.noGuard; decide⟩)
  · exact runs_handsOver (h (mCmd 1 0) 0 0 _ _ _ rfl (readyX _ _ (by decide) (by decide)) (by decide)
      ⟨by decide, by decide, by unfold Claims.noGuard; decide⟩)
  · exact runs_handsOver (h (mCmd 0 0) 0 0 _ _ _ rfl (readyX _ _ (by decide) (by decide)) (by decide)
      ⟨by unfold Claims.nearAt; decide, by unfold Claims.nearAt; decide, by unfold Claims.farAt; decide,
       by unfold Claims.noGuard; decide⟩)
  · exact runs_handsOver (h (mCmd 0 0) 0 0 _ _ _ rfl (readyX _ _ (by decide) (by decide)) (by decide) (by decide))
  · exact runs_handsOver (h (mCmd 0 0) 0 0 _ _ _ rfl (readyX _ _ (by decide) (by decide)) (by decide) (by decide))
  · exact runs_handsOver (h (mCmd 1 0) 0 0 _ _ _ rfl (readyX _ _ (by decide) (by decide)) (by decide)
      ⟨by decide, ⟨0, rfl, by decide⟩, by decide, by decide, by decide, by decide, by decide⟩)
  · exact runs_handsOver (h (mCmd 0 0) 0 0 _ _ _ rfl (readyX _ _ (by decide) (by decide)) (by decide) trivial)
  · exact runs_handsOver (h (mCmd 0 0) 0 0 _ _ _ rfl (readyX _ _ (by decide) (by decide)) (by decide)
      ⟨by unfold Claims.farAt; decide, by unfold Claims.nearAt; decide, fun _ => by unfold Claims.nearAt; decide,
       fun _ => by unfold Claims.nearAt; decide⟩)
  · exact runs_handsOver (h (mCmd 0 0) 0 0 _ _ _ rfl (readyX _ _ (by decide) (by decide)) (by decide)
      ⟨by unfold Claims.farAt; decide, by decide, by decide⟩)
  · exact runs_handsOver (h (mCmd 1 0) 0 0 _ _ _ rfl (readyX _ _ (by decide) (by decide)) (by decide) trivial)

/-- A range up to the end of memory; an exchange nest of one element at slot 639. -/
def mRange : State :=
  machine { ctx0 with s := [(1, 0xFFFFFFFFFF800), (2, 2048), (3, 0)] } fun c =>
    { c with sb := [(0, { state := .present })], sp := Mem.writeBytes [] 8 [0x7F, 2] }

theorem witness_CommandsHandOver_ranges :
    Claims.CommandsHandOver →
      Runs (.xProbe 1 1 2 0 false false) mRange ∧ Runs (.xDisc 0 1 1 2) mRange ∧ Runs (.xHint 1 1 2 2 1) mRange ∧
      Runs (.xHot 1 0 1) mRange ∧ Runs (.xXchn 0 .plain 1 3) mRange ∧ Runs (.xAmo 0 .plain 1 1 0 0 0 0 false) mRange := by
  intro h
  refine ⟨?_, ?_, ?_, ?_, ?_, ?_⟩
  · exact runs_handsOver (h mRange 0 0 _ _ _ rfl (readyX _ _ (by decide) (by decide)) (by decide)
      (by unfold Claims.goodRange; decide))
  · exact runs_handsOver (h mRange 0 0 _ _ _ rfl (readyX _ _ (by decide) (by decide)) (by decide)
      (by unfold Claims.goodRange; decide))
  · exact runs_handsOver (h mRange 0 0 _ _ _ rfl (readyX _ _ (by decide) (by decide)) (by decide)
      ⟨by unfold Claims.goodRange; decide, by decide⟩)
  · exact runs_handsOver (h mRange 0 0 _ _ _ rfl (readyX _ _ (by decide) (by decide)) (by decide) (by decide))
  · exact runs_handsOver (h mRange 0 0 _ _ _ rfl (readyX _ _ (by decide) (by decide)) (by decide)
      ⟨by unfold Claims.nearAt; decide, by decide +kernel⟩)
  · exact runs_handsOver (h mRange 0 0 _ _ _ rfl (readyX _ _ (by decide) (by decide)) (by decide)
      (by unfold Claims.farAt; decide))

theorem witness_CommandLimitTraps : Claims.CommandLimitTraps → Runs (.xPhq 1 9) (mCmd 0 64) := fun h =>
  ⟨_, h (mCmd 0 64) 0 0 _ _ _ rfl (readyX _ _ (by decide) (by decide)) (by refine ⟨?_, ?_, ?_, ?_⟩ <;> decide) (by decide)⟩

theorem witness_MonitorCommands : Claims.MonitorCommands → Runs (.xMon 0 .acq 1 1 2) (mCmd 0 63) := fun h =>
  runs_handsOver (h (mCmd 0 63) 0 0 0 .acq 1 1 2 (readyX _ _ (by decide) (by decide)) (by decide)
    (by unfold Claims.farAt; decide))

/-- A barrier of one participant (kind 4) of the context's domain at the last piece of the working slots. -/
def mColl : State :=
  machine { ctx0 with s := [(1, 0xFFFC0)], phase := 1, dom := some 0 } fun c =>
    { c with sb := [(511, { state := .present })], sp := Mem.writeBytes [] 0xFFFC0 [4, 0, 0, 0, 1] }

theorem witness_CollectiveCommands : Claims.CollectiveCommands → Runs (.xColl 0 1 1) mColl := by
  intro h
  obtain ⟨_, _, _, _, _, _, _, _, _, _, _, _, a⟩ := h mColl 0 0 0 1 1 (readyX _ _ (by decide) (by decide)) (by decide)
    (by unfold Claims.nearAt; decide) (by decide +kernel) (by decide +kernel) (by decide) (by decide)
    (fun h => absurd h (by decide +kernel))
  exact runs_handsOver a

/-- Ring 5 (slots 2 to 5) with all its slots open; s1 and s2 open a window on it. -/
def mRings (tail : Nat) : State :=
  machine { ctx0 with s := [(1, 0xFFFFFFFFFF800), (2, 0x0500080000000001), (3, 0x0F0801FF)] } fun c =>
    { c with rings := [(5, { cfg := true, base := 2, len := 4, tail := tail })] }

theorem witness_WindowsOpen : Claims.WindowsOpen → Runs (.xWin 1 2) (mRings 0) := fun h =>
  runs_completes (h (mRings 0) 0 0 1 2 (readyX _ _ (by decide) (by decide)) (by decide) rfl rfl rfl)

/-- All open slots filled at once, all filled slots popped, none; a ring that ends at slot 512. -/
theorem witness_RingCommands :
    Claims.RingCommands → Runs (.xRing 3) (machine { ctx0 with s := [(3, 0x0F0005FF)] }) ∧
      Runs (.xRap 5 4) (mRings 0) ∧ Runs (.xRap 5 0) (mRings 4) ∧ Runs (.xRac 5 4) (mRings 4) := fun h =>
  ⟨runs_completes ((h (machine { ctx0 with s := [(3, 0x0F0005FF)] }) 0 0 3 0 0).1 (readyX _ _ (by decide) (by decide))
      (by decide) rfl),
   runs_completes ((h (mRings 0) 0 0 0 5 4).2.1 (readyX _ _ (by decide) (by decide)) rfl rfl (by decide)),
   runs_completes ((h (mRings 4) 0 0 0 5 0).2.1 (readyX _ _ (by decide) (by decide)) rfl rfl (by decide)),
   runs_completes ((h (mRings 4) 0 0 0 5 4).2.2 (readyX _ _ (by decide) (by decide)) rfl (by decide))⟩

/-- Each wait where it is over and where it is not: the whole ring, one slot, a counter at and below n, a monitor. -/
theorem witness_EngineWaits :
    Claims.EngineWaits →
      (Runs (.xRwf 5 4) (mRings 4) ∧ Runs (.xRwf 5 1) (mRings 0) ∧ Runs (.xRwe 5 4) (mRings 0) ∧ Runs (.xRwe 5 1) (mRings 4)) ∧
      Runs (.xCwait 1 0) m0 ∧ Runs (.xCwait 1 1) m0 ∧ Runs .xMwait m0 ∧ Runs .xMwait (machine { ctx0 with mon := .waiting }) := by
  intro h
  have a := (h (mRings 4) 0 0 5 4 0 0).1 (readyX _ _ (by decide) (by decide)) rfl (by decide) (by decide)
  have b := (h (mRings 0) 0 0 5 1 0 0).1 (readyX _ _ (by decide) (by decide)) rfl (by decide) (by decide)
  have c := (h (mRings 0) 0 0 5 4 0 0).2.1 (readyX _ _ (by decide) (by decide)) rfl (by decide) (by decide)
  have d := (h (mRings 4) 0 0 5 1 0 0).2.1 (readyX _ _ (by decide) (by decide)) rfl (by decide) (by decide)
  have e := (h m0 0 0 0 0 1 0).2.2.1 (readyX _ _ (by decide) (by decide))
  have f := (h m0 0 0 0 0 1 1).2.2.1 (readyX _ _ (by decide) (by decide))
  have g := (h m0 0 0 0 0 0 0).2.2.2 (readyX _ _ (by decide) (by decide))
  have i := (h (machine { ctx0 with mon := .waiting }) 0 0 0 0 0 0).2.2.2 (readyX _ _ (by decide) (by decide))
  rw [if_pos (by decide)] at a c e g
  rw [if_neg (by decide)] at b d f i
  exact ⟨⟨runs_completes a, runs_blocks b, runs_completes c, runs_blocks d⟩, runs_completes e, runs_blocks f,
    runs_completes g, runs_blocks i⟩

/-- The machine of a gang (`mGang`) in another superstep. -/
def mGangX (k : Nat) (phase : W64) (g : Gang) : State :=
  { mGang k with gangs := [g],
                 cores := [(0, (machine { ctx0 with phase := phase }).core 0), (1, (machine { ctx0 with phase := phase }).core 0)] }

theorem readyXG (s : State) (k : Nat) (i : Instr)
    (h : s.cur = k ∧ (s.core k).run = some 0 ∧ (s.ctx k 0).status = .ready ∧
      s.pairOf k 0 = none ∧ (s.ctx k 0).gtrap = none ∧ (s.ctx k 0).ltrap = none ∧
      gangClash (s.env k 0 i) = none ∧ (s.ctx k 0).faults = [] ∧ (s.ctx k 0).guard = none ∧
      (s.core k).flips = [] ∧ (s.core k).inject.getLsbD 0 = false ∧ (s.ctx k 0).again = none)
    (h2 : i.wfError = none ∧ Claims.onlyIn i ≠ some (!(s.ctx k 0).phase.getLsbD 0)) : Claims.CommandReady s k 0 i where
  calm := ⟨h.1, h.2.1, h.2.2.1, h.2.2.2.1, h.2.2.2.2.1, h.2.2.2.2.2.1, h.2.2.2.2.2.2.1,
    .inr ⟨h.2.2.2.2.2.2.2.1, h.2.2.2.2.2.2.2.2.1⟩, h.2.2.2.2.2.2.2.2.2.1, h.2.2.2.2.2.2.2.2.2.2.1,
    h.2.2.2.2.2.2.2.2.2.2.2⟩
  wf := h2.1
  phase b e := by
    have := h2.2
    rw [e] at this
    revert this
    cases b <;> cases (s.ctx k 0).phase.getLsbD 0 <;> simp

/-- A gang whose members have no beat under way. -/
def quietGang : Gang := { theGang with beatAt := none, seen := none, peers := [] }

theorem witness_CounterCommands :
    Claims.CounterCommands → Runs (.xCpoll 63 4 0xFFFFFF) m0 ∧ Runs (.xCset 48 5) m0 ∧
      Runs (.xCset 47 5) (mGangX 1 0 quietGang) ∧ Runs (.xCset 48 5) (mGangX 1 0 quietGang) := fun h =>
  ⟨runs_delivers ((h m0 0 0 63 4 0xFFFFFF).1 (readyX _ _ (by decide) (by decide)) (noneFor rfl)),
   runs_completes ((h m0 0 0 48 0 5).2.1 (readyX _ _ (by decide) (by decide)) (.inl rfl)),
   runs_completes ((h (mGangX 1 0 quietGang) 1 0 47 0 5).2.1 (readyXG _ _ _ (by decide) (by decide)) (.inr (by decide))),
   runs_completes ((h (mGangX 1 0 quietGang) 1 0 48 0 5).2.2 (readyXG _ _ _ (by decide) (by decide)) quietGang (by decide)
    (by decide))⟩

/-- The first arrival in a domain with a straggler count and a latched pre-emption. -/
theorem witness_PhaseArrivals :
    Obligations.PhaseArrivals → Runs .xPhase { machine { ctx0 with dom := some 0 } with
      doms := [(0, { clusters := 1, strag := 10, pend := true })] } := fun h =>
  runs_blocks (h _ 0 0 0 (readyX _ _ (by decide) (by decide)) rfl rfl rfl)

theorem witness_Rendezvous :
    Claims.Rendezvous → Runs (.xRdv 255) m0 ∧ Runs (.xRdv 0) (mGangX 1 0 quietGang) := fun h =>
  ⟨runs_completes ((h m0 0 0 255 (readyX _ _ (by decide) (by decide))).1 rfl),
   runs_blocks ((h (mGangX 1 0 quietGang) 1 0 0 (readyXG _ _ _ (by decide) (by decide))).2 quietGang (by decide)
    (by decide) (by decide))⟩

/-- Core 0 waits for a gang of cores 0 and 1 (or 0 to 2), and core 1 runs in an exchange superstep. -/
def mGather (mask : BitVec 8) : State :=
  { mGangX 1 1 quietGang with gangs := [], cores :=
      [(0, (machine { ctx0 with phase := 1, status := .blocked [.gang mask] (.next 5 false) }).core 0),
       (1, (machine { ctx0 with phase := 1 }).core 0)] }

theorem witness_Gangs :
    Claims.Gangs → Runs (.xGang 7) (mGather 7) ∧ Runs (.xGang 3) (mGather 3) ∧
      Runs .xGend (machine { ctx0 with phase := 1 }) ∧ Runs .xGend (mGangX 1 1 quietGang) ∧
      Runs .xGend (mGangX 1 1 { quietGang with ended := [(0, 100, 0)] }) := by
  intro h
  have a := (h (mGather 7) 1 0).1 7 (readyXG _ _ _ (by decide) (by decide)) (by decide +kernel) (by decide +kernel)
  have b := (h (mGather 3) 1 0).1 3 (readyXG _ _ _ (by decide) (by decide)) (by decide +kernel) (by decide +kernel)
  have c := (h (machine { ctx0 with phase := 1 }) 0 0).2.1 (readyX _ _ (by decide) (by decide)) rfl
  have d := (h (mGangX 1 1 quietGang) 1 0).2.2 (readyXG _ _ _ (by decide) (by decide)) quietGang (by decide) (by decide)
  have e := (h (mGangX 1 1 { quietGang with ended := [(0, 100, 0)] }) 1 0).2.2 (readyXG _ _ _ (by decide) (by decide))
    { quietGang with ended := [(0, 100, 0)] } (by decide) (by decide)
  rw [if_pos (by decide +kernel)] at a
  rw [if_neg (by decide +kernel)] at b
  obtain ⟨_, _, _, _, b⟩ := b
  exact ⟨runs_blocks a, runs_blocks b, runs_completes c, runs_completes d, runs_completes e⟩

/-- The fourth outstanding x.ntile; x.halt in a handler that holds a lock, with a stopped command. -/
theorem witness_YieldNtileHalt :
    Obligations.YieldNtileHalt → Runs .xYield m0 ∧
      Runs .xNtile (machine { ctx0 with persist := true, ntiles := List.replicate 3 ⟨56, 0, 90, none, false, false, false⟩ }) ∧
      Runs .xHalt (machine { ctx0 with inTrap := true, cmds := [aCmd] } fun c => { c with lock := some ⟨0, 1, 3⟩ }) := by
  intro h
  obtain ⟨_, a, _⟩ := (h m0 0 0).1 (readyX _ _ (by decide) (by decide))
  obtain ⟨_, b, _⟩ := (h (machine { ctx0 with persist := true, ntiles := List.replicate 3 ⟨56, 0, 90, none, false, false, false⟩ }) 0
    0).2.1 (readyX _ _ (by decide) (by decide)) rfl (by decide)
  obtain ⟨_, c, _⟩ := (h (machine { ctx0 with inTrap := true, cmds := [aCmd] } fun c =>
    { c with lock := some ⟨0, 1, 3⟩ }) 0 0).2.2 (readyX _ _ (by decide) (by decide))
  exact ⟨⟨_, a⟩, ⟨_, b⟩, ⟨_, c⟩⟩

/-! ## Witnesses: events of a core -/

def mPend : State :=
  machine { ctx0 with pend := [{ dest := .sreg 4, val := 9, lanes := allLanes, due := 100, at_ := 99, ord := 1 },
                               { dest := .sreg 4, val := 8, lanes := allLanes, due := 103, at_ := 100, ord := 0 }] }

theorem test_result_arrives : ((run (.resultDeliver 0 0) mPend).ctx 0 0).rdS 4 = 9 := by decide +kernel

/-- The first result of two to one register. -/
theorem witness_ResultsArrive : Obligations.ResultsArrive → Runs (.resultDeliver 0 0) mPend := by
  intro h
  obtain ⟨_, a, _⟩ := h mPend 0 0 { dest := .sreg 4, val := 9, lanes := allLanes, due := 100, at_ := 99, ord := 1 }
    rfl rfl (List.mem_cons_self ..) (by decide) rfl (by decide) (by decide +kernel)
  exact ⟨_, a⟩

/-- A move that falls due now, past the last position. -/
theorem witness_TailMoves :
    Claims.TailMoves → Runs (.ringTailMove 0 5) (machine ctx0 fun c =>
      { c with rings := [(5, { cfg := true, base := 2, len := 4, tail := 65535, head := 65535, free := 65535,
                               raps := [(100, 0, 4)] })] }) := fun h =>
  ⟨_, h _ 0 5 100 0 4 [] rfl (by decide) (by decide)⟩

def mScale (q : ScaleQ) : State := machine { ctx0 with sq := q }

theorem witness_ScaleArrivals :
    Claims.ScaleArrivals → Runs (.scaleLoadLand 0 0) (mScale { loads := [⟨100, 100, [1, 2]⟩], drop := 3 }) ∧
      Runs (.scaleTileStage 0 0) (mScale { tile := some ⟨100, 100, List.replicate 512 0⟩ }) ∧
      Runs (.scaleGroupMove 0 0) (mScale { landed := List.replicate 32 0, staged := List.replicate 64 0, moved := some 99 }) :=
  fun h =>
  ⟨⟨_, (h (mScale { loads := [⟨100, 100, [1, 2]⟩], drop := 3 }) 0 0).1 _ _ rfl (by decide)⟩,
   ⟨_, (h (mScale { tile := some ⟨100, 100, List.replicate 512 0⟩ }) 0 0).2.1 _ rfl (by decide)⟩,
   ⟨_, (h (mScale { landed := List.replicate 32 0, staged := List.replicate 64 0, moved := some 99 }) 0 0).2.2 rfl
    (by decide) (by decide) (by decide) (by decide)⟩⟩

/-- A grid of 2 × 3 × 1 tiles. -/
def aLaunch (next : Nat) : Launch where
  vi := 0
  stream := 0
  tag := 7
  notify := false
  image := 0
  arg := 0
  dom := 0
  gx := 2
  gy := 3
  gz := 1
  next := next
  left := 1
  barred := []

def aTile (val : Option W64) : Ntile where
  reg := 56
  bundle := 0
  asked := 99
  val := val
  here := false

def mTiles (next : Nat) (val : Option W64) : State :=
  { machine { ctx0 with launch := 1, ntiles := [aTile val] } with launches := [(1, aLaunch next)] }

/-- The last coordinate of the grid, the null coordinate behind it, and an answer on its way. -/
theorem witness_Dispenser :
    Claims.Dispenser → Runs (.ntileDispense 0 0) (mTiles 5 none) ∧ Runs (.ntileDispense 0 0) (mTiles 6 none) ∧
      Runs (.ntileDeliver 0 0) (mTiles 6 (some 0x20001)) := by
  intro h
  have first : ∀ n, ∀ p ∈ (mTiles n none).ctxList, p.2.2.launch = 1 → ∀ u ∈ p.2.2.ntiles, u.val = none →
      99 < u.asked ∨ 99 = u.asked ∧ (0 < p.1 ∨ 0 = p.1 ∧ 0 ≤ p.2.1) := by
    intro n p hp _ u hu _
    have e : (mTiles n none).ctxList = [(0, 0, { ctx0 with launch := 1, ntiles := [aTile none] })] := rfl
    rw [e] at hp
    obtain rfl := List.mem_singleton.1 hp
    obtain rfl := List.mem_singleton.1 hu
    exact .inr ⟨rfl, .inr ⟨rfl, Nat.le_refl 0⟩⟩
  obtain ⟨_, a, _⟩ := (h (mTiles 5 none) 0 0 1 [] [] _ _ rfl rfl rfl).1 (by decide) rfl (by decide) (first 5)
  obtain ⟨_, b, _⟩ := (h (mTiles 6 none) 0 0 1 [] [] _ _ rfl rfl rfl).1 (by decide) rfl (by decide) (first 6)
  exact ⟨⟨_, a⟩, ⟨_, b⟩, ⟨_, (h (mTiles 6 (some 0x20001)) 0 0 1 [] [] _ _ rfl rfl rfl).2 (by decide) (by decide) rfl⟩⟩

theorem test_last_tile : (((run (.ntileDispense 0 0) (mTiles 5 none)).ctx 0 0).ntiles.map (·.val)) = [some 0x20001] := by
  decide +kernel

theorem witness_WaitsEnd :
    Claims.WaitsEnd → Runs (.contextReady 0 0) (machine { ctx0 with wake := true, status := .blocked [] (.next 5 false) }) :=
  fun h => ⟨_, h _ 0 0 5 [] rfl rfl rfl rfl⟩

/-- Context 0 runs and is blocked, or has issued 4,096 bundles; contexts 1 and 2 are ready, 2 for longer. -/
def mSelect (x : Ctx) : State :=
  machine x fun c => { c with swap := true, ctxs := [(0, x), (1, { status := .ready, since := 50 }),
                                                     (2, { status := .ready, since := 40 })] }

theorem takesTwo (x : Ctx) : Claims.takes ((mSelect x).core 0) 2 := by
  refine ⟨by decide, by simp [mSelect, machine, State.core, AMap.get, AMap.find?], rfl, rfl, ?_⟩
  intro h a b c d e
  match h, a with
  | 0, _ => exact absurd rfl b
  | 1, _ => exact .inl (show (40 : Nat) < 50 by decide)
  | 2, _ => exact absurd rfl e
  | 3, _ => exact nomatch (show CtxStatus.free = .ready from c)

theorem witness_Selector :
    Claims.Selector → Runs (.contextSwitch 0) (mSelect { ctx0 with status := .blocked [.mwait] (.next 5 false) }) ∧
      Runs (.forcedSwitch 0) (mSelect { ctx0 with counted := 4096 }) := by
  intro h
  obtain ⟨_, a, _⟩ := (h (mSelect { ctx0 with status := .blocked [.mwait] (.next 5 false) }) 0 2 0 rfl rfl (takesTwo _)).1
    (.inr (.inl (by decide)))
  obtain ⟨_, b, _⟩ := (h (mSelect { ctx0 with counted := 4096 }) 0 2 0 rfl rfl (takesTwo _)).2 (by decide) (by decide)
    (by decide)
  exact ⟨⟨_, a⟩, ⟨_, b⟩⟩

/-! ## Witnesses: trades -/

/-- The machine whose first frame of die 0 is mapped, stable and writable by interface 0, through a cached leaf; `p` is
its placement entry. -/
def device (s : State) (p : PEntry := { state := 1 }) : State :=
  { s with
    dies := [(0, { tlb := [{ vi := 0, unit := 0, n := 16384, leaf := 0x23 }], map := [(0, p)] })],
    vis := [(0, { grant := allClusters, key := .live })] }

def xchCmd (n1 : BitVec 10) (st : CmdStatus) : Cmd :=
  { aCmd with ins := .xXch 0 .plain 5 1 639 n1, t := 90, args := [0x1FF800, 0, 0, 0], n := n1.toNat + 1, status := st }

/-- The last block of the frame, and slot 639; `x` and `y` are their states. -/
def mTrade (x y : BlkState) (p : PEntry := { state := 1 }) : State :=
  { device (machine { ctx0 with cmds := [xchCmd 0 .queued], dom := some 0 } fun c => { c with sb := [(639, { state := x })] }) p with
    dsb := [(1023, { state := y })] }

/-- What is read of a map whose entries all have a property, as its default has. -/
theorem get_all {α : Type} {P : α → Prop} (m : AMap α) (k : Nat) (d : α) (hd : P d) (h : ∀ p ∈ m, P p.2) :
    P (AMap.get m k d) := by
  unfold AMap.get
  induction m with
  | nil => exact hd
  | cons p m ih =>
    unfold AMap.find?
    split
    · exact h p (List.mem_cons_self ..)
    · exact ih fun q hq => h q (List.mem_cons_of_mem _ hq)

/-- A translation answers a place under a live key (R271). -/
theorem translate_live {s : State} {vi addr : Nat} {write : Bool} {p : Phys} (h : s.translate vi addr write = .ok p) :
    s.keyLive p.key = true := by
  unfold State.translate at h
  split at h
  · cases h
  · dsimp only at h
    split at h
    · cases h
    · rename_i c
      split at h
      · cases h
      · split at h
        · cases h
        · split at h
          · cases h
          · cases h
            exact Classical.byContradiction fun e => c (.inr (.inr (by simpa using e)))

/-- Blocks of the key of interface 0, the only live one, none of them compressed. -/
theorem formsKept (s : State) (h : ∀ n, s.keyLive n = true → n = 0) (g : (s.vi 0).gen = 0)
    (b : ∀ p ∈ s.dsb, p.2.size = 0 ∧ p.2.gen = 0) : Claims.FormsKept s := by
  intro vi addr write p ht
  have k := h _ (translate_live ht)
  have a : ∀ n, (s.sbAt n).size = 0 ∧ (s.sbAt n).gen = 0 := fun n => 
    get_all (P := fun x : SideBand => x.size = 0 ∧ x.gen = 0) s.dsb n farSb ⟨rfl, rfl⟩ b
  unfold State.badForm State.keyId
  simp [a, k, g]

theorem liveOne {s : State} {v : Vi} (h : s.vis = [(0, v)]) (n : Nat) (l : s.keyLive n = true) : n = 0 := by
  unfold State.keyLive State.vi at l
  rw [h] at l
  cases n with
  | zero => rfl
  | succ n => cases l

theorem alone (x y : BlkState) (p : PEntry) : Claims.Alone (mTrade x y p) 0 0 (xchCmd 0 .queued) where
  cmds := rfl
  others i h := by
    cases i with
    | zero => exact absurd rfl h
    | succ i => rfl
  stores := rfl
  flight := by cases x <;> cases y <;> exact ⟨by rfl, by rfl⟩
  issued := show (90 : Nat) < 100 by decide
  queued := ⟨rfl, rfl, rfl, rfl⟩
  ctx := by decide

theorem healthy (x y : BlkState) (p : PEntry) (h : p.bad0 = []) : Claims.Healthy (mTrade x y p) 0 where
  flips := ⟨rfl, show (0 : W64).getLsbD 0 = false by decide⟩
  media := ⟨rfl, rfl, rfl, rfl⟩
  chans d := by cases d <;> exact ⟨rfl, rfl⟩
  map d f := by
    cases d with
    | zero => cases f with
      | zero => exact h
      | succ f => rfl
    | succ d => rfl
  router := rfl
  forms := formsKept _ (liveOne rfl) rfl (by intro q hq; cases hq with
    | head => exact ⟨rfl, rfl⟩
    | tail _ hq => cases hq)

theorem witness_TradeBegins :
    Claims.TradeBegins → Runs (.tradePhaseA 0 0 0) (mTrade .present .absent) ∧
      Runs (.tradePhaseA 0 0 0) (mTrade .present .poisoned) ∧ Runs (.tradePhaseA 0 0 0) (mTrade .present .present { state := 0 }) ∧
      Runs (.tradePhaseA 0 0 0) (mTrade .present .present { state := 4 }) := by
  intro h
  have a := (h (mTrade .present .absent) 0 0 _ 0 .plain 5 1 639 0 rfl (alone ..) (by decide) (healthy _ _ _ rfl) rfl rfl).1
    _ rfl
  have b := (h (mTrade .present .poisoned) 0 0 _ 0 .plain 5 1 639 0 rfl (alone ..) (by decide) (healthy _ _ _ rfl) rfl
    rfl).1 _ rfl
  obtain ⟨_, c, _⟩ := (h (mTrade .present .present { state := 0 }) 0 0 _ 0 .plain 5 1 639 0 rfl (alone ..) (by decide)
    (healthy _ _ _ rfl) rfl rfl).2.1 rfl
  obtain ⟨_, d, _⟩ := (h (mTrade .present .present { state := 4 }) 0 0 _ 0 .plain 5 1 639 0 rfl (alone ..) (by decide)
    (healthy _ _ _ rfl) rfl rfl).2.2 rfl
  rw [if_neg (by decide +kernel)] at a
  rw [if_pos (by decide +kernel)] at b
  obtain ⟨_, _, a, _⟩ := a
  obtain ⟨_, b, _⟩ := b
  exact ⟨⟨_, a⟩, ⟨_, b⟩, ⟨_, c⟩, ⟨_, d⟩⟩

/-- A trade of slot 639 and the last block of the frame, or pool slot 4,095. -/
def aTrade (phase : TradePhase) (far : Loc) (upto : Option Nat) : Trade where
  near := .s 0 639
  far := far
  phase := phase
  die := 0
  dfn := 0
  blk := 1023
  off := 0
  tier := 0
  loc := 0
  kind := 0
  key := 0
  bad := false
  link := false
  upto := upto

def mFlight (c : Cmd) (x y : SideBand) : State :=
  { device (machine { ctx0 with cmds := [c], dom := some 0 } fun c => { c with sb := [(639, x)] }) with
    dsb := [(1023, y)], psb := [(4095, y)] }

/-- A second trade names the near slot of one in flight. -/
theorem witness_TradesWait :
    Claims.TradesWait → exec (.tradePhaseA 0 0 1)
      (device (machine { ctx0 with cmds := [xchCmd 0 (.flight (aTrade .a (.d 0x1FF800) none)),
        { xchCmd 0 .queued with seq := 1 }] })) = .refused (.notEnabled "TRADE_PHASE_A") := fun h =>
  h _ 0 0 { xchCmd 0 .queued with seq := 1 } (.s 0 639) (.d 0x1FF800) (by unfold Claims.Holds; decide +kernel)
    (by decide +kernel) (.inl ⟨aTrade .a (.d 0x1FF800) none, by decide +kernel, rfl, fun _ => by simp⟩)

/-- Behind an x.fence of a kind: full, acquire and release. -/
def mFence (kind : BitVec 2) : State :=
  device (machine { ctx0 with cmds := [{ aCmd with ins := .xFence 0 kind 0 }, { xchCmd 0 .queued with seq := 1 }] })

theorem witness_TradesWait_fence :
    Claims.TradesWait → exec (.tradePhaseA 0 0 1) (mFence 0) = .refused (.notEnabled "TRADE_PHASE_A") ∧
      exec (.tradePhaseA 0 0 1) (mFence 1) = .refused (.notEnabled "TRADE_PHASE_A") ∧
      exec (.tradePhaseA 0 0 1) (mFence 2) = .refused (.notEnabled "TRADE_PHASE_A") := by
  intro h
  refine ⟨?_, ?_, ?_⟩
  · exact h _ 0 0 { xchCmd 0 .queued with seq := 1 } (.s 0 639) (.d 0x1FF800) (by unfold Claims.Holds; decide +kernel)
      (by decide +kernel) (.inr ⟨{ aCmd with ins := .xFence 0 0 0 }, by decide +kernel, by decide, ⟨0, 0, 0, rfl⟩, 0, 639, rfl⟩)
  · exact h _ 0 0 { xchCmd 0 .queued with seq := 1 } (.s 0 639) (.d 0x1FF800) (by unfold Claims.Holds; decide +kernel)
      (by decide +kernel) (.inr ⟨{ aCmd with ins := .xFence 0 1 0 }, by decide +kernel, by decide, ⟨0, 1, 0, rfl⟩, 0, 639, rfl⟩)
  · exact h _ 0 0 { xchCmd 0 .queued with seq := 1 } (.s 0 639) (.d 0x1FF800) (by unfold Claims.Holds; decide +kernel)
      (by decide +kernel) (.inr ⟨{ aCmd with ins := .xFence 0 2 0 }, by decide +kernel, by decide, ⟨0, 2, 0, rfl⟩, 0, 639, rfl⟩)

theorem witness_TradeGoesOn :
    Claims.TradeGoesOn → Runs (.tradePhaseB 0 0 0) (mFlight (xchCmd 0 (.flight (aTrade .a (.d 0x1FF800) none))) {} {}) ∧
      Runs (.farRetryTimeout 0 0 0) (mFlight (xchCmd 0 (.flight (aTrade .a (.d 0x1FF800) (some 100)))) {} {}) := by
  intro h
  obtain ⟨_, a, _⟩ := (h (mFlight (xchCmd 0 (.flight (aTrade .a (.d 0x1FF800) none))) {} {}) 0 0
    (xchCmd 0 (.flight (aTrade .a (.d 0x1FF800) none))) _
    (by unfold Claims.Holds; rfl) rfl rfl).1 rfl rfl (fun e => absurd e (by decide))
  obtain ⟨_, b, _⟩ := (h (mFlight (xchCmd 0 (.flight (aTrade .a (.d 0x1FF800) (some 100)))) {} {}) 0 0
    (xchCmd 0 (.flight (aTrade .a (.d 0x1FF800) (some 100)))) _
    (by unfold Claims.Holds; rfl) rfl rfl).2 100 0x1FF800 rfl (by decide) rfl rfl rfl
  exact ⟨⟨_, a⟩, ⟨_, b⟩⟩

def xchpCmd : Cmd :=
  { aCmd with ins := .xXchp 0 1 5 639 0, t := 90, args := [4095, 0, 0, 0], n := 1,
              status := .flight (aTrade .b (.p 0 4095) none) }

theorem witness_PoolTradeCommits :
    Claims.PoolTradeCommits → Runs (.tradeCommit 0 0 0) (mFlight xchpCmd { state := .present } { state := .absent }) := by
  intro h
  obtain ⟨_, a, _⟩ := h (mFlight xchpCmd { state := .present } { state := .absent }) 0 0 xchpCmd
    (aTrade .b (.p 0 4095) none) 0 1 5 639 0 639 0 4095 rfl
    ⟨by unfold Claims.Holds; rfl, rfl, rfl, by decide, rfl, ⟨rfl, rfl⟩, rfl, rfl, ⟨rfl, rfl, rfl⟩⟩ rfl (by decide)
  exact ⟨_, a⟩

/-- R91's worked lines: 0x1000, 0x1001, … takes code 01, and 0x10000 + 300·i takes code 10. -/
def line0 : List Nat := (List.range 16).map fun i => 0x1000 + i
def line1 : List Nat := (List.range 16).map fun i => 0x10000 + 300 * i

theorem test_packed_lines :
    (lineCode line0, packLine line0) = (1, [0x00, 0x10, 0, 0, 1, 2, 3, 4, 5, 6, 7, 8, 9, 10, 11, 12, 13, 14, 15]) ∧
    lineCode line1 = 2 ∧ (packLine line1).take 8 = [0, 0, 1, 0, 0x2C, 0x01, 0x58, 0x02] ∧
    (packLine line1).drop 32 = [0x94, 0x11] ∧ unpackLine 2 (packLine line1) = line1.flatMap (leBytes 4) := by decide +kernel

/-- R59, R79: a block whose home is the absent far block goes home: no data write, one side-band write. -/
def mHome : State :=
  mFlight (xchCmd 0 (.flight (aTrade .b (.d 0x1FF800) none)))
    { state := .present, clean := true, okind := 1, origin := 0x3FF } { state := .absent }

theorem test_trade_home :
    (((run (.tradeCommit 0 0 0) mHome).die 0).sbWr, ((run (.tradeCommit 0 0 0) mHome).die 0).datWr,
      ((run (.tradeCommit 0 0 0) mHome).getBlkAt 0 0 0 0 1023).sb.state,
      (((run (.tradeCommit 0 0 0) mHome).core 0).slotSb 639).state,
      AMap.get ((run (.tradeCommit 0 0 0) mHome).ctx 0 0).cc 5 0) = (1, 0, .present, .empty, 1) := by decide +kernel

theorem witness_FarTradeCommits : Claims.FarTradeCommits → Runs (.tradeCommit 0 0 0) mHome := by
  intro h
  obtain ⟨_, a, _⟩ := h mHome 0 0 (xchCmd 0 (.flight (aTrade .b (.d 0x1FF800) none)))
    (aTrade .b (.d 0x1FF800) none) 0 .plain 5 1 639 0 639 0x1FF800 rfl
    ⟨by unfold Claims.Holds; rfl, rfl, rfl, by decide, rfl, ⟨rfl, rfl⟩, rfl, rfl, ⟨rfl, rfl, rfl⟩⟩ rfl (by decide)
    (by decide) rfl rfl rfl (by decide)
  exact ⟨_, a⟩

def wadvCmd : Cmd := { aCmd with ins := .xWadv 0 1 5 1, t := 90, n := 1, sub := 2 }

def mWadv : State :=
  machine { ctx0 with cmds := [wadvCmd], dom := some 0 } fun c =>
    { c with rings := [(5, { cfg := true, base := 2, len := 4, tail := 65535, head := 65535, free := 65535,
                             win := some ⟨0, 9, 2048, 3⟩ })] }

theorem aloneW : Claims.Alone mWadv 0 0 wadvCmd where
  cmds := rfl
  others i h := by
    cases i with
    | zero => exact absurd rfl h
    | succ i => rfl
  stores := rfl
  flight := ⟨rfl, rfl⟩
  issued := by decide
  queued := ⟨rfl, rfl, rfl, rfl⟩
  ctx := by decide

theorem witness_RowsPlaced : Claims.RowsPlaced → Runs (.windowRowPlace 0 0 0) mWadv := by
  intro h
  obtain ⟨_, a, _⟩ := h mWadv 0 0 _ 0 1 5 1 ⟨0, 9, 2048, 3⟩ rfl aloneW rfl rfl
  exact ⟨_, a⟩

/-! ## Witnesses: supersteps -/

/-- One member of domain 0 that waits in its barrier, and nothing else. -/
def mBarrier (d : Domain) : State :=
  { machine { ctx0 with dom := some 0, status := .blocked [.phase] (.next 5 false) } with
    doms := [(0, { d with clusters := 1 })] }

theorem members (d : Domain) : (mBarrier d).members 0 = [(0, 0, (mBarrier d).ctx 0 0)] := rfl

theorem barrierReady (d : Domain) (h : d.saving = false ∧ d.saved = false ∧ d.heldRt = none ∧ d.pend = false)
    (h2 : d.latest + 31 ≤ 100) : Claims.BarrierReady (mBarrier d) 0 where
  open_ := h
  some_ := by rw [members]; simp
  waiting m hm := by
    rw [members] at hm
    simp at hm
    subst hm
    exact ⟨_, _, rfl, by simp⟩
  idle m hm := by
    rw [members] at hm
    simp at hm
    subst hm
    rfl
  late := h2

/-- The barrier 31 cycles after the arrival; in an exchange superstep with a router swap for the domain, and without. -/
theorem witness_BarrierPasses : Claims.BarrierPasses → Runs (.barrierPass 0) (mBarrier { latest := 69 }) := by
  intro h
  obtain ⟨_, a, _⟩ := h (mBarrier { latest := 69 }) 0 (by decide) (barrierReady _ ⟨rfl, rfl, rfl, rfl⟩ (by decide)) rfl
  exact ⟨_, a⟩

theorem barrierReadyRt : Claims.BarrierReady { mBarrier { ctr := 3 } with rtMask := some 1 } 0 :=
  let b := barrierReady { ctr := 3 } ⟨rfl, rfl, rfl, rfl⟩ (by decide)
  ⟨b.open_, b.some_, b.waiting, b.idle, b.late⟩

theorem witness_BarrierHeld : Claims.BarrierHeld → Runs (.barrierPass 0) { mBarrier { ctr := 3 } with rtMask := some 1 } :=
  fun h => ⟨_, h { mBarrier { ctr := 3 } with rtMask := some 1 } 0 1 (by decide) barrierReadyRt rfl rfl rfl⟩

/-- The last granule of a vat whose blocks are all empty has been written, in the copy that is hidden. -/
def mSwapIn : State :=
  { machine { ctx0 with dom := some 0, status := .blocked [.phase] (.next 5 false) } fun c =>
      { c with written := [4095], sp := [(0x17FFFF, 9)] } with doms := [(0, { ctr := 3, clusters := 1 })] }

theorem swapReady : Claims.BarrierReady mSwapIn 0 :=
  let b := barrierReady { ctr := 3 } ⟨rfl, rfl, rfl, rfl⟩ (by decide)
  have m : mSwapIn.members 0 = [(0, 0, mSwapIn.ctx 0 0)] := rfl
  ⟨b.open_, by rw [m]; simp, by
    intro x hx
    rw [m] at hx
    simp at hx
    subst hx
    exact ⟨_, _, rfl, by simp⟩, by
    intro x hx
    rw [m] at hx
    simp at hx
    subst hx
    rfl, b.late⟩

theorem witness_VatsSwap :
    Claims.VatsSwap → Runs (.barrierPass 0) (mBarrier { ctr := 3 }) ∧
      ∃ t, exec (.barrierPass 0) mSwapIn = .next t ∧ ((t.core 0).slotSb 639).state = .present ∧
        (t.core 0).spByte 0x13FFFF = 9 ∧ (t.core 0).spByte 0x13FFBF = 0 ∧ ((t.core 0).slotSb 638).state = .empty := by
  intro h
  obtain ⟨_, a, _⟩ := h (mBarrier { ctr := 3 }) 0 0 (by decide) (barrierReady _ ⟨rfl, rfl, rfl, rfl⟩ (by decide)) rfl rfl
    rfl rfl
  obtain ⟨t, b, _, _, _, _, c⟩ := h mSwapIn 0 0 (by decide) swapReady rfl rfl rfl rfl
  have d := c 638 (by decide) (by decide) (by decide) (.inl (by decide))
  have c := c 639 (by decide) (by decide) (by decide) (.inl (by decide))
  rw [if_pos ⟨4095, List.mem_cons_self .., rfl⟩] at c
  rw [if_neg (by decide)] at d
  have e := c.2.2 4095 63 rfl (by decide)
  have f := c.2.2 4094 63 rfl (by decide)
  rw [if_pos (by decide)] at e
  rw [if_neg (by decide)] at f
  exact ⟨⟨_, a⟩, t, b, c.1, e.trans (by decide), f, d ▸ rfl⟩

theorem witness_BarrierFails :
    Claims.BarrierFails → Runs (.stragglerTimeout 0) (mBarrier { strag := 6, count := some 36 }) ∧
      Runs (.stragglerTimeout 0) (mBarrier { strag := 6, count := some 36, owner := 3 }) ∧
      Runs (.barrierNetFail 0) (mBarrier { owner := 3 }) := fun h =>
  ⟨⟨_, (h (mBarrier { strag := 6, count := some 36 }) 0 rfl).1 36 rfl rfl (by decide) rfl⟩,
   ⟨_, (h (mBarrier { strag := 6, count := some 36, owner := 3 }) 0 rfl).2.1 36 rfl rfl (by decide)
    (show (3 : Nat) ≠ 0 by decide)⟩,
   ⟨_, (h (mBarrier { owner := 3 }) 0 rfl).2.2 _ (List.mem_cons_self ..) rfl⟩⟩

/-- The limits of the period, 0, and a value beyond them. -/
theorem witness_StragglerPeriods :
    Claims.StragglerPeriods → ((run (.stragExpWrite 0 0 10) (mBarrier {})).dom 0).strag = 10 ∧
      ((run (.stragExpWrite 0 0 41) (mBarrier {})).dom 0).strag = 0 := by
  intro h
  have a := h (mBarrier {}) 0 0 10 rfl (by decide) (.inl rfl)
  have b := h (mBarrier {}) 0 0 41 rfl (by decide) (.inl rfl)
  exact ⟨by unfold run; rw [a]; rfl, by unfold run; rw [b]; rfl⟩

/-- A task of domain 0 that is frozen in its barrier. -/
def mFrozen (d : Domain) : State :=
  { machine { ctx0 with dom := some 0, status := .blocked [.phase] (.next 5 false), frozen := some 90 } with
    doms := [(0, { d with clusters := 1 })] }

theorem witness_DomainsSave : Claims.DomainsSave → Runs (.preemptSave 0) (mFrozen { saving := true }) := by
  intro h
  obtain ⟨_, a, _⟩ := h (mFrozen { saving := true }) 0 rfl rfl (by
    intro m hm
    have e : (mFrozen { saving := true }).tasksOf 0 = [(0, 0, (mFrozen { saving := true }).ctx 0 0)] := rfl
    rw [e] at hm
    simp at hm
    subst hm
    exact ⟨rfl, rfl, rfl, rfl, show 0 ≤ 100 by decide, fun st h => by cases h⟩)
  exact ⟨_, a⟩

/-- A saved domain whose save area begins with a block that a trade of another has in flight. -/
def mAreaHeld : State :=
  { device (machine { ctx0 with cmds := [xchCmd 0 (.flight { aTrade .a (.d 0) none with blk := 0 })] }) with
    doms := [(0, { saved := true, savedCl := 1, clusters := 1 })] }

/-- A saved domain, one whose resume is under way, one with nothing saved, and one whose resume waits. -/
theorem witness_DomainsResume :
    Claims.DomainsResume → Runs (.domResume 0 0) (mFrozen { saved := true, savedCl := 1 }) ∧
      Runs (.domResume 0 0) (mFrozen { saved := true, savedCl := 1, origin := some 120 }) ∧ Runs (.domResume 0 0) m0 ∧
      Runs (.domResume 0 0) mAreaHeld := by
  intro h
  have d := h mAreaHeld 0 0 rfl (by decide) (.inl rfl)
  have a := h (mFrozen { saved := true, savedCl := 1 }) 0 0 rfl (by decide) (.inl rfl)
  have c := h (mFrozen { saved := true, savedCl := 1, origin := some 120 }) 0 0 rfl (by decide) (.inl rfl)
  have b := h m0 0 0 rfl (by decide) (.inl rfl)
  rw [if_pos (by decide)] at a c d
  rw [if_neg (by decide)] at b
  obtain ⟨_, _, a, _⟩ := a.2.1 rfl rfl
  exact ⟨⟨_, a⟩, ⟨_, c.2.2 (by decide)⟩, ⟨_, b⟩, ⟨_, d.1 rfl (by decide +kernel)⟩⟩

theorem witness_ResumeBarriers : Claims.ResumeBarriers → Runs (.resumeBarrier 0) (mFrozen { saved := true, origin := some 69 }) := by
  intro h
  obtain ⟨_, a, _⟩ := h (mFrozen { saved := true, origin := some 69 }) 0 69 rfl (by decide) rfl
  exact ⟨_, a⟩

/-! ## Witnesses: command streams -/

def entry (w0 w1 w2 w3 w4 w5 : W64) : CmdEntry where
  w0 := w0
  w1 := w1
  w2 := w2
  w3 := w3
  w4 := w4
  w5 := w5
  w6 := 0
  w7 := 0

def entryBytes (e : CmdEntry) : List Byte :=
  [e.w0, e.w1, e.w2, e.w3, e.w4, e.w5, e.w6, e.w7].flatMap fun w => leBytes 8 w.toNat

/-- A machine whose stream 0 of interface 0 has one entry, in host memory at address 0. -/
def stream (s : State) (e : CmdEntry) : State :=
  { s with hmem := Mem.writeBytes [] 0 (entryBytes e),
           vis := [(0, { grant := allClusters, key := .live, streams := [(0, { base := 1, en := true, tail := 1 })] })] }

def mStream (e : CmdEntry) (ds : AMap Domain := [(0, { clusters := allClusters })]) : State :=
  stream { device m0 with doms := ds } e

theorem witness_Arbitration :
    Claims.Arbitration → (mStream (entry 0 0 0 0 0 0)).granted ≠ none ∧
      (0, 0, 0, entry 0 0 0 0 0 0) ∈ (mStream (entry 0 0 0 0 0 0)).eligibles := by
  intro h
  have g := h (mStream (entry 0 0 0 0 0 0))
  exact ⟨fun e => absurd (g.1.mpr e) (by decide +kernel), (g.2 (0, 0, 0, entry 0 0 0 0 0 0) false (by decide +kernel)).1⟩

theorem runs_completesCmd {ev : Instr} {s : State} {vi st : Nat} {e : CmdEntry} {f : State → State} :
    Claims.CompletesCmd ev s vi st e f → Runs ev s
  | ⟨_, _, h⟩ => ⟨_, h⟩
theorem runs_refuses {ev : Instr} {s : State} {vi st : Nat} {e : CmdEntry} {c w : Nat} :
    Claims.Refuses ev s vi st e c w → Runs ev s
  | ⟨_, _, h⟩ => ⟨_, h⟩

/-- A NOP with a notification and a tag; the least reserved kind. -/
theorem witness_NopCommands :
    Claims.NopCommands → Runs (.cmdNop 0 0 (entry 0x70200 0 0 0 0 0)) (mStream (entry 0x70200 0 0 0 0 0)) ∧
      Runs (.cmdNop 0 0 (entry 7 0 0 0 0 0)) (mStream (entry 7 0 0 0 0 0)) := by
  intro h
  exact ⟨runs_completesCmd ((h (mStream (entry 0x70200 0 0 0 0 0)) 0 0 _ ⟨0, false, by decide +kernel⟩).1
      (by unfold Claims.Header; decide) rfl rfl rfl rfl rfl rfl rfl),
    runs_refuses ((h (mStream (entry 7 0 0 0 0 0)) 0 0 _ ⟨0, false, by decide +kernel⟩).2 (by decide))⟩

/-- The last word of the frame. -/
def lastWord : Phys where
  die := 0
  dfn := 0
  blk := 1023
  off := 2040
  kind := 0
  key := 0

theorem wholeMedia (s : State) (h : s.mhard = [] ∧ s.mside = [] ∧ s.mflips = []) (h2 : s.dies = (device m0).dies)
    (h3 : Claims.FormsKept s) : Claims.WholeMedia s where
  forms := h3
  blocks := h
  chans d := by
    have e : s.die d = (device m0).die d := by unfold State.die; rw [h2]
    rw [e]
    cases d <;> exact ⟨rfl, rfl⟩
  map d f := by
    have e : s.pent d f = (device m0).pent d f := by unfold State.pent State.die; rw [h2]
    rw [e]
    cases d with
    | zero => cases f <;> rfl
    | succ d => rfl

theorem mStream_hmem (e : CmdEntry) : (mStream e).hmem = Mem.writeBytes [] 0 (entryBytes e) := by
  simp only [mStream, stream]

theorem semaphore (e : CmdEntry) (write : Bool)
    (h : ((mStream e).getBlk 0 0 0 1023).sb.state ≠ .poisoned) : Claims.Semaphore (mStream e) 0 0x1FFFF8 write lastWord where
  aligned := by decide
  there := by cases write <;> rfl
  block := h
  media := wholeMedia _ ⟨rfl, rfl, rfl⟩ rfl (formsKept _ (liveOne rfl) rfl nofun)
  mem := by
    rw [mStream_hmem]
    exact ⟨rfl, Mem.wf_writeBytes (m := []) rfl 0 (entryBytes e)⟩

/-- An addition and a setting; an address off the grid; a reserved operation. -/
theorem witness_SignalCommands :
    Claims.SignalCommands → Runs (.signal 0 0 (entry 2 0x1FFFF8 9 0 0 0)) (mStream (entry 2 0x1FFFF8 9 0 0 0)) ∧
      Runs (.signal 0 0 (entry 2 0x1FFFF8 9 1 0 0)) (mStream (entry 2 0x1FFFF8 9 1 0 0)) ∧
      Runs (.signal 0 0 (entry 2 4 9 0 0 0)) (mStream (entry 2 4 9 0 0 0)) ∧
      Runs (.signal 0 0 (entry 2 8 9 2 0 0)) (mStream (entry 2 8 9 2 0 0)) := by
  intro h
  obtain ⟨_, a, _⟩ := (h (mStream (entry 2 0x1FFFF8 9 0 0 0)) 0 0 (entry 2 0x1FFFF8 9 0 0 0) lastWord ⟨0, false, by decide +kernel⟩
    (by unfold Claims.Header; decide) rfl rfl rfl rfl).1 (.inl rfl) (semaphore (entry 2 0x1FFFF8 9 0 0 0) true (by decide +kernel))
  obtain ⟨_, b, _⟩ := (h (mStream (entry 2 0x1FFFF8 9 1 0 0)) 0 0 (entry 2 0x1FFFF8 9 1 0 0) lastWord ⟨0, false, by decide +kernel⟩
    (by unfold Claims.Header; decide) rfl rfl rfl rfl).1 (.inr rfl) (semaphore (entry 2 0x1FFFF8 9 1 0 0) true (by decide +kernel))
  have c := (h (mStream (entry 2 4 9 0 0 0)) 0 0 (entry 2 4 9 0 0 0) lastWord ⟨0, false, by decide +kernel⟩
    (by unfold Claims.Header; decide) rfl rfl rfl rfl).2.1 (by decide) rfl
  have d := (h (mStream (entry 2 8 9 2 0 0)) 0 0 (entry 2 8 9 2 0 0) lastWord ⟨0, false, by decide +kernel⟩
    (by unfold Claims.Header; decide) rfl rfl rfl rfl).2.2 (.inl rfl)
  exact ⟨⟨_, a⟩, ⟨_, b⟩, runs_refuses c, runs_refuses d⟩

/-- A stream that a WAIT holds. -/
def mWait (addr n : Nat) : State :=
  { device m0 with vis := [(0, { grant := allClusters, key := .live,
                                 streams := [(0, { base := 1, en := true, open_ := 1, wait := some (addr, n, 7, true) })] })] }

/-- A threshold of zero, one of one, and an address beyond the map. -/
theorem mWait_semaphore (n : Nat) : Claims.Semaphore (mWait 0x1FFFF8 n) 0 0x1FFFF8 false lastWord where
  aligned := by decide
  there := rfl
  block := by
    have e : (mWait 0x1FFFF8 n).getBlk lastWord.key lastWord.die lastWord.dfn lastWord.blk =
      (mWait 0x1FFFF8 0).getBlk lastWord.key lastWord.die lastWord.dfn lastWord.blk := rfl
    rw [e]
    decide +kernel
  media := wholeMedia _ ⟨rfl, rfl, rfl⟩ rfl (formsKept _ (liveOne rfl) rfl nofun)
  mem := ⟨rfl, rfl⟩

theorem witness_WaitCommands :
    Claims.WaitCommands → Runs (.wait 0 0 (entry 3 0x1FFFF8 9 0 0 0)) (mStream (entry 3 0x1FFFF8 9 0 0 0)) ∧
      Runs (.waitSatisfied 0 0) (mWait 0x1FFFF8 0) ∧
      exec (.waitSatisfied 0 0) (mWait 0x1FFFF8 1) = .refused (.notEnabled "WAIT_SATISFIED") ∧
      Runs (.waitSatisfied 0 0) (mWait 0x200000 1) ∧
      Runs (.waitSatisfied 0 0) { mWait 0x1FFFF8 0 with dsb := [(1023, { state := .poisoned })] } := by
  intro h
  obtain ⟨_, _, a⟩ := h.1 (mStream (entry 3 0x1FFFF8 9 0 0 0)) 0 0 (entry 3 0x1FFFF8 9 0 0 0) lastWord ⟨0, false, by decide +kernel⟩
    (by unfold Claims.Header; decide) rfl rfl rfl rfl rfl (semaphore (entry 3 0x1FFFF8 9 0 0 0) false (by decide +kernel))
  have b := (h.2 (mWait 0x1FFFF8 0) 0 0 _ _ _ _ rfl).1 lastWord (mWait_semaphore 0)
  have c := (h.2 (mWait 0x1FFFF8 1) 0 0 _ _ _ _ rfl).1 lastWord (mWait_semaphore 1)
  obtain ⟨_, d, _⟩ := (h.2 (mWait 0x200000 1) 0 0 _ _ _ _ rfl).2.2 .unmapped rfl
    (wholeMedia _ ⟨rfl, rfl, rfl⟩ rfl (formsKept _ (liveOne rfl) rfl nofun))
  obtain ⟨_, e, _⟩ := (h.2 { mWait 0x1FFFF8 0 with dsb := [(1023, { state := .poisoned })] } 0 0 _ _ _ _ rfl).2.1 lastWord
    rfl (by decide +kernel) (wholeMedia _ ⟨rfl, rfl, rfl⟩ rfl (formsKept _ (liveOne rfl) rfl (by decide)))
  rw [if_pos (by decide +kernel)] at b
  rw [if_neg (by decide +kernel)] at c
  obtain ⟨_, b, _⟩ := b
  exact ⟨⟨_, a⟩, ⟨_, b⟩, c, ⟨_, d⟩, ⟨_, e⟩⟩

/-- A LAUNCH of a grid of one tile whose table begins at the end of the first 64 KiB page, so that its one entry (core 0,
context 1, one bank of each file, entry bundle 64) stands in the second; the page tables stand in the first. -/
def launchEntry : CmdEntry := entry 1 0x10000 0xFFC0 0x100010001 0 5
def tableEntry : W64 × W64 := (0x4000111400, 0)

def mLaunch (ds : AMap Domain) : State :=
  { mStream launchEntry ds with
    dies := [(0, { map := [(0, { state := 1 })] })],
    vis := [(0, { grant := allClusters, key := .live, root := [(0, 0x4001)],
                  streams := [(0, { base := 1, en := true, tail := 1 })] })],
    dmem := [(0x4000, 0x8001), (0x8000, 0x9001), (0x9000, 0xA001), (0xA000, 0x23), (0xA008, 0x10023), (0xFFC0, 1),
        (0x10000, tableEntry.1.toNat)].foldl (fun m w => Mem.writeBytes m w.1 (leBytes 8 w.2)) [],
    dsb := [(8, { state := .present }), (16, { state := .present }), (18, { state := .present }),
            (20, { state := .present }), (31, { state := .present }), (32, { state := .present })] }

/-- What the machine reads of the table in a domain of given clusters, and whether it is an outcome. -/
def mTable (cl : BitVec 128) : Except (Nat × Nat) (List PlEntry) :=
  ((mLaunch [(0, { clusters := cl })]).seeLaunch 0 launchEntry).readTable 0 0xFFC0 cl 1 1 1
def isTable (r q : Except (Nat × Nat) (List PlEntry)) : Bool := match r, q with
  | .ok a, .ok b => a == b
  | .error a, .error b => a == b
  | _, _ => false

theorem isTable_eq {r q : Except (Nat × Nat) (List PlEntry)} (h : isTable r q = true) : r = q := by
  cases r <;> cases q <;> simp_all [isTable]

theorem mLaunch_whole (ds : AMap Domain) : Claims.WholeMedia (mLaunch ds) where
  forms := formsKept _ (liveOne rfl) rfl (show ∀ p ∈ ([_, _, _, _, _, _] : AMap SideBand), _ by decide)
  blocks := ⟨rfl, rfl, rfl⟩
  chans d := by cases d <;> exact ⟨rfl, rfl⟩
  map d f := by
    cases d with
    | zero => cases f <;> rfl
    | succ d => rfl

/-- Another's domain; a table that does not fit the domain's clusters; and a launch. -/
theorem witness_LaunchCommands :
    Claims.LaunchCommands → Runs (.launch 0 0 launchEntry) (mLaunch [(0, { owner := 5, clusters := allClusters })]) ∧
      Runs (.launch 0 0 launchEntry) (mLaunch [(0, { clusters := 0 })]) ∧
      Runs (.launch 0 0 launchEntry) (mLaunch [(0, { clusters := allClusters })]) := by
  intro h
  have a := (h (mLaunch [(0, { owner := 5, clusters := allClusters })]) 0 0 launchEntry [] ⟨0, false, by decide +kernel⟩
    (by unfold Claims.Header; decide) (mLaunch_whole _) rfl rfl rfl rfl (by decide) (by decide) (by decide)
    (by decide) (by decide)).1 (show (5 : Nat) ≠ 0 by decide)
  have t0 : mTable 0 = .error (4, 0) := isTable_eq (by decide +kernel)
  have t1 : mTable allClusters = .ok [tableEntry] := isTable_eq (by decide +kernel)
  obtain ⟨_, c, _⟩ := (h (mLaunch [(0, { clusters := 0 })]) 0 0 launchEntry [] ⟨0, false, by decide +kernel⟩
    (by unfold Claims.Header; decide) (mLaunch_whole _) rfl rfl rfl rfl (by decide) (by decide) (by decide)
    (by decide) (by decide)).2.1 rfl 4 0 t0
  obtain ⟨_, _, _, b, _⟩ := (h (mLaunch [(0, { clusters := allClusters })]) 0 0 launchEntry [tableEntry]
    ⟨0, false, by decide +kernel⟩ (by unfold Claims.Header; decide) (mLaunch_whole _) rfl rfl rfl rfl
    (by decide) (by decide) (by decide) (by decide) (by decide)).2.2 rfl t1 (by decide +kernel) rfl
  exact ⟨runs_refuses a, ⟨_, c⟩, ⟨_, b⟩⟩

/-- A launch with no task left, and with one. -/
theorem witness_LaunchesComplete :
    Claims.LaunchesComplete → Runs (.launchComplete 1) { m0 with launches := [(1, { aLaunch 0 with left := 0 })] } ∧
      exec (.launchComplete 1) (mTiles 0 none) = .refused (.notEnabled "LAUNCH_COMPLETE") := by
  intro h
  have a := h { m0 with launches := [(1, { aLaunch 0 with left := 0 })] } 1 _ rfl
  have b := h (mTiles 0 none) 1 _ rfl
  rw [if_pos rfl] at a
  rw [if_neg (by decide)] at b
  exact ⟨⟨_, a⟩, b⟩

/-- A task for context 1 behind context 0 with the same image: all the banks that are left. -/
def aTask : Task where
  launch := 1
  core := 0
  ctx := 1
  va := 14
  vb := 14
  acc := 2
  persist := true
  pair := false
  entry := 64
  coord := 0
  partner := 0

def mAdmit (ctr : W64) : State :=
  { machine ctx0 fun c => { c with queue := [aTask], image := some (0, 0) } with
    launches := [(1, aLaunch 0)], doms := [(0, { clusters := allClusters, ctr := ctr })] }

/-- Once in a compute superstep, and once in an exchange superstep. -/
theorem witness_TasksAdmit : Claims.TasksAdmit → Runs (.taskAdmit 0) (mAdmit 2) ∧ Runs (.taskAdmit 0) (mAdmit 3) := by
  intro h
  obtain ⟨_, _, a, _⟩ := h (mAdmit 2) 0 aTask [] (aLaunch 0) rfl rfl rfl rfl rfl rfl rfl (by decide) rfl ⟨0, by decide, by decide⟩ rfl
    (by decide) (by decide) (by decide)
  obtain ⟨_, _, b, _⟩ := h (mAdmit 3) 0 aTask [] (aLaunch 0) rfl rfl rfl rfl rfl rfl rfl (by decide) rfl ⟨0, by decide, by decide⟩ rfl
    (by decide) (by decide) (by decide)
  exact ⟨⟨_, a⟩, ⟨_, b⟩⟩

theorem test_admitted :
    (((run (.taskAdmit 0) (mAdmit 3)).ctx 0 1).pc, ((run (.taskAdmit 0) (mAdmit 3)).ctx 0 1).status,
      ((run (.taskAdmit 0) (mAdmit 3)).ctx 0 1).phase, ((run (.taskAdmit 0) (mAdmit 3)).ctx 0 1).accMap) =
    (64, .held, 3, [2, 3]) := by decide +kernel

theorem witness_TasksRelease :
    Claims.TasksRelease → Runs (.taskRelease 0 0)
      { machine { ctx0 with status := .halted, launch := 1, dom := some 0 } with launches := [(1, aLaunch 0)] } := by
  intro h
  obtain ⟨_, a, _⟩ := h { machine { ctx0 with status := .halted, launch := 1, dom := some 0 } with launches := [(1, aLaunch 0)] }
    0 0 (aLaunch 0) rfl rfl rfl rfl rfl (show 0 ≤ 100 by decide) (by decide) rfl rfl rfl
  exact ⟨_, a⟩

/-! ## Witnesses: domains and keys -/

def someDoms (owner : Nat) (c0 c1 : BitVec 128) : AMap Domain := [(0, { owner := owner, clusters := c0 }), (1, { clusters := c1 })]

def bindEntry : CmdEntry := entry 4 0 2 0x8000000000000000 0 0

/-- Clusters 1 and 127 are bound: in a free domain, where another domain holds one of them, in a domain of another
interface. -/
theorem witness_Binds :
    Claims.Binds → Runs (.domainBind 0 0 bindEntry) (mStream bindEntry (someDoms 0 1 4)) ∧
      Runs (.domainBind 0 0 bindEntry) (mStream bindEntry (someDoms 0 1 2)) ∧
      Runs (.domainBind 0 0 bindEntry) (mStream bindEntry (someDoms 9 1 4)) := by
  intro h
  have ent : Claims.DomainEntry bindEntry 0 false := by unfold Claims.DomainEntry Claims.Header; decide
  have a := (h (mStream bindEntry (someDoms 0 1 4)) 0 0 0 bindEntry ⟨0, false, by decide +kernel⟩ ent).2.2.2 rfl (.inl rfl)
    (by decide)
  have b := (h (mStream bindEntry (someDoms 0 1 2)) 0 0 0 bindEntry ⟨0, false, by decide +kernel⟩ ent).2.2.1 rfl (.inl rfl)
    (by decide)
  have c := (h (mStream bindEntry (someDoms 9 1 4)) 0 0 0 bindEntry ⟨0, false, by decide +kernel⟩ ent).1 (by decide)
  exact ⟨runs_completesCmd a, runs_refuses b, runs_refuses c⟩

/-- Interface 3, whose grant is cluster 0, binds clusters 1 and 127 to its domain 2. -/
def mGuest : State :=
  { device m0 with
    hmem := Mem.writeBytes [] 0 (entryBytes { bindEntry with w1 := 2 }),
    doms := [(2, { owner := 3 })],
    vis := [(3, { grant := 1, key := .live, streams := [(0, { base := 1, en := true, tail := 1 })] })] }

theorem witness_Binds_grant : Claims.Binds → Runs (.domainBind 3 0 { bindEntry with w1 := 2 }) mGuest := by
  intro h
  exact runs_refuses ((h mGuest 3 0 2 { bindEntry with w1 := 2 } ⟨0, false, by decide +kernel⟩
    (by unfold Claims.DomainEntry Claims.Header; decide)).2.1 rfl (by decide))

def unbindEntry : CmdEntry := entry 4 0x100 2 0 0 0

/-- An unbind of cluster 1 of domain 0 while a task runs in cluster 0, and its completion. -/
def mUnbind : State :=
  { m0 with doms := [(0, { clusters := 3, unbinds := [(0, 0, 7, true, 2)] })] }

theorem witness_Unbinds :
    Claims.Unbinds → Runs (.domainUnbind 0 0 unbindEntry) (mStream unbindEntry) ∧ Runs (.domainUnbindComplete 0 0) mUnbind := by
  intro h
  obtain ⟨_, _, a⟩ := h.1 (mStream unbindEntry) 0 0 0 unbindEntry ⟨0, false, by decide +kernel⟩
    (by unfold Claims.DomainEntry Claims.Header; decide) rfl (by decide) rfl
  obtain ⟨_, b, _⟩ := h.2 mUnbind 0 0 0 7 true 2 (by decide) rfl
    (fun e he => by
      cases e with
      | zero => exact absurd rfl he
      | succ e => rfl) (by decide)
  exact ⟨⟨_, a⟩, ⟨_, b⟩⟩

def preemptEntry : CmdEntry := entry 5 0 0 0 0 0

/-- A domain of cluster 0 with a save area at 2,048 and one member that has arrived. -/
def mPreempt : State :=
  { device (machine { ctx0 with dom := some 0, status := .blocked [.phase] (.next 5 false) }) with
    hmem := Mem.writeBytes [] 0 (entryBytes preemptEntry), doms := [(0, { clusters := 1, save := 2048 })],
    vis := [(0, { grant := allClusters, key := .live, streams := [(0, { base := 1, en := true, tail := 1 })] })],
    dies := [(0, { tlb := [{ vi := 0, unit := 0, n := 16384, leaf := 0x23 }],
                   map := (List.range 32).map fun n => (n, { state := 1, loc := n }) })] }

theorem canonicalPreempt : mPreempt.Canonical where
  level := by
    have e : mPreempt.hmem = Mem.writeBytes [] 0 (entryBytes preemptEntry) := by simp only [mPreempt]
    rw [e]
    exact ⟨rfl, rfl, Mem.wf_writeBytes (m := []) rfl 0 _⟩
  cores k := by
    cases k with
    | zero => exact ⟨rfl, rfl⟩
    | succ k => exact ⟨rfl, rfl⟩
  keys := by
    refine ⟨by unfold AMap.sorted; decide, fun k => ?_⟩
    cases k with
    | zero => unfold AMap.sorted; decide
    | succ k => exact List.Pairwise.nil

theorem witness_Preempts : Claims.Preempts → Runs (.preempt 0 0 preemptEntry) mPreempt := by
  intro h
  obtain ⟨_, a, _⟩ := h mPreempt 0 0 0 preemptEntry ⟨0, false, by decide +kernel⟩ (by unfold Claims.Header; decide) rfl rfl
    rfl rfl rfl rfl rfl rfl rfl rfl rfl rfl (by decide +kernel) (by decide +kernel) canonicalPreempt
  exact ⟨_, a⟩

/-- An install of the key of interface 5 with a wrapped key at 2,048, by interface 0. -/
def keyEntry : CmdEntry := entry 6 0x500 2048 0 0 0
def revokeEntry : CmdEntry := entry 6 0x501 0 0 0 0

/-- The stream of interface 0, and interface 5 with a transport key and a key state. -/
def mKey (e : CmdEntry) (k : KeyState) (cmd : List (Nat × Nat × W32 × Bool)) : State :=
  { device m0 with
    hmem := Mem.writeBytes [] 0 (entryBytes e), doms := [(0, { clusters := 3 })],
    vis := [(0, { grant := allClusters, key := .live, streams := [(0, { base := 1, en := true, tail := 1 })] }),
            (5, { key := k, keyCmd := cmd, tkey := some 1 })] }

/-- Interface 5 has no live key either. -/
theorem oneLive (n : Nat) (l : (mKey keyEntry .empty []).keyLive n = true) : n = 0 := by
  match n with
  | 0 => rfl
  | 1 | 2 | 3 | 4 | 5 | n + 6 => cases l

/-- Where the unwrapping accepts the key, whose check no rule gives (log entry 13), the install starts. -/
theorem witness_KeyInstalls :
    Claims.KeyInstalls → Runs (.keyInstall 0 0 keyEntry) (mKey keyEntry .live []) ∧
      ((mKey keyEntry .empty []).unwraps 0 keyEntry = true → Runs (.keyInstall 0 0 keyEntry) (mKey keyEntry .empty [])) ∧
      Runs (.keyInstallComplete 5) (mKey keyEntry .installing [(0, 0, 7, true)]) := by
  intro h
  have ent : Claims.KeyEntry keyEntry 5 false := by unfold Claims.KeyEntry Claims.Header; decide
  refine ⟨runs_refuses ((h.1 (mKey keyEntry .live []) 0 0 5 keyEntry ⟨0, false, by decide +kernel⟩ ent (by decide)).2.1
    (.inl rfl) (by decide)), fun u => ?_, ⟨_, h.2 (mKey keyEntry .installing [(0, 0, 7, true)]) 5 _ rfl rfl⟩⟩
  obtain ⟨_, _, _, _, a⟩ := (h.1 (mKey keyEntry .empty []) 0 0 5 keyEntry ⟨0, false, by decide +kernel⟩ ent
    (by decide)).2.2 (.inl rfl) rfl u (wholeMedia _ ⟨rfl, rfl, rfl⟩ rfl (formsKept _ oneLive rfl nofun))
  exact ⟨_, a⟩

/-- A guest names the slot of another interface. -/
def mGuestKey : State :=
  { mGuest with hmem := Mem.writeBytes [] 0 (entryBytes keyEntry) }

theorem witness_KeyInstalls_guest : Claims.KeyInstalls → Runs (.keyInstall 3 0 keyEntry) mGuestKey := by
  intro h
  exact runs_refuses ((h.1 mGuestKey 3 0 5 keyEntry ⟨0, false, by decide +kernel⟩
    (by unfold Claims.KeyEntry Claims.Header; decide) (by decide)).1 (by decide) (by decide))

theorem witness_KeyRevokes :
    Claims.KeyRevokes → Runs (.keyRevoke 0 0 revokeEntry) (mKey revokeEntry .live []) ∧
      Runs (.keyRevokeComplete 5) (mKey revokeEntry .revoking []) ∧
      Runs (.keyRevokeComplete 5) (mKey revokeEntry .revoking [(0, 0, 7, true)]) := by
  intro h
  obtain ⟨_, _, a⟩ := h.1 (mKey revokeEntry .live []) 0 0 5 revokeEntry ⟨0, false, by decide +kernel⟩
    (by unfold Claims.KeyEntry Claims.Header; decide) rfl (.inl rfl) (by
      intro d hd he
      cases d with
      | zero => exact absurd he (by decide)
      | succ d => rfl)
  obtain ⟨_, b, _⟩ := h.2 (mKey revokeEntry .revoking []) 5 rfl
  obtain ⟨_, c, _⟩ := h.2 (mKey revokeEntry .revoking [(0, 0, 7, true)]) 5 rfl
  exact ⟨⟨_, a⟩, ⟨_, b⟩, ⟨_, c⟩⟩

/-! ## Witnesses: remote stores and Cleat operations -/

/-- The page tables of the frame: a level-3 table at 0x4000 and a level-2 table at 0x1000 with a leaf of 1 GiB. -/
def tables : Mem := Mem.writeBytes (Mem.writeBytes [] 0x1000 [0x23]) 0x4000 [1, 0x10]

theorem tables_wf : tables.wf = true := by decide +kernel

/-- A machine with one command of context 0, block 1,023 of the frame present, and, where `walked` holds, page tables in
the frame in place of a cached leaf. -/
def mCleat (m : Cmd) (walked : Bool := false) (p : PEntry := { state := 1 }) (x : Ctx := ctx0) : State :=
  { device (machine { x with cmds := [m], dom := some 0 }) with
    doms := [(0, { clusters := 1 })],
    dmem := tables,
    dsb := [(2, { state := .present }), (8, { state := .present }), (1023, { state := .present })],
    dies := [(0, { tlb := if walked then [] else [{ vi := 0, unit := 0, n := 16384, leaf := 0x23 }], map := [(0, p)] })],
    vis := [(0, { grant := allClusters, key := .live, root := [(0, 0x4001)] })] }

theorem aloneC (m : Cmd) (walked : Bool) (p : PEntry) (x : Ctx) (h : m.t < 100)
    (f : (mCleat m walked p x).entries = [] ∧ ((mCleat m walked p x).core 0).entries = [])
    (h2 : m.status = .queued ∧ m.hold = none ∧ m.src = 0 ∧ m.poison = none) :
    Claims.Alone (mCleat m walked p x) 0 0 m where
  cmds := rfl
  others i h := by
    cases i with
    | zero => exact absurd rfl h
    | succ i => rfl
  stores := rfl
  flight := f
  issued := h
  queued := h2
  ctx := by decide

theorem healthyC (m : Cmd) (walked : Bool) (p : PEntry) (x : Ctx) (h : p.bad0 = []) :
    Claims.Healthy (mCleat m walked p x) 0 where
  flips := ⟨rfl, show (0 : W64).getLsbD 0 = false by decide⟩
  media := ⟨rfl, rfl, rfl, rfl⟩
  chans d := by cases d <;> exact ⟨rfl, rfl⟩
  map d f := by
    cases d with
    | zero => cases f with
      | zero => exact h
      | succ f => rfl
    | succ d => rfl
  router := rfl
  forms := formsKept _ (liveOne rfl) rfl (show ∀ p ∈ ([_, _, _] : AMap SideBand), _ by decide)

/-- A place in the last block of the frame. -/
def endWord (o : Nat) : Phys := { lastWord with off := o }

theorem wordC (m : Cmd) (x : Ctx) (hx : x.vi = 0) (write : Bool) (a : Nat) (o : Nat)
    (hb : ((mCleat m false { state := 1 } x).getBlk (endWord o).key (endWord o).die (endWord o).dfn (endWord o).blk).sb.state ≠ .poisoned)
    (h : (mCleat m false { state := 1 } x).translate 0 a write = .ok (endWord o)) :
    Claims.Word (mCleat m false { state := 1 } x) 0 0 a write (endWord o) where
  there := by
    have e : ((mCleat m false { state := 1 } x).ctx 0 0).vi = x.vi := rfl
    rw [e, hx]
    exact h
  block := hb
  healthy := healthyC _ _ _ _ rfl
  mem := ⟨tables_wf, rfl, rfl⟩

/-- A command of one element issued in cycle 90. -/
def oneCmd (i : Instr) (args : List W64) (data : List Byte := []) : Cmd :=
  { aCmd with ins := i, t := 90, args := args, data := data, n := 1 }

theorem witness_AtomsPerformed :
    Claims.AtomsPerformed →
      Runs (.cleatAtomic 0 0 0) (mCleat (oneCmd (.xAmo 0 .plain 1 1 2 0 4 0 true) [0x1FFFF8, 5, 0, 0])) := by
  intro h
  obtain ⟨_, a, _⟩ := h (mCleat (oneCmd (.xAmo 0 .plain 1 1 2 0 4 0 true) [0x1FFFF8, 5, 0, 0])) 0 0
    (oneCmd (.xAmo 0 .plain 1 1 2 0 4 0 true) [0x1FFFF8, 5, 0, 0]) 0 .plain 1 1 2 0 4 0
    true (endWord 2040) rfl (by decide) (aloneC _ _ _ _ (by decide) (by decide +kernel) ⟨rfl, rfl, rfl, rfl⟩) rfl rfl
    (by decide) (wordC _ _ rfl _ _ 2040 (by decide +kernel) rfl)
  exact ⟨_, a⟩

/-- R250: the functions on the words 7 and −2: sum, and, signed and unsigned minimum, a swap, a compare that matches,
a read. -/
theorem test_atomic :
    [0, 1, 4, 6, 8, 9, 10].map (fun fn => amoNew fn 7 0xFFFFFFFFFFFFFFFE 7) =
      [some 5, some 6, some 0xFFFFFFFFFFFFFFFE, some 7, some 0xFFFFFFFFFFFFFFFE, some 0xFFFFFFFFFFFFFFFE, none] := by
  decide

/-- Element 0 names word 1, the last of the frame, and its result goes to the last word of the working slots. -/
def amovCmd : Cmd := oneCmd (.xAmov 0 .plain 1 1 2 3 4 0 true 0) [0x1FFFF0, 0, 0, 0xFFFF8] ([1, 0, 0, 0] ++ List.replicate 380 0)

theorem witness_AtomVectors : Claims.AtomVectors → Runs (.cleatAtomic 0 0 0) (mCleat amovCmd) := by
  intro h
  obtain ⟨_, a, _⟩ := h (mCleat amovCmd) 0 0 amovCmd 0 .plain 1 1 2 3 4 0 0 (endWord 2040) rfl (by decide)
    (by decide) (aloneC _ _ _ _ (by decide) (by decide +kernel) ⟨rfl, rfl, rfl, rfl⟩) (by decide) (by decide)
    (wordC _ _ rfl _ _ 2040 (by decide +kernel) rfl) rfl (by decide) (by decide) (by decide)
  exact ⟨_, a⟩

def redmCmd : Cmd := oneCmd (.xRedm 0 .plain 1 1 2 0 1 0) [0x1FFFFE, 0, 0, 0] [0x80, 0x3F]

theorem witness_ReductionsPerformed : Claims.ReductionsPerformed → Runs (.cleatReduce 0 0 0) (mCleat redmCmd) := by
  intro h
  obtain ⟨_, a, _⟩ := h (mCleat redmCmd) 0 0 redmCmd 0 .plain 1 1 2 0 1 0 (endWord 2046) rfl (by decide)
    (.inr (.inl rfl)) (aloneC _ _ _ _ (by decide) (by decide +kernel) ⟨rfl, rfl, rfl, rfl⟩) (by decide) (by decide)
    (wordC _ _ rfl _ _ 2046 (by decide +kernel) rfl)
  exact ⟨_, a⟩

def monCmd : Cmd := oneCmd (.xMon 0 .plain 1 1 2) [0x1FFFF8, 0, 0, 0]

theorem witness_MonitorsArm : Claims.MonitorsArm → Runs (.monitorArm 0 0 0) (mCleat monCmd) := by
  intro h
  obtain ⟨_, a, _⟩ := h (mCleat monCmd) 0 0 monCmd 0 .plain 1 1 2 (endWord 2040) rfl
    (aloneC _ _ _ _ (by decide) (by decide +kernel) ⟨rfl, rfl, rfl, rfl⟩) rfl rfl (by decide) (wordC _ _ rfl _ _ 2040 (by decide +kernel) rfl) rfl
  exact ⟨_, a⟩

/-! ### Remote stores -/

def rstCmd : Cmd := oneCmd (.xRst 0 1 1 2 3 0) [0, 0x13FFC0, 0, 0] (List.replicate 64 0x5A)

/-- A horizontal transfer in some cycle `n`. -/
def mToken (m : Cmd) (n : Nat) (sb : AMap SideBand := []) : State := { mCleat m with now := n, psb := sb }

theorem dom_token (m : Cmd) (n : Nat) (sb : AMap SideBand) : (mToken m n sb).domainOf 0 = some 0 :=
  (show (mToken m n sb).domainOf 0 = (mCleat aCmd).domainOf 0 from rfl).trans (by decide +kernel)

/-- The token comes round every 16 cycles in a domain of one cluster; which cycle it is, is free (log entry 1). -/
theorem token_comes (m : Cmd) (sb : AMap SideBand) : ∃ n, 100 ≤ n ∧ (mToken m n sb).tokenAt 0 0 = true := by
  refine ⟨16 * (Config.freeNat 0 8 + 20) - Config.freeNat 0 8, by omega, ?_⟩
  have l : ∀ n, (mToken m n sb).domainCores 0 = [0, 1, 2, 3, 4, 5, 6, 7] := fun n =>
    (show (mToken m n sb).domainCores 0 = (mCleat aCmd).domainCores 0 from rfl).trans (by decide +kernel)
  have t : ∀ n, (mToken m n sb).now = n := fun n => rfl
  unfold State.tokenAt
  rw [dom_token]
  simp only [l, t]
  have z : tokenPhase 0 0 (16 * (Config.freeNat 0 8 + 20) - Config.freeNat 0 8) = 16 * (Config.freeNat 0 8 + 20) := by
    show _ + Config.freeNat 0 8 = _
    omega
  rw [z]
  have m2 : 16 * (Config.freeNat 0 8 + 20) % 2 = 0 := by omega
  have m16 : 16 * (Config.freeNat 0 8 + 20) / 2 % 8 = 0 := by omega
  simp [m2, m16]

theorem visits (m : Cmd) (n target : Nat) (sb : AMap SideBand) (h : (mToken m n sb).tokenAt 0 0 = true) :
    Claims.TokenVisits (mToken m n sb) 0 target 0 where
  token := h
  first := show (none : Option Nat) ≠ some n by simp
  alone := nofun
  whole := ⟨rfl, rfl, show (0 : Nat) < 15 by decide⟩
  dom := dom_token m n sb

theorem aloneT (m : Cmd) (n : Nat) (sb : AMap SideBand) (h : 100 ≤ n) (h2 : m.t = 90)
    (f : (mToken m n sb).entries = [] ∧ ((mToken m n sb).core 0).entries = [])
    (h3 : m.status = .queued ∧ m.hold = none ∧ m.src = 0 ∧ m.poison = none) : Claims.Alone (mToken m n sb) 0 0 m where
  cmds := rfl
  others i h := by
    cases i with
    | zero => exact absurd rfl h
    | succ i => rfl
  stores := rfl
  flight := f
  issued := by rw [h2]; exact (show 90 < n by omega)
  queued := h3
  ctx := by decide

theorem witness_FlitsSend : Claims.FlitsSend → ∃ n, Runs (.homeFlitSend 0) (mToken rstCmd n) := by
  intro h
  obtain ⟨n, hn, ht⟩ := token_comes rstCmd []
  obtain ⟨_, a, _⟩ := h (mToken rstCmd n) 0 0 0 rstCmd 0 1 1 2 3 0 rfl
    (aloneT _ _ _ hn rfl ⟨rfl, rfl⟩ ⟨rfl, rfl, rfl, rfl⟩) (by decide) (by decide) rfl (visits _ _ _ _ ht)
  exact ⟨n, _, a⟩

/-- An x.xchp of the last slot and the last pool slot, queued or in flight. -/
def poolCmd (st : CmdStatus) (sent : Nat) : Cmd :=
  { oneCmd (.xXchp 0 1 5 639 0) [4095, 0, 0, 0] with status := st, sent := sent, placed := sent }

theorem healthyT (m : Cmd) (n : Nat) (sb : AMap SideBand) : Claims.Healthy (mToken m n sb) 0 :=
  let h := healthyC m false { state := 1 } ctx0 rfl
  ⟨h.flips, h.media, h.chans, h.map, h.router, formsKept _ (liveOne rfl) rfl (show ∀ p ∈ ([_, _, _] : AMap SideBand), _ by decide)⟩

/-- A pool trade as it begins, one that a poisoned block stops, and the last flit of a block. -/
theorem witness_PoolTradesBegin :
    Claims.PoolTradesBegin → (∃ n, Runs (.homeFlitSend 0) (mToken (poolCmd .queued 0) n)) ∧
      (∃ n, Runs (.homeFlitSend 0) (mToken (poolCmd .queued 0) n [(4095, { state := .poisoned })])) ∧
      ∃ n, Runs (.homeFlitSend 0) (mToken (poolCmd (.flight (aTrade .a (.p 0 4095) none)) 7) n) := by
  intro h
  refine ⟨?_, ?_, ?_⟩
  · obtain ⟨n, hn, ht⟩ := token_comes (poolCmd .queued 0) []
    have a := (h (mToken (poolCmd .queued 0) n) 0 0 0 (poolCmd .queued 0) 0 1 5 639 0 rfl (healthyT _ _ _) rfl (visits _ _ _ _ ht)
      (by decide)).1 (aloneT _ _ _ hn rfl ⟨rfl, rfl⟩ ⟨rfl, rfl, rfl, rfl⟩) rfl rfl
    have c : ¬ (((mToken (poolCmd .queued 0) n).core 0).slotSb 639).state = .poisoned := fun e => nomatch e
    have d : ¬ ((mToken (poolCmd .queued 0) n).getPool 0 4095).sb.state = .poisoned := fun e => nomatch e
    rw [if_neg (fun e => e.elim c d)] at a
    obtain ⟨_, _, ⟨a, _⟩, _⟩ := a
    exact ⟨n, _, a⟩
  · obtain ⟨n, hn, ht⟩ := token_comes (poolCmd .queued 0) [(4095, { state := .poisoned })]
    have a := (h (mToken (poolCmd .queued 0) n [(4095, { state := .poisoned })]) 0 0 0 (poolCmd .queued 0) 0 1 5 639 0 rfl
      (healthyT _ _ _) rfl (visits _ _ _ _ ht) (by decide)).1 (aloneT _ _ _ hn rfl ⟨rfl, rfl⟩ ⟨rfl, rfl, rfl, rfl⟩) rfl rfl
    rw [if_pos (.inr rfl)] at a
    obtain ⟨_, a, _⟩ := a
    exact ⟨n, _, a⟩
  · obtain ⟨n, hn, ht⟩ := token_comes (poolCmd (.flight (aTrade .a (.p 0 4095) none)) 7) []
    obtain ⟨_, a, _⟩ := (h (mToken (poolCmd (.flight (aTrade .a (.p 0 4095) none)) 7) n) 0 0 0
      (poolCmd (.flight (aTrade .a (.p 0 4095) none)) 7) 0 1 5 639 0 rfl
      (healthyT _ _ _) rfl (visits _ _ _ _ ht) (by decide)).2 _ rfl (fun i e => by
        cases i with
        | zero => exact absurd rfl e
        | succ i => rfl) (by decide) (show 90 < n by omega) rfl rfl (by decide) (by decide) rfl rfl
    exact ⟨n, _, a⟩

/-- The last granule of the window on its way. -/
def sentCmd : Cmd := { rstCmd with sent := 1 }
def mLanding : State := { mCleat sentCmd with doms := [(0, { clusters := 1, flits := [(0, 0, 0, 0)] })] }

theorem test_landing :
    ((run (.rstLanding 0) mLanding).core 0 |>.written, (run (.rstLanding 0) mLanding).core 0 |>.spByte 0x13FFFF,
      ((run (.rstLanding 0) mLanding).core 0).sp.read 0x17FFFF, AMap.get ((run (.rstLanding 0) mLanding).ctx 0 0).cc 1 0) =
    ([4095], 0, 0x5A, 1) := by decide +kernel

/-- Two flits of the last granule; the second has been sent. -/
def mBehind : State :=
  { device (machine { ctx0 with cmds := [rstCmd, { sentCmd with seq := 1 }], dom := some 0 }) with
    doms := [(0, { clusters := 1, flits := [(0, 0, 0, 0), (0, 0, 1, 0)] })] }

theorem witness_FlitsLand :
    Claims.FlitsLand → Runs (.rstLanding 0) mLanding ∧ exec (.rstLanding 0) mBehind = .refused (.notEnabled "RST_LANDING") := by
  intro h
  have b := h.2 mBehind 0 0 (0, 0, 0, 0) (0, 0, 1, 0) (by decide +kernel) rfl (by decide +kernel) (by decide +kernel)
  obtain ⟨_, a, _⟩ := h.1 mLanding 0 0 0 0 0 sentCmd 0 1 1 2 3 0 [] [] rfl (by unfold Claims.Holds; rfl) rfl rfl nofun rfl rfl rfl
    rfl (by decide) (by decide) (by decide) (by decide) (by decide) rfl rfl
  exact ⟨⟨_, a⟩, b⟩

/-! ### One-step commands -/

def lastBlock : Phys := { lastWord with off := 0 }

def probeCmd (w nf : Bool) (a : W64) : Cmd := oneCmd (.xProbe 1 1 2 4 w nf) [a, 2048, 0, 0]

theorem uncached (m : Cmd) (p : PEntry) (x : Ctx) (a : Nat) (h : dieOf a = 0) :
    Claims.Uncached (mCleat m true p x) 0 0 a := by
  unfold Claims.Uncached State.tlbFind
  rw [h]
  rfl

/-- The last block of the frame, with and without the non-faulting form, and the first one beyond it. -/
theorem witness_Probes :
    Claims.Probes → Runs (.placementCommandComplete 0 0 0) (mCleat (probeCmd true true 0x1FF800) true) ∧
      Runs (.placementCommandComplete 0 0 0) (mCleat (probeCmd false true 0x200000) true) ∧
      Runs (.placementCommandComplete 0 0 0) (mCleat (probeCmd false false 0x200000) true) := by
  intro h
  have g := fun (w nf : Bool) (a : W64) (hf : (mCleat (probeCmd w nf a) true).entries = [] ∧
      ((mCleat (probeCmd w nf a) true).core 0).entries = [])
      (h1 : (probeCmd w nf a).arg 0 / 65536 = ((probeCmd w nf a).arg 0 + (probeCmd w nf a).arg 1 - 1) / 65536)
      (h2 : dieOf ((probeCmd w nf a).arg 0) = 0) =>
    h (mCleat (probeCmd w nf a) true) 0 0 (probeCmd w nf a) 1 1 2 4 w nf rfl
      (aloneC _ _ _ _ (show (90 : Nat) < 100 by decide) hf ⟨rfl, rfl, rfl, rfl⟩) (healthyC _ _ _ _ rfl) rfl rfl rfl
      (show (2048 : Nat) ≠ 0 by decide) h1 rfl rfl (uncached _ _ _ _ h2)
  obtain ⟨_, a, _⟩ := (g true true 0x1FF800 (by decide +kernel) (by decide) (by decide)).1 lastBlock (by rfl)
  have b := (g false true 0x200000 (by decide +kernel) (by decide) (by decide)).2 .unmapped (by rfl)
  have c := (g false false 0x200000 (by decide +kernel) (by decide) (by decide)).2 .unmapped (by rfl)
  rw [if_pos rfl] at b
  rw [if_neg (by decide)] at c
  obtain ⟨_, b, _⟩ := b
  obtain ⟨_, c, _⟩ := c
  exact ⟨⟨_, a⟩, ⟨_, b⟩, ⟨_, c⟩⟩

def discCmd : Cmd := oneCmd (.xDisc 0 1 1 2) [0x1FF800, 2048, 0, 0]

theorem witness_Discards : Claims.Discards → Runs (.placementCommandComplete 0 0 0) (mCleat discCmd true) := by
  intro h
  obtain ⟨_, a, _⟩ := h (mCleat discCmd true) 0 0 discCmd 0 1 1 2 lastBlock rfl
    (aloneC _ _ _ _ (by decide) (by decide +kernel) ⟨rfl, rfl, rfl, rfl⟩) (healthyC _ _ _ _ rfl) rfl rfl rfl rfl (by decide) (by decide)
    (by rfl) rfl (uncached _ _ _ _ (by decide))
  exact ⟨_, a⟩

def hintCmd (sub : Nat) : Cmd := { oneCmd (.xHint 1 1 2 2 1) [0x1FF800, 2048, 0, 0] with sub := sub }
def hotCmd (a : W64) : Cmd := oneCmd (.xHot 1 4 2) [0, a, 0, 0]

/-- A pin by a command that may pin, and by one that may not; the heat of the frame, and of an address that does not
translate. -/
theorem witness_HintsAndHeat :
    Claims.HintsAndHeat → Runs (.placementCommandComplete 0 0 0) (mCleat (hintCmd 1) true) ∧
      Runs (.placementCommandComplete 0 0 0) (mCleat (hintCmd 0) true) ∧
      Runs (.placementCommandComplete 0 0 0) (mCleat (hotCmd 0x1FFFFF) true) ∧
      Runs (.placementCommandComplete 0 0 0) (mCleat (hotCmd 0x200000) true) := by
  intro h
  obtain ⟨_, a, _⟩ := h.1 (mCleat (hintCmd 1) true) 0 0 (hintCmd 1) 1 1 2 2 1 lastBlock rfl
    (aloneC _ _ _ _ (by decide) (by decide +kernel) ⟨rfl, rfl, rfl, rfl⟩) (healthyC _ _ _ _ rfl) rfl rfl (by decide) (by decide)
    (by rfl) (uncached _ _ _ _ (by decide))
  obtain ⟨_, b, _⟩ := h.1 (mCleat (hintCmd 0) true) 0 0 (hintCmd 0) 1 1 2 2 1 lastBlock rfl
    (aloneC _ _ _ _ (by decide) (by decide +kernel) ⟨rfl, rfl, rfl, rfl⟩) (healthyC _ _ _ _ rfl) rfl rfl (by decide) (by decide)
    (by rfl) (uncached _ _ _ _ (by decide))
  have l : (mCleat (hotCmd 0x1FFFFF) true).leafOf 0 0x1FFFFF = some { vi := 0, unit := 0, n := 16384, leaf := 0x23 } := by rfl
  obtain ⟨_, c, _⟩ := ((h.2 (mCleat (hotCmd 0x1FFFFF) true) 0 0 (hotCmd 0x1FFFFF) 1 4 2 rfl
    (aloneC _ _ _ _ (by decide) (by decide +kernel) ⟨rfl, rfl, rfl, rfl⟩) (healthyC _ _ _ _ rfl) rfl rfl
    (uncached _ _ _ _ (by decide))).2 (fun e he => by
      have x : some e = some _ := he.symm.trans l
      obtain rfl : e = _ := Option.some.inj x
      decide)).1 { lastWord with off := 2047 } (by rfl)
  obtain ⟨_, d, _⟩ := (h.2 (mCleat (hotCmd 0x200000) true) 0 0 (hotCmd 0x200000) 1 4 2 rfl
    (aloneC _ _ _ _ (by decide) (by decide +kernel) ⟨rfl, rfl, rfl, rfl⟩) (healthyC _ _ _ _ rfl) rfl rfl
    (uncached _ _ _ _ (by decide))).1 .unmapped (by decide) (by rfl)
  exact ⟨⟨_, a⟩, ⟨_, b⟩, ⟨_, c⟩, ⟨_, d⟩⟩

/-- Frame 1 of the die is poisoned; frame 0 holds the page tables. -/
def mPoisonedFrame : State :=
  let s := mCleat (hotCmd 0x200000) true
  { s with dies := [(0, { map := [(0, { state := 1 }), (1, { state := 4 })] })] }

theorem poisonedAlone : Claims.Alone mPoisonedFrame 0 0 (hotCmd 0x200000) :=
  let a := aloneC (hotCmd 0x200000) true { state := 1 } ctx0 (by decide) (by decide +kernel) ⟨rfl, rfl, rfl, rfl⟩
  ⟨a.cmds, a.others, a.stores, by decide +kernel, a.issued, a.queued, a.ctx⟩

theorem poisonedHealthy : Claims.Healthy mPoisonedFrame 0 where
  flips := ⟨rfl, show (0 : W64).getLsbD 0 = false by decide⟩
  media := ⟨rfl, rfl, rfl, rfl⟩
  chans d := by cases d <;> exact ⟨rfl, rfl⟩
  map d f := by
    cases d with
    | zero => match f with
      | 0 => rfl
      | 1 => rfl
      | f + 2 => rfl
    | succ d => rfl
  router := rfl
  forms := formsKept _ (liveOne rfl) rfl (by decide)

/-- The heat of a poisoned frame. -/
theorem witness_HintsAndHeat_poisoned :
    Claims.HintsAndHeat → Runs (.placementCommandComplete 0 0 0) mPoisonedFrame := by
  intro h
  have l : mPoisonedFrame.leafOf 0 0x200000 = some { vi := 0, unit := 0, n := 16384, leaf := 0x23 } := by rfl
  obtain ⟨_, c, _⟩ := ((h.2 mPoisonedFrame 0 0 (hotCmd 0x200000) 1 4 2 rfl poisonedAlone poisonedHealthy rfl rfl rfl).2
    (fun e he => by
      have x : some e = some _ := he.symm.trans l
      obtain rfl : e = _ := Option.some.inj x
      decide)).2 _ (by rfl) l
  exact ⟨_, c⟩

def fenceCmd : Cmd := { oneCmd (.xFence 1 0 5) [0, 0, 0, 0] with n := 0 }
def phqCmd : Cmd := { oneCmd (.xPhq 1 4) [0, 0, 0, 0] with n := 0 }

/-- A fence at the host scope with and without an accepted host write to come; x.phq in a domain with a latched
pre-emption. -/
theorem witness_QueriesAndFences :
    Claims.QueriesAndFences → Runs (.placementCommandComplete 0 0 0) (mCleat fenceCmd) ∧
      exec (.placementCommandComplete 0 0 0) { mCleat fenceCmd with unacc := [(0, [7])] } =
        .refused (.notEnabled "PLACEMENT_COMMAND_COMPLETE") ∧
      Runs (.placementCommandComplete 0 0 0) (mCleat phqCmd) := by
  intro h
  have al := aloneC fenceCmd false { state := 1 } ctx0 (by decide) (by decide +kernel) ⟨rfl, rfl, rfl, rfl⟩
  have a := (h (mCleat fenceCmd) 0 0 fenceCmd al rfl).2 1 0 5 rfl rfl rfl
  have b := (h { mCleat fenceCmd with unacc := [(0, [7])] } 0 0 fenceCmd
    ⟨rfl, al.others, rfl, al.flight, al.issued, al.queued, al.ctx⟩ rfl).2 1 0 5 rfl rfl rfl
  obtain ⟨_, c, _⟩ := (h (mCleat phqCmd) 0 0 phqCmd
    (aloneC _ _ _ _ (by decide) (by decide +kernel) ⟨rfl, rfl, rfl, rfl⟩) rfl).1 1 4 0 rfl rfl rfl rfl
  rw [if_pos (by decide)] at a
  rw [if_neg (by decide)] at b
  obtain ⟨_, a, _⟩ := a
  exact ⟨⟨_, a⟩, b, ⟨_, c⟩⟩

/-! ## Witnesses: the Affineur -/

/-- The machine at a tick: frame 3 of die 0 lies in tier C and is hot, frame 4 in tier N. -/
def mTick (d : Die) : State := { m0 with now := 2 ^ 24, dies := [(0, d)] }

def hotDie : Die where
  map := [(3, { tier := 1, loc := 9, state := 1 }), (4, { tier := 0, loc := 5, state := 1 })]
  hot := [(3, 200)]

theorem cold_somewhere : ∃ c l, hotDie.coldLoc 0 = some (c, l) := by
  have e : hotDie.coldCount 0 0 = some 0 := by decide
  have hm : (0, 0) ∈ (List.range hotDie.nFrames).filterMap fun l => (hotDie.coldCount 0 l).map fun c => (c, l) := by
    refine List.mem_filterMap.mpr ⟨0, List.mem_range.mpr (by decide), ?_⟩
    rw [e]
    rfl
  unfold Die.coldLoc
  revert hm
  cases (List.range hotDie.nFrames).filterMap fun l => (hotDie.coldCount 0 l).map fun c => (c, l) with
  | nil => intro hm; cases hm
  | cons p ps => intro _; exact ⟨_, _, rfl⟩

/-- A tick with the Affineur off, and one with it on. -/
theorem witness_PolicyTicks :
    Claims.PolicyTicks → Runs (.affPolicyTick 0) (mTick { en := false }) ∧ Runs (.affPolicyTick 0) (mTick hotDie) := by
  intro h
  obtain ⟨c, l, e⟩ := cold_somewhere
  obtain ⟨_, b, _⟩ := (h (mTick hotDie) 0 (by decide) (by decide) (by decide)).2 0 200 3 c l rfl rfl (by decide)
    (by decide) e
  exact ⟨⟨_, (h (mTick { en := false }) 0 (by decide) (by decide) (by decide)).1 rfl⟩, ⟨_, b⟩⟩

/-- A die with a hot candidate and a cold location, and one with no candidate. -/
theorem witness_PolicyChoices :
    Claims.PolicyChoices → (∃ f, f ∈ hotDie.map ∧ f.1 = 3) ∧
      (¬ ∃ f : Nat × PEntry, f ∈ (Die.map {}) ∧ f.2.state = 1 ∧ f.2.pinned = false ∧ f.1 ∉ (Die.barred {}) ∧
        (f.2.tier = 1 ∨ f.2.tier = 2)) ∧ ∃ c l, hotDie.coldCount 0 l = some c := by
  intro h
  obtain ⟨c, l, e⟩ := cold_somewhere
  obtain ⟨⟨f, a, b, _⟩, _⟩ := (h hotDie 0).1 200 3 (by decide)
  exact ⟨⟨f, a.1, b⟩, fun ⟨f, hf⟩ => (h {} 0).2.1 (by decide) f hf, ⟨c, l, ((h hotDie 0).2.2 c l e).1⟩⟩

theorem witness_DecayTicks :
    Claims.DecayTicks → Runs (.affDecayTick 0) (mTick { hot := [(3, 255)], barred := [3] }) := by
  intro h
  obtain ⟨_, a, _⟩ := h (mTick { hot := [(3, 255)], barred := [3] }) 0 (by decide) (by decide)
  exact ⟨_, a⟩

theorem test_decay : AMap.get ((run (.affDecayTick 0) (mTick { hot := [(3, 255)], barred := [3] })).die 0).hot 3 0 = 127 := by
  decide +kernel

/-- A swap of frame 3 in tier C with frame 4 in tier N in slot 2. -/
def aSwap (p : Nat) (back : Bool) : Swap where
  hot := 3
  tierH := 1
  locH := 9
  cold := some 4
  tierC := 0
  locC := 5
  p := p
  back := back
  why := 0
  pAt := 0

def mSwap (p : Nat) (back : Bool) : State :=
  { m0 with dies := [(0, { map := [(3, { tier := 1, loc := 9, state := 2, slot := 2 }),
                                   (4, { tier := 0, loc := 5, state := 2, slot := 2 })], swaps := [(2, aSwap p back)] })] }

theorem swapping (p : Nat) (back : Bool) : Claims.Swapping (mSwap p back) 0 2 (aSwap p back) 4 where
  slot := rfl
  cold := ⟨rfl, by simp [aSwap]⟩
  tiers := ⟨show (1 : Nat) < 2 by decide, show (0 : Nat) < 2 by decide, by simp [aSwap], show (9 : Nat) < 2 ^ 31 by decide,
    show (5 : Nat) < 2 ^ 31 by decide⟩
  state := ⟨rfl, rfl, rfl, rfl⟩
  calm := ⟨rfl, rfl, rfl, rfl, rfl, rfl⟩
  mem := rfl
  quiet := .inl rfl

/-- The first and the last block trade of a swap, and of a roll-back. -/
theorem witness_SwapsKeepContents :
    Claims.SwapsKeepContents → Runs (.affBlockTrade 0 2) (mSwap 0 false) ∧ Runs (.affBlockTrade 0 2) (mSwap 1023 false) ∧
      Runs (.affBlockTrade 0 2) (mSwap 1024 true) ∧ Runs (.affBlockTrade 0 2) (mSwap 1 true) := by
  intro h
  obtain ⟨_, a, _⟩ := h (mSwap 0 false) 0 2 4 _ (swapping _ _) (by decide) (by decide)
  obtain ⟨_, b, _⟩ := h (mSwap 1023 false) 0 2 4 _ (swapping _ _) (by decide) (by decide)
  obtain ⟨_, c, _⟩ := h (mSwap 1024 true) 0 2 4 _ (swapping _ _) (by decide) (by decide)
  obtain ⟨_, d, _⟩ := h (mSwap 1 true) 0 2 4 _ (swapping _ _) (by decide) (by decide)
  exact ⟨⟨_, a⟩, ⟨_, b⟩, ⟨_, c⟩, ⟨_, d⟩⟩

theorem begun (k : Nat) (w : Swap) (e : AMap.find? [(2, aSwap 1 false)] k = some w) : 0 < w.p := by
  simp only [AMap.find?] at e
  split at e <;> simp_all
  subst e
  decide

/-- In operation, and while the machine recovers. -/
theorem witness_SwapsAbort :
    Claims.SwapsAbort → Runs (.affAbort 0 4) (mSwap 1 false) ∧
      exec (.affAbort 0 4) { mSwap 1 false with stage := 1 } = .next { mSwap 1 false with stage := 1 } := by
  intro h
  obtain ⟨_, a, _⟩ := (h (mSwap 1 false) 0 4 (by decide) begun).2 rfl
  exact ⟨⟨_, a⟩, (h { mSwap 1 false with stage := 1 } 0 4 (by decide) begun).1 (by decide)⟩

theorem witness_RevivesSweep :
    Claims.RevivesSweep → Runs (.affReviveSweep 0 3) { m0 with dies := [(0, { map := [(3, { state := 1, revive := true })] })] } := by
  intro h
  obtain ⟨_, a, _⟩ := h { m0 with dies := [(0, { map := [(3, { state := 1, revive := true })] })] } 0 3 rfl (by decide)
  exact ⟨_, a⟩

/-- Frame 3 of die 0, and the entry that the host writes: a mapping to location 5 of tier N, an end of a pin, an unmapping,
two refused writes, and a write while the machine recovers. -/
def mPort (e : PEntry) (v : W64) : State := { m0 with dies := [(0, { map := [(3, e)], mpDfn := 3, mpEntry := v })] }

theorem witness_MapPort :
    Claims.MapPort → ((run (.mapPortGo 0) (mPort {} 0x200000014)).pent 0 3).state = 1 ∧
      ((run (.mapPortGo 0) (mPort { state := 1, pinned := true } 0)).pent 0 3).pinned = false ∧
      ((run (.mapPortGo 0) (mPort { state := 3 } 0)).pent 0 3).state = 0 ∧
      ((run (.mapPortGo 0) (mPort { state := 3 } 0x200000000)).die 0).mpRef = true ∧
      ((run (.mapPortGo 0) (mPort { state := 1, again := true } 0)).die 0).mpRef = true ∧
      exec (.mapPortGo 0) { mPort {} 0x200000014 with stage := 1 } = .next { mPort {} 0x200000014 with stage := 1 } := by
  intro h
  obtain ⟨_, a, _, a2⟩ := (h (mPort {} 0x200000014) 0 (by decide) rfl rfl).2 rfl rfl (fun x => absurd x (by decide))
  obtain ⟨_, b, _, b2⟩ := (h (mPort { state := 1, pinned := true } 0) 0 (by decide) rfl rfl).2 rfl rfl
    (fun x => absurd x (by decide))
  obtain ⟨_, c, _, c2⟩ := (h (mPort { state := 3 } 0) 0 (by decide) rfl rfl).2 rfl rfl (fun x => absurd x (by decide))
  obtain ⟨_, d, _, d2⟩ := (h (mPort { state := 3 } 0x200000000) 0 (by decide) rfl rfl).2 rfl rfl
    (fun x => absurd x (by decide))
  obtain ⟨_, e, _, e2⟩ := (h (mPort { state := 1, again := true } 0) 0 (by decide) rfl rfl).2 rfl rfl
    (fun x => absurd x (by decide))
  have f := (h { mPort {} 0x200000014 with stage := 1 } 0 (by decide) rfl rfl).1 (by decide)
  rw [if_pos (by decide)] at a2
  rw [if_neg (by decide), if_neg (by decide), if_pos (by decide), if_neg (by decide)] at b2
  rw [if_neg (by decide), if_pos (by decide)] at c2
  rw [if_neg (by decide), if_neg (by decide), if_neg (by decide)] at d2
  rw [if_neg (by decide), if_neg (by decide), if_pos (by decide), if_pos (by decide)] at e2
  unfold run
  rw [a, b, c, d, e]
  refine ⟨?_, ?_, ?_, ?_, ?_, f⟩
  · exact (congrArg PEntry.state (a2.2.2 (by decide))).trans rfl
  · exact (congrArg PEntry.pinned b2.2).trans rfl
  · exact (congrArg PEntry.state c2.2.1).trans rfl
  · exact d2.1
  · exact e2.1

theorem noQueue (s : State) (h : s.vis = m0.vis) (v : Nat) : (s.queue v 1).en = false := by
  have e : s.queue v 1 = m0.queue v 1 := by unfold State.queue State.vi; rw [h]
  rw [e]
  cases v <;> rfl

/-- A Bloom period that is over; the first failed channel of a group, and a second one; the end of a drain; a lost root
port. -/
theorem witness_MediaFailures :
    Claims.MediaFailures → Runs (.bloomClear 3) { m0 with now := bloomPeriod } ∧ Runs (.channelRetire 0 3 15) m0 ∧
      Runs (.channelRetire 0 3 15) (mTick { retired := [(3, 14)] }) ∧
      ((mTick { retired := [(3, 14)], drain := true }).drainAll.die 0).rehash = true ∧ Runs (.rootPortLost 0) m0 := by
  intro h
  obtain ⟨_, a, _⟩ := (h m0 0 (by decide)).2.2.1 3 15 (by decide) (by decide) (by decide) (by decide)
  obtain ⟨_, b, _⟩ := (h (mTick { retired := [(3, 14)] }) 0 (by decide)).2.2.1 3 15 (by decide) (by decide) (by decide)
    (by decide)
  have d := (h (mTick { retired := [(3, 14)], drain := true }) 0 (by decide)).2.2.2.1 rfl rfl (by decide) (noQueue _ rfl)
  obtain ⟨_, c, _⟩ := (h m0 0 (by decide)).2.2.2.2 rfl (noQueue _ rfl)
  have e := (h { m0 with now := bloomPeriod } 3 (by decide)).1 (by
    have x : (State.die { m0 with now := bloomPeriod } 3).bloomAt = 0 := rfl
    have y : ({ m0 with now := bloomPeriod } : State).now = bloomPeriod := rfl
    omega)
  exact ⟨⟨_, e⟩, ⟨_, a⟩, ⟨_, b⟩, d.1, ⟨_, c⟩⟩

/-- A hold-down of a leaf of one page that ends, and one of the first leaf of die 0, within which a host request does
nothing. -/
def mDown (h : Nat × Nat × Nat) : State :=
  { m0 with dies := [(0, { tlb := [{ vi := 0, unit := 0, n := 16384, leaf := 0x23 }], downs := [h] })] }

theorem witness_HoldDownsEnd :
    Claims.HoldDownsEnd → Runs (.claimHolddownExpire 0 7) (mDown (7, 1, 100)) ∧
      (mDown (0, 32, 150)).hostClaim 0 0x1FFFFF = mDown (0, 32, 150) := by
  intro h
  obtain ⟨_, a, _⟩ := h.1 (mDown (7, 1, 100)) 0 7 (7, 1, 100) (List.mem_cons_self ..) rfl (by decide)
  exact ⟨⟨_, a⟩, h.2 (mDown (0, 32, 150)) 0 0x1FFFFF { vi := 0, unit := 0, n := 16384, leaf := 0x23 } (0, 32, 150) (by rfl)
    (List.mem_cons_self ..) (by decide)⟩

/-! ## Witnesses: the host interface -/

def mQueue (q : Nat) (x : Queue) : State := { m0 with vis := [(0, { queues := [(q, x)] })] }

/-- A record at the last entry of an error queue, one for a full error queue, and one for a full completion queue. -/
theorem witness_ReportRecords :
    Claims.ReportRecords →
      (((mQueue 1 { base := 1, lg := 2, en := true, tail := 3, head := 1 }).record 0 1 [7]).queue 0 1).tail = 0 ∧
      ((mQueue 1 { base := 1, lg := 2, en := true, tail := 3, head := 0, lost := 65535 }).record 0 1 [7]).queue 0 1 =
        { base := 1, lg := 2, en := true, tail := 3, head := 0, lost := 65535 } ∧
      (((mQueue 0 { base := 1, lg := 2, en := true, tail := 3, head := 0 }).record 0 0 [7]).queue 0 0).waiting = [[7]] := by
  intro h
  have a := ((h (mQueue 1 { base := 1, lg := 2, en := true, tail := 3, head := 1 }) 0 1 [7] rfl).1 (by decide) rfl
    (by decide) rfl).2.2.1
  have b := (h (mQueue 1 { base := 1, lg := 2, en := true, tail := 3, head := 0, lost := 65535 }) 0 1 [7] rfl).2.1
    (by decide) rfl
  have c := (h (mQueue 0 { base := 1, lg := 2, en := true, tail := 3, head := 0 }) 0 0 [7] rfl).2.2 (by decide) (by decide)
  exact ⟨a.trans (by decide), by rw [b]; decide, by rw [c]; decide⟩

/-- A tail beyond the size wraps; an enable with a size of 2^16 and one that keeps the size; a disable. -/
theorem witness_StreamRegisters :
    Claims.StreamRegisters → Runs (.sqTailWrite 0 7 0xFFFF) m0 ∧ Runs (.sqEnable 0 7 0x10710) m0 ∧
      Runs (.sqEnable 0 7 0x10011) m0 ∧ Runs (.sqDisable 0 7 2) m0 := fun h =>
  ⟨⟨_, (h m0 0 7 0xFFFF rfl).1⟩, ⟨_, (h m0 0 7 0x10710 rfl).2.1 (by decide)⟩, ⟨_, (h m0 0 7 0x10011 rfl).2.1 (by decide)⟩,
   ⟨_, (h m0 0 7 2 rfl).2.2 (by decide)⟩⟩

/-- The last queue, the last grant register, the last group register, and the same writes by a guest. -/
theorem witness_EventRegisters :
    Claims.EventRegisters →
      (Runs (.queueHeadWrite 0 2 0xFFFF) m0 ∧ Runs (.evGrant 3 5) m0 ∧ Runs (.grantWrite 0 63 1 9) m0 ∧
        Runs (.grantWrite 3 63 1 9) m0) ∧
      Runs (.sgEntWrite 0 255 0x1FFFFFFFFFFFF) m0 ∧ Runs (.sgEntWrite 3 255 1) m0 ∧ Runs (.tlbInvalidate 3) m0 := by
  intro h
  obtain ⟨_, a, _⟩ := (h m0 0 9 rfl).2.2.1 63 1 rfl (by decide) (by decide)
  exact ⟨⟨⟨_, (h m0 0 0xFFFF rfl).1 2 rfl⟩, ⟨_, (h m0 3 5 rfl).2.1⟩, ⟨_, a⟩, ⟨_, (h m0 3 9 rfl).2.2.2.1 63 1 (by decide)⟩⟩,
    ⟨_, (h m0 0 0x1FFFFFFFFFFFF rfl).2.2.2.2.1 255 rfl (by decide)⟩, ⟨_, (h m0 3 1 rfl).2.2.2.2.2.1 255 (by decide)⟩,
    ⟨_, (h m0 3 0 rfl).2.2.2.2.2.2⟩⟩

/-- An invalidation of one page of die 3, while the TLB of die 0 holds another. -/
theorem witness_Invalidations :
    Claims.Invalidations → Runs (.tlbInvalidateComplete 0) { device m0 with
      vis := [(0, { busy := true, goA := 0xC000000000000, goL := 1 })] } := by
  intro h
  obtain ⟨_, a, _⟩ := h { device m0 with vis := [(0, { busy := true, goA := 0xC000000000000, goL := 1 })] } 0 rfl rfl
    (by
      intro p hp _ m hm
      have e : ({ device m0 with vis := [(0, { busy := true, goA := 0xC000000000000, goL := 1 })] } : State).ctxList =
        [(0, 0, m0.ctx 0 0)] := rfl
      rw [e] at hp
      simp at hp
      subst hp
      exact absurd hm (by simp [show (m0.ctx 0 0).cmds = [] from rfl]))
  exact ⟨_, a⟩

def mRouter (mask : Option (BitVec 16)) (d : Domain := {}) : State :=
  { m0 with rtMask := mask, doms := [(0, d)], rtSha := [(0, { chan := 1, dom := 0, valid := true })] }

/-- A request for domain 15 alone; one while a request is open; cancels with and without one; a swap whose domain is held,
and one whose domain has no members. -/
theorem witness_RouterSwaps :
    Claims.RouterSwaps →
      (Runs (.rtSwap 0x8000) (mRouter none) ∧ Runs (.rtSwap 1) (mRouter (some 1)) ∧ Runs .rtSwapCancel (mRouter none)) ∧
      Runs .rtSwapCancel (mRouter (some 0xFFFF)) ∧ Runs .rtSwapTake (mRouter (some 1) { heldRt := some 90 }) ∧
      Runs .rtSwapTake (mRouter (some 0x8000)) := by
  intro h
  obtain ⟨_, a, _⟩ := (h (mRouter (some 0xFFFF)) 0 rfl).2.2.2.1 _ rfl
  obtain ⟨_, b, _⟩ := (h (mRouter (some 1) { heldRt := some 90 }) 0 rfl).2.2.2.2 1 rfl rfl (fun d _ m => by
    cases d with
    | zero => exact .inl (show (some 90 : Option Nat) ≠ none by simp)
    | succ d => exact .inr (.inr rfl))
  obtain ⟨_, c, _⟩ := (h (mRouter (some 0x8000)) 0 rfl).2.2.2.2 0x8000 rfl rfl (fun d _ m => by
    cases d with
    | zero => exact .inr (.inr rfl)
    | succ d => exact .inr (.inr rfl))
  exact ⟨⟨⟨_, (h (mRouter none) 0x8000 rfl).1 rfl (by decide)⟩, ⟨_, (h (mRouter (some 1)) 1 rfl).2.1 (by simp [mRouter])⟩,
    ⟨_, (h (mRouter none) 0 rfl).2.2.1 rfl⟩⟩, ⟨_, a⟩, ⟨_, b⟩, ⟨_, c⟩⟩

theorem witness_Mailboxes :
    Claims.Mailboxes → Runs (.mbQuote 3) m0 ∧ Runs (.mbLog 3) m0 ∧ Runs (.mbCertificate 3) m0 ∧ Runs (.mbTransport 3) m0 := by
  intro h
  obtain ⟨_, ⟨_, a, _⟩, ⟨_, b, _⟩, ⟨_, c, _⟩, ⟨_, d, _⟩⟩ := h m0 3 (.inl rfl) rfl
  exact ⟨⟨_, a⟩, ⟨_, b⟩, ⟨_, c⟩, ⟨_, d⟩⟩

/-- The last registers of each array, a guest in the privileged view, an offset off the grid. -/
theorem witness_RegisterMap :
    Claims.RegisterMap →
      (exec (.registerWrite 63 0x1F0 5) m0 = exec (.sqTailWrite 63 7 5) m0 ∧
        exec (.registerWrite 63 0x258 5) m0 = exec (.queueHeadWrite 63 2 5) m0 ∧
        Runs (.registerWrite 63 0x318 5) m0) ∧
      exec (.registerWrite 63 0x800 4) m0 = exec (.mbTransport 63) m0 ∧
      exec (.registerWrite 0 0x103F8 5) m0 = exec (.grantWrite 0 63 1 5) m0 ∧
      exec (.registerWrite 0 0x127F8 5) m0 = exec (.sgEntWrite 0 255 5) m0 ∧
      Runs (.registerWrite 1 0x10000 5) m0 ∧ Runs (.registerWrite 1 0x104 5) m0 := by
  intro h
  have a := fun n m v => h m0 63 n m v (by decide) rfl
  have b := fun n m v => h m0 0 n m v (by decide) rfl
  have c := fun n m v => h m0 1 n m v (by decide) rfl
  refine ⟨⟨((a 7 0 5).1 (by decide)).1, (a 2 0 5).2.1 (by decide), ⟨_, (a 3 0 5).2.2.2.1 (by decide)⟩⟩, ?_, ?_, ?_, ?_, ?_⟩
  · exact (a 0 0 4).2.2.2.2.2.2.2.2.2.2.2.1 (by decide)
  · exact (b 63 1 5).2.2.2.2.2.2.2.2.2.2.2.2.1 rfl (by decide) (by decide)
  · exact (b 255 0 5).2.2.2.2.2.2.2.2.2.2.2.2.2.1 rfl (by decide)
  · exact ⟨_, (c 0x10000 0 5).2.2.2.2.2.2.2.2.2.2.2.2.2.2.2.1 (by decide) (by decide)⟩
  · exact ⟨_, (c 0x104 0 5).2.2.2.2.2.2.2.2.2.2.2.2.2.2.2.2 (by decide)⟩

/-- An access to the last byte of the frame, with the aperture at 0. -/
def mAperture : State := { device m0 with vis := [(0, { grant := allClusters, key := .live, ap := 1 })] }

/-- The frame is in tier H and its page is lent to the host; an accepted write of the last four bytes is still to come. -/
def mLent : State :=
  { m0 with
    dies := [(0, { tlb := [{ vi := 0, unit := 0, n := 16384, leaf := 0x33 }], map := [(0, { state := 1, tier := 3 })] })],
    vis := [(0, { key := .live })],
    hmem := Mem.writeBytes [] 0x1FFFFC [9, 9, 9, 9], unacc := [(0x1FFFFC, [5, 6, 7, 8])] }

theorem witness_ApertureAccesses :
    Claims.ApertureAccesses → Runs (.hostApertureWrite 0 0x1FFFFF 1 7) mAperture ∧
      Runs (.hostApertureRead 0 0x1FFFF8 8) mAperture ∧ mLent.hostReads 0 0x1FFFF8 8 = [0, 0, 0, 0, 5, 6, 7, 8] ∧
      Runs .hostWriteAccepted mLent := by
  intro h
  have med := wholeMedia mAperture ⟨rfl, rfl, rfl⟩ rfl (formsKept _ (liveOne rfl) rfl nofun)
  have no : ∀ c ∈ mAperture.ctxList, c.2.2.cmds = [] := by
    have e : mAperture.ctxList = [(0, 0, m0.ctx 0 0)] := rfl
    rw [e]
    intro c hc
    simp at hc
    subst hc
    rfl
  have e : ((mAperture.vi 0).ap.extractLsb' 36 16).toNat * 2 ^ 36 + 0x1FFFFF = 0x1FFFFF := by decide +kernel
  have f : ((mAperture.vi 0).ap.extractLsb' 36 16).toNat * 2 ^ 36 + 0x1FFFF8 = 0x1FFFF8 := by decide +kernel
  have a := h.1 mAperture 0 0x1FFFFF 1 7 (endWord 2047) rfl (by decide +kernel) (by decide) (by decide) (by decide)
  have b := h.1 mAperture 0 0x1FFFF8 8 7 (endWord 2040) rfl (by decide +kernel) (by decide) (by decide) (by decide)
  obtain ⟨⟨_, a, _⟩, _⟩ := a (by rw [e]; rfl) (by rfl) (by decide +kernel) (by decide +kernel) med no rfl
  obtain ⟨_, ⟨_, b, _⟩⟩ := b (by rw [f]; rfl) (by rfl) (by decide +kernel) (by decide +kernel) med no rfl
  have c := h.2.1 mLent 0 0x1FFFF8 8 0x1FFFFC [5, 6, 7, 8] (endWord 2040) (by rfl) (by rfl) (by rfl) (by decide +kernel) rfl rfl
  obtain ⟨_, _, _, _, _, d, _⟩ := h.2.2 mLent (by decide)
  exact ⟨⟨_, a⟩, ⟨_, b⟩, c.trans (by decide +kernel), ⟨_, d⟩⟩

/-! ## Witnesses: the fabric, resets, errors, and the step -/

def mDelavo (x : Port) (now : Nat := 40000) : State := { m0 with now := now, ports := [(15, x)] }

/-- Port 15: both kinds of flit; 17 failures; 33,000 silent cycles; a port that comes up. -/
theorem witness_Ports :
    Claims.Ports →
      (Runs (.delavoFlitReceive 15 true) (mDelavo { fails := 5 }) ∧ Runs (.delavoFlitReceive 15 false) (mDelavo { fails := 16 })) ∧
      Runs (.delavoPortDown 15 false) (mDelavo { fails := 17 } 100) ∧
      Runs (.delavoPortDown 15 true) (mDelavo { last := 100 } 33100) ∧ Runs (.delavoSignalTimeout 15) (mDelavo { last := 100 } 33100) ∧
      Runs (.delavoPortUp 15) (mDelavo { down := true }) := by
  intro h
  have c := (h (mDelavo { last := 100 } 33100) 15).2.1 (by decide) rfl rfl
  exact ⟨⟨⟨_, ((h (mDelavo { fails := 5 }) 15).1 (by decide) rfl).1⟩, ⟨_, ((h (mDelavo { fails := 16 }) 15).1 (by decide) rfl).2⟩⟩,
    ⟨_, ((h (mDelavo { fails := 17 } 100) 15).2.1 (by decide) rfl rfl).1 (by decide)⟩, ⟨_, (c.2 (by decide)).1⟩,
    ⟨_, (c.2 (by decide)).2⟩, ⟨_, (h (mDelavo { down := true }) 15).2.2 rfl⟩⟩

/-- A collective of group 255 with the command `collCmd`: rank 3 of 4, one block from the last of the frame to `dst`. -/
def aColl (kind : W64) (taken : Bool) (got : AMap (List Byte) := []) : Coll where
  scope := 1
  group := 255
  dom := 0
  seq := 7
  core := 0
  ctx := 0
  cmd := 0
  vi := 0
  rank := 3
  n := 4
  desc := [kind, 0x1FF800, 0x1FF800, 2048, 0, 0x3FFFF8]
  taken := taken
  got := got
  t := 90
  moved := 0

def collCmd : Cmd := oneCmd (.xColl 0 1 1) [0, 0, 0, 0]

def mGroup (c : Coll) (now : Nat := 100) : State := { mCleat collCmd with colls := [c], now := now }

theorem takes (c : Coll) (now : Nat) (h : c.core = 0 ∧ c.ctx = 0 ∧ c.cmd = 0 ∧ c.done = false)
    (h2 : c.failed = false ∧ c.clash = false ∧ c.n ≠ 0 ∧ c.rank < c.n) : Claims.Takes (mGroup c now) 0 0 collCmd c where
  holds := by unfold Claims.Holds; rfl
  coll := ⟨rfl, h⟩
  ok := h2

/-- The same machine with page tables in the frame in place of a cached leaf. -/
def mWalked (c : Coll) : State := { mCleat collCmd true with colls := [c] }

theorem wholeWalked (c : Coll) : Claims.WholeMedia (mWalked c) :=
  let h := healthyC collCmd true { state := 1 } ctx0 rfl
  ⟨⟨rfl, rfl, rfl⟩, h.chans, h.map, formsKept _ (liveOne rfl) rfl (show ∀ p ∈ ([_, _, _] : AMap SideBand), _ by decide)⟩

theorem takesWalked (c : Coll) (h : c.core = 0 ∧ c.ctx = 0 ∧ c.cmd = 0 ∧ c.done = false)
    (h2 : c.failed = false ∧ c.clash = false ∧ c.n ≠ 0 ∧ c.rank < c.n) : Claims.Takes (mWalked c) 0 0 collCmd c where
  holds := by unfold Claims.Holds; rfl
  coll := ⟨rfl, h⟩
  ok := h2

/-- An all-gather: the last chunk of rank 2; the participant's own contribution, the last block of the frame. -/
theorem witness_Chunks :
    Claims.Chunks →
      Runs (.shroudChunkReceive 0 0 0 2 2 (List.replicate 2048 7)) (mGroup (aColl 2 true)) ∧
      Runs (.shroudChunkReceive 0 0 0 3 3 []) (mWalked (aColl 2 false)) := by
  intro h
  have a := (h (mGroup (aColl 2 true)) 0 0 2 2 collCmd (aColl 2 true) (List.replicate 2048 7)
    (takes _ _ ⟨rfl, rfl, rfl, rfl⟩ (by decide))).1 rfl rfl (by decide) (by decide) (by decide) (by decide)
    (by rw [List.length_replicate]; decide)
  have b := (h (mWalked (aColl 2 false)) 0 0 3 3 collCmd (aColl 2 false) []
    (takesWalked _ ⟨rfl, rfl, rfl, rfl⟩ (by decide))).2.1
  have al : Claims.Alone (mWalked (aColl 2 false)) 0 0 collCmd :=
    { aloneC collCmd true { state := 1 } ctx0 (by decide) (by decide +kernel) ⟨rfl, rfl, rfl, rfl⟩ with
      flight := by decide +kernel }
  have e : ∃ src, ((mWalked (aColl 2 false)).seeBlocks 0 0x1FF800 2048).readRange 0 0x1FF800 1 = .ok src := ⟨_, rfl⟩
  obtain ⟨src, e⟩ := e
  obtain ⟨_, b, _⟩ := b al (wholeWalked _) rfl rfl rfl src e
  exact ⟨⟨_, a⟩, ⟨_, b⟩⟩

/-- Ranks 0 and 1 of a ring of two; rank 1 has folded the chunks of `part`. -/
def mRing (part : AMap (List Byte)) : State :=
  { m0 with colls := [{ aColl 0 true with scope := 0, rank := 0, n := 2 },
                      { aColl 0 true with scope := 0, rank := 1, n := 2, cmd := 1, part := part }] }

/-- A gathered chunk, a chunk on the way of the fold, nothing sent; in a ring, a chunk that the next rank has written, and one
that it has not. -/
theorem witness_ChunkAcks :
    Claims.ChunkAcks → Runs (.shroudChunkAck 0 0 0 2) (mGroup (aColl 2 true [(2, [7])])) ∧
      Runs (.shroudChunkAck 0 0 0 0) (mGroup { aColl 0 true with rank := 0 }) ∧
      exec (.shroudChunkAck 0 0 0 0) (mGroup (aColl 0 false)) = .refused (.notEnabled "SHROUD_CHUNK_ACK") ∧
      Runs (.shroudChunkAck 0 0 0 0) (mRing [(0, [7])]) ∧
      exec (.shroudChunkAck 0 0 0 0) (mRing []) = .refused (.notEnabled "SHROUD_CHUNK_ACK") := by
  intro h
  have a := (h (mGroup (aColl 2 true [(2, [7])])) 0 0 2 0 _ (List.mem_cons_self ..) (by decide) (by decide) (by decide)).2.1
    (by decide) ⟨by decide, by decide, fun e => absurd e (by decide)⟩
  have b := (h (mGroup { aColl 0 true with rank := 0 }) 0 0 0 0 _ (List.mem_cons_self ..) (by decide) (by decide)
    (by decide)).1 ⟨by decide, by decide, fun e => absurd e (by decide)⟩
  have c := (h (mGroup (aColl 0 false)) 0 0 0 0 _ (List.mem_cons_self ..) (by decide) (by decide) (by decide)).2.2
    (fun e => absurd e.1 (by decide)) (fun e => absurd e.1 (by decide))
  have d := (h (mRing [(0, [7])]) 0 0 0 0 _ (List.mem_cons_self ..) (by decide) (by decide) (by decide)).1
    ⟨by decide, by decide, fun _ => ⟨_, rfl, .inr ⟨rfl, rfl⟩⟩⟩
  have e := (h (mRing []) 0 0 0 0 _ (List.mem_cons_self ..) (by decide) (by decide) (by decide)).2.2
    (fun e => by
      obtain ⟨d, hd, w⟩ := e.2.2 rfl
      cases hd
      exact absurd w (by decide))
    (fun e => absurd e.1 (by decide))
  exact ⟨⟨_, a⟩, ⟨_, b⟩, c, ⟨_, d⟩, e⟩

/-- The participant is cut off: each port of its group is down. -/
def mCut : State := { mGroup (aColl 0 true) (2 ^ 32) with ports := [(0, { down := true })] }

/-- 2^32 cycles without progress, with every port up and with none; an abort notice. -/
theorem witness_CollectivesFail :
    Claims.CollectivesFail → Runs (.shroudProgressTimeout 0 0 0) (mGroup (aColl 0 true) (2 ^ 32)) ∧
      Runs (.shroudProgressTimeout 0 0 0) mCut ∧
      Runs (.shroudAbortNotice 0 0 0) (mGroup (aColl 0 true)) := by
  intro h
  have a := (h (mGroup (aColl 0 true) (2 ^ 32)) 0 0 collCmd (aColl 0 true) (takes _ _ ⟨rfl, rfl, rfl, rfl⟩ (by decide))).1
    (by decide) (.inr (.inr ⟨true, false, rfl⟩))
  have c := (h mCut 0 0 collCmd (aColl 0 true)
    { holds := by unfold Claims.Holds; rfl, coll := ⟨rfl, rfl, rfl, rfl, rfl⟩, ok := by decide }).2.1
    (by decide) rfl (by decide) (fun f g => by cases f <;> cases g <;> decide +kernel)
  have b := (h (mGroup (aColl 0 true)) 0 0 collCmd (aColl 0 true) (takes _ _ ⟨rfl, rfl, rfl, rfl⟩ (by decide))).2.2
  exact ⟨⟨_, a⟩, ⟨_, c⟩, ⟨_, b⟩⟩

/-- The destination is the last block of frame 0, the status word the last word of frame 1. -/
def mDone (bytes : List Byte) : State :=
  { mGroup (aColl 0 true [(0, bytes)]) with
    dies := [(0, { tlb := [{ vi := 0, unit := 0, n := 16384, leaf := 0x23 }],
                   map := [(0, { state := 1 }), (1, { state := 1, loc := 1 })] })] }

theorem witness_CollectivesComplete :
    Claims.CollectivesComplete → Runs (.collComplete 0 0 0) (mDone (List.replicate 2048 7)) := by
  intro h
  have tk : Claims.Takes (mDone (List.replicate 2048 7)) 0 0 collCmd (aColl 0 true [(0, List.replicate 2048 7)]) :=
    { holds := by unfold Claims.Holds; rfl, coll := ⟨rfl, rfl, rfl, rfl, rfl⟩, ok := by decide }
  have a := h (mDone (List.replicate 2048 7)) 0 0 collCmd (aColl 0 true [(0, List.replicate 2048 7)])
    (List.replicate 2048 7) (endWord 0) { endWord 2040 with dfn := 1 } tk ⟨_, _, _, rfl⟩
    { cmds := rfl, stores := rfl, flight := by decide +kernel, issued := by decide, queued := ⟨rfl, rfl, rfl, rfl⟩,
      ctx := by decide, others := fun i h => by
        cases i with
        | zero => exact absurd rfl h
        | succ i => rfl }
    rfl rfl rfl rfl rfl rfl (by decide) (by decide) rfl List.length_replicate
  obtain ⟨_, a, _⟩ := a rfl rfl (by decide) (by decide) rfl rfl (by decide) rfl (by decide) rfl (by decide) (by decide)
    (by decide) (by decide) (by decide) (by decide) (by decide +kernel) (by decide +kernel) tables_wf
  exact ⟨_, a⟩

/-- A context at address `pc` of a half that holds these bytes from there on. -/
def mAt (pc : Nat) (bytes : List Byte) : State :=
  machine { ctx0 with pc := pc } fun c => { c with imem := Mem.writeBytes [] pc bytes }

/-- The last five bytes of the half hold an S slot with a reserved operation code. -/
theorem witness_UndefinedBundles :
    Claims.UndefinedBundles → Runs (.illegalEncoding 0) (mAt 0x7FFB [1, 0, 0, 0, 0x2E]) := fun h =>
  ⟨_, h (mAt 0x7FFB [1, 0, 0, 0, 0x2E]) 0 0 _ { kind := .s, raw := 0x2E000000, ins := .error .reservedOpcode } .reservedOpcode
    rfl rfl rfl (by decide) (by decide) rfl (by refine ⟨?_, ?_, ?_, ?_⟩ <;> decide) rfl rfl rfl rfl rfl rfl rfl rfl⟩

/-- The last bit of each memory, register file and latch. -/
theorem witness_SoftErrors :
    Claims.SoftErrors →
      (Runs (.softError (.scratch 1023 131071 63)) m0 ∧ Runs (.softError (.window 1023 65535 63)) m0 ∧
        Runs (.softError (.instr 1023 8191 63)) m0 ∧ Runs (.softError (.sreg 1023 3 63 63)) m0 ∧
        Runs (.softError (.areg 1023 3 31 63)) m0 ∧ Runs (.softError (.vmain 1023 .vb 16383 63)) m0) ∧
      (Runs (.softError (.voper 1023 3 .vb 801 1023)) m0 ∧ Runs (.softError (.acc 1023 3 31 31 31)) m0 ∧
        Runs (.softError (.voper 1023 3 .vb 1027 1023)) m0 ∧ Runs (.softError (.accum 0 0 31 31 31)) (mBank { checked := false }) ∧
        Runs (.softError (.edge 1023 3 true 1023)) m0 ∧ Runs (.softError (.mask 1023 3 .vb 7 31)) m0 ∧
        Runs (.softError (.slotSb 1023 639 63)) m0 ∧ Runs (.softError (.place 3 1048575 1 63)) m0) ∧
      Runs (.softError (.transit 0 0 0)) (mFlight (xchCmd 0 (.flight (aTrade .a (.d 0x1FF800) none))) {} {}) ∧
      (Runs (.softError (.media 5 true)) m0 ∧ Runs (.softError (.media 5 false)) m0 ∧ Runs (.softError (.sideband 5)) m0 ∧
        Runs (.softError (.pool 127 4095)) m0 ∧ Runs (.softError (.router 65535 false)) m0 ∧
        Runs (.softError (.router 65535 true)) m0) := by
  intro h
  have m := fun n b => h m0 1023 n b (by decide)
  have d := h m0 1023 1048575 63 (by decide) (by decide)
  obtain ⟨_, _, _, _, _, _, _, _, acc, _⟩ := m 3 31 (by decide)
  have acc := (acc 31 31 (by decide) (by decide) (by decide) (by decide)).1
  obtain ⟨_, _, _, _, _, _, _, _, sums, _⟩ := h (mBank { checked := false }) 0 0 31 (by decide) (by decide)
  obtain ⟨_, sums, _⟩ := (sums 31 31 (by decide) (by decide) (by decide) (by decide)).2 rfl
  obtain ⟨_, _, _, _, _, _, _, _, _, _, _, _, _, tr, _⟩ := h (mFlight (xchCmd 0 (.flight (aTrade .a (.d 0x1FF800) none))) {} {})
    0 0 0 (by decide) (by decide)
  obtain ⟨_, tr, _⟩ := tr 0 (xchCmd 0 (.flight (aTrade .a (.d 0x1FF800) none))) _ (by decide) rfl rfl
  obtain ⟨_, _, _, _, _, _, vo, vh, _, edge, _⟩ := m 15 63 (by decide)
  have vo := vo 3 .vb 33 (by decide) (by decide) (by decide)
  have vh := vh 3 3 (by decide) (by decide) (by decide) (by decide) .vb
  have edge := edge 3 true (by decide) (by decide)
  obtain ⟨_, _, _, _, _, _, _, _, _, _, mask, _⟩ := m 7 31 (by decide)
  have mask := (mask 3 (by decide) (by decide) (by decide) (by decide)).2
  obtain ⟨_, _, _, _, _, _, _, _, _, _, _, sb, _⟩ := m 639 63 (by decide)
  obtain ⟨_, _, _, _, _, _, _, _, _, _, _, _, place, _⟩ := d
  obtain ⟨_, _, _, _, _, _, _, _, _, _, _, _, _, _, hard, soft, side, _⟩ := m 5 0 (by decide)
  obtain ⟨_, _, _, _, _, _, _, _, _, _, _, _, _, _, _, _, _, pool, _⟩ := m 4095 0 (by decide)
  obtain ⟨_, _, _, _, _, _, _, _, _, _, _, _, _, _, _, _, _, _, rt⟩ := m 65535 0 (by decide)
  exact ⟨⟨⟨_, (m 131071 63 (by decide)).1 (by decide)⟩, ⟨_, (m 65535 63 (by decide)).2.1 (by decide)⟩,
    ⟨_, (m 8191 63 (by decide)).2.2.1 (by decide)⟩, ⟨_, (m 63 63 (by decide)).2.2.2.1 3 (by decide) (by decide)⟩,
    ⟨_, (m 31 63 (by decide)).2.2.2.2.1 3 (by decide) (by decide) (by decide)⟩,
    ⟨_, ((m 16383 63 (by decide)).2.2.2.2.2.1 (by decide)).2⟩⟩,
    ⟨⟨_, vo⟩, ⟨_, acc⟩, ⟨_, vh⟩, ⟨_, sums⟩, ⟨_, edge⟩, ⟨_, mask⟩, ⟨_, sb (by decide)⟩,
      ⟨_, place 3 (by decide) (by decide) 1 (by decide)⟩⟩,
    ⟨_, tr⟩, ⟨_, hard⟩, ⟨_, soft⟩, ⟨_, side⟩, ⟨_, pool 127 (by decide) (by decide)⟩, ⟨_, (rt (by decide)).1⟩,
    ⟨_, (rt (by decide)).2⟩⟩

theorem witness_EncodingsAgree :
    Claims.EncodingsAgree →
      decode (encode (.sShli 63 63 63)) = .ok (.sShli 63 63 63) ∧
      (∃ b, decodeBundle (encodeBundle (.xFence 5 1 4) ++ bundle3) = some b ∧ b.len = 9) ∧
      encode (.sAdd 3 1 2) = .s 0x02182100 := by
  intro h
  obtain ⟨b, e, l, _⟩ := h.2.1 (.xFence 5 1 4) .x _ bundle3 rfl (by decide)
  exact ⟨h.1 _ (by simp [encode]) (by decide), ⟨b, e, l⟩, (h.2.2 (.s 0x02182100) (.sAdd 3 1 2) rfl).1⟩

/-- A bundle that ends the half, the three-slot bundle of R144, and an S slot with a reserved operation code. -/
theorem witness_BundlesRun :
    Claims.BundlesRun →
      step (mAt 0x7FFB [1, 0, 0x21, 0x18, 2]) =
        ((mAt 0x7FFB [1, 0, 0x21, 0x18, 2]).atAddr 0 0 0x7FFB |>.begin_ 0 0).after
          (exec (.sAdd 3 1 2) ((mAt 0x7FFB [1, 0, 0x21, 0x18, 2]).atAddr 0 0 0x7FFB |>.begin_ 0 0)) ∧
      (∃ t, step (mAt 0 bundle3) = .next t) ∧
      step (mAt 0 [1, 0, 0, 0, 0x2E]) = ((mAt 0 [1, 0, 0, 0, 0x2E]).begin_ 0 0).after
        (exec (.illegalEncoding 0) ((mAt 0 [1, 0, 0, 0, 0x2E]).begin_ 0 0)) := by
  intro h
  refine ⟨(h (mAt 0x7FFB [1, 0, 0x21, 0x18, 2]) 0 0 rfl rfl rfl).1 0x7FFB _ ⟨.s, 0x02182100, .ok (.sAdd 3 1 2)⟩ _ rfl rfl rfl, ⟨_, (h (mAt 0 bundle3) 0 0 rfl rfl rfl).2.1 0 _ rfl ?_ (by decide)⟩,
    (h (mAt 0 [1, 0, 0, 0, 0x2E]) 0 0 rfl rfl rfl).2.2 rfl⟩
  intro w m
  have e : w ∈ [({ kind := .s, raw := 0x3028BFFF, ins := .ok (.sAddi 5 5 0x1FFF) } : SlotWord),
    { kind := .ld, raw := 0x208021800080, ins := .ok (.ldV (lsop .va 2 3 0 0x80)) },
    { kind := .va, raw := 0x0100001006004000, ins := .ok (.vAdd (vop .f32 4 6 1 0)) }] := m
  simp at e
  obtain e | e | e := e <;> subst e <;> exact ⟨_, rfl⟩

/-- The bytes of the last bundle of a line. -/
theorem witness_BytesRun :
    Claims.BytesRun →
      step (mAt 59 [1, 0, 0x21, 0x18, 2]) = ((mAt 59 [1, 0, 0x21, 0x18, 2]).begin_ 0 0).after
        (exec (.sAdd 3 1 2) ((mAt 59 [1, 0, 0x21, 0x18, 2]).begin_ 0 0)) := fun h =>
  h (mAt 59 [1, 0, 0x21, 0x18, 2]) 0 0 (.sAdd 3 1 2) rfl rfl rfl rfl rfl (by simp [encode]) (by decide) rfl (by decide)
    (by decide)

theorem witness_StepsGoOn :
    Claims.StepsGoOn →
      (∃ t, step { m0 with turn := .tick } = .next t) ∧ (∃ t, step { m0 with turn := .issue 7 } = .next t) ∧
      step State.reset = State.reset.after (exec .powerOnReset State.reset) := fun h =>
  ⟨⟨_, h.2.2.2.1 _ rfl⟩, ⟨_, h.2.2.2.2 _ 7 rfl rfl⟩, h.2.2.1 _ _ rfl⟩

theorem witness_StepsKeepCanonical :
    Obligations.NeverStops → Obligations.ResetIsCanonical → Obligations.StepsKeepCanonical →
      ∃ t, step State.reset = .next t ∧ t.Canonical := by
  intro h r g
  obtain ⟨t, e⟩ := h State.reset
  exact ⟨t, e, g _ _ r e⟩

end Sys2Proof.Tests
end

section
/-!
PROOF. Power-on, resets, undefined bundles and soft errors (R2, R145, R158, R293, R334 to R336).
-/

namespace Sys2Proof.Machine

/-! ## The machine right after power-on (R334) -/

/-- A core that is not listed is like every core that is not. -/
theorem State.core_of_unlisted {s : State} (h : s.cores = []) (k : Nat) : s.core k = s.coreDef := by
  simp [State.core, h, AMap.get, AMap.find?]

theorem State.reset_core (k : Nat) : State.reset.core k = {} := State.core_of_unlisted rfl k

/-- Domain 0 holds every cluster (R34). -/
theorem State.reset_dom (d : Nat) : State.reset.dom d = if d = 0 then { clusters := allClusters } else {} := by
  simp only [State.dom, State.reset, AMap.get, AMap.find?]
  split <;> rfl

/-- Interface 0 holds every grant, and its key is live (R270; log entry 96). -/
theorem State.reset_vi (v : Nat) :
    State.reset.vi v = if v = 0 then { grant := allClusters, key := .live } else {} := by
  simp only [State.vi, State.reset, AMap.get, AMap.find?]
  split <;> rfl

/-! ## What a reset leaves (R334 to R336) -/

/-- A write into the scratchpad changes the bytes and the side-band words of a core, and nothing else of it. -/
theorem Core.spWrite_eq (c : Core) (a : Nat) (bs : List Byte) :
    ∃ m sb, c.spWrite a bs = { c with sp := m, sb := sb } := by
  unfold Core.spWrite Core.putSlot
  dsimp only
  split <;> exact ⟨_, _, rfl⟩

/-- A core after step 6 but for its scratchpad, which holds the extent table (R336). -/
theorem bootCore_eq : ∃ m sb, bootCore =
    { heldB := false, run := some 0, ctxs := [(0, bootCtx)], imem := marchImage, sp := m, sb := sb } := by
  obtain ⟨m, sb, h⟩ := Core.spWrite_eq { heldB := false, run := some 0, ctxs := [(0, bootCtx)], imem := marchImage }
    0xFF800 ((List.range 18).flatMap fun i => leBytes 8 (Config.extentWord i).toNat)
  exact ⟨m, sb, by rw [bootCore, h]⟩

theorem bootCore_runs : bootCore.smode = 1 ∧ bootCore.heldB = false ∧ bootCore.run = some 0 := by
  obtain ⟨m, sb, h⟩ := bootCore_eq
  rw [h]
  exact ⟨rfl, rfl, rfl⟩

/-- The boot context is context 0; the others are free (R336). -/
theorem bootCore_ctx (j : Nat) : bootCore.ctx j = if j = 0 then bootCtx else {} := by
  obtain ⟨m, sb, h⟩ := bootCore_eq
  rw [h]
  simp only [Core.ctx, AMap.get, AMap.find?]
  split <;> rfl

/-- The reload of a map image changes the dies only (R335). -/
theorem State.reloadMap_eq (s : State) (die : Nat) : ∃ ds, s.reloadMap die = { s with dies := ds } := by
  unfold State.reloadMap
  split
  · exact ⟨s.dies, rfl⟩
  · refine List.foldlRecOn (motive := fun t : State => ∃ ds, t = { s with dies := ds }) _ _ ⟨s.dies, rfl⟩ ?_
    rintro _ ⟨ds, rfl⟩ dfn -
    dsimp only
    split
    · exact ⟨_, rfl⟩
    · exact ⟨ds, rfl⟩

theorem State.reloadMaps_eq (s : State) (l : List Nat) :
    ∃ ds, l.foldl State.reloadMap s = { s with dies := ds } := by
  refine List.foldlRecOn (motive := fun t : State => ∃ ds, t = { s with dies := ds }) _ _ ⟨s.dies, rfl⟩ ?_
  rintro _ ⟨ds, rfl⟩ die -
  obtain ⟨ds', h⟩ := State.reloadMap_eq { s with dies := ds } die
  exact ⟨ds', h⟩

/-- A reset may count an interface's key on, and leaves the rest of the interface as at power-on. -/
theorem State.cleared_vi (s : State) (v : Nat) : ∃ g, s.cleared.vi v = { State.reset.vi v with gen := g } := by
  refine List.foldlRecOn (motive := fun m : AMap Vi => ∃ g, AMap.get m v {} = { State.reset.vi v with gen := g })
    _ _ ⟨(State.reset.vi v).gen, rfl⟩ ?_
  rintro m ⟨g, h⟩ w -
  by_cases hw : v = w.1
  · subst hw
    simp only [AMap.upd, AMap.get_set_self, h]
    exact ⟨_, rfl⟩
  · simp only [AMap.upd, AMap.get_set_other _ _ _ hw]
    exact ⟨g, h⟩

/-- The reset of a machine whose boot images verify (R334). -/
theorem State.powerOn_verified (s : State) (h : Config.bootVerifies = true) :
    ∃ ds, s.powerOn = { s.cleared with dies := ds, coreDef := bootCore, stage := 1, measured := 2 } := by
  obtain ⟨ds, hds⟩ := State.reloadMaps_eq s.cleared (List.range 4)
  refine ⟨ds, ?_⟩
  unfold State.powerOn
  simp only [h, if_true, hds]

/-- The reset of a machine whose boot images do not verify (R274). -/
theorem State.powerOn_failed (s : State) (h : Config.bootVerifies ≠ true) :
    ∃ m, s.powerOn = { s.cleared with coreDef := { smode := 3 }, stage := 3, measured := m } := by
  unfold State.powerOn
  simp only [if_neg h]
  exact ⟨_, rfl⟩

/-- Whether the images verify or not, a reset differs from what it clears only in its dies, cores and stage. -/
theorem State.powerOn_eq (s : State) : ∃ ds c n m,
    s.powerOn = { s.cleared with dies := ds, coreDef := c, stage := n, measured := m } := by
  by_cases h : Config.bootVerifies = true
  · obtain ⟨ds, e⟩ := s.powerOn_verified h
    exact ⟨ds, _, _, _, e⟩
  · obtain ⟨m, e⟩ := s.powerOn_failed h
    exact ⟨_, _, _, m, e⟩

theorem State.powerOn_dom (s : State) (d : Nat) : s.powerOn.dom d = State.reset.dom d := by
  obtain ⟨ds, c, n, m, h⟩ := s.powerOn_eq
  rw [h]
  rfl

theorem State.powerOn_vi (s : State) (v : Nat) : ∃ g, s.powerOn.vi v = { State.reset.vi v with gen := g } := by
  obtain ⟨ds, c, n, m, h⟩ := s.powerOn_eq
  rw [h]
  exact s.cleared_vi v

/-- An interface after a reset: no stream is enabled, and only interface 0 has grants and a live key. -/
theorem State.powerOn_interface (s : State) (v : Nat) :
    (∀ st, (s.powerOn.stream v st).en = false) ∧ (s.powerOn.vi v).key = (if v = 0 then .live else .empty) ∧
      (s.powerOn.vi v).grant = if v = 0 then allClusters else 0 := by
  obtain ⟨g, h⟩ := s.powerOn_vi v
  unfold State.stream
  rw [h, State.reset_vi]
  split <;> exact ⟨fun _ => rfl, rfl, rfl⟩

theorem State.powerOn_core_verified (s : State) (h : Config.bootVerifies = true) (k : Nat) :
    s.powerOn.core k = bootCore := by
  obtain ⟨ds, e⟩ := s.powerOn_verified h
  rw [e]
  exact State.core_of_unlisted rfl k

theorem State.powerOn_core_failed (s : State) (h : Config.bootVerifies ≠ true) (k : Nat) :
    s.powerOn.core k = { smode := 3 } := by
  obtain ⟨m, e⟩ := s.powerOn_failed h
  rw [e]
  exact State.core_of_unlisted rfl k

/-- Where the images verify, every core is about to run its boot context (R336). -/
theorem State.powerOn_boots (s : State) (h : Config.bootVerifies = true) :
    s.powerOn.stage = 1 ∧ ∀ k, (s.powerOn.core k).smode = 1 ∧ (s.powerOn.core k).heldB = false ∧
      (s.powerOn.core k).run = some 0 ∧ (s.powerOn.ctx k 0).status = .ready ∧ (s.powerOn.ctx k 0).priv = true ∧
      (s.powerOn.ctx k 0).pc = 0 ∧ (∀ n, (s.powerOn.ctx k 0).rdS n = 0 ∧ (s.powerOn.ctx k 0).rdA n = 0) ∧
      ∀ j, j ≠ 0 → (s.powerOn.ctx k j).status = .free := by
  refine ⟨by obtain ⟨ds, e⟩ := s.powerOn_verified h; rw [e], fun k => ?_⟩
  have ctx : ∀ j, s.powerOn.ctx k j = if j = 0 then bootCtx else {} := fun j => by
    rw [State.ctx, s.powerOn_core_verified h, bootCore_ctx]
  obtain ⟨smode, heldB, run⟩ := bootCore_runs
  rw [ctx 0, s.powerOn_core_verified h]
  refine ⟨smode, heldB, run, rfl, rfl, rfl, fun n => ⟨rfl, ?_⟩, fun j hj => by rw [ctx j, if_neg hj]⟩
  simp [Ctx.rdA, bootCtx, AMap.get, AMap.find?]

/-- Where they do not, every core is held, in recovery (R274). -/
theorem State.powerOn_holds (s : State) (h : Config.bootVerifies ≠ true) :
    s.powerOn.stage = 3 ∧ ∀ k, (s.powerOn.core k).heldB = true ∧ ∀ j, (s.powerOn.ctx k j).status = .free := by
  refine ⟨by obtain ⟨m, e⟩ := s.powerOn_failed h; rw [e], fun k => ?_⟩
  rw [s.powerOn_core_failed h]
  exact ⟨rfl, fun j => by rw [State.ctx, s.powerOn_core_failed h]; rfl⟩

/-! ## A bundle without a definition (R145, R158) -/

theorem State.readyOn_eq {s : State} {k j : Nat} (run : (s.core k).run = some j)
    (ready : (s.ctx k j).status = .ready) (frozen : (s.ctx k j).frozen = none) (issueAt : (s.core k).issueAt ≤ s.now)
    (notB : (s.ctx k j).notB ≤ s.now) (heldB : (s.core k).heldB = false) : s.readyOn k = some j := by
  rw [State.ctx] at ready frozen notB
  simp [State.readyOn, run, Ctx.selectable, Ctx.isReady, ready, frozen, issueAt, notB, heldB]

/-- No 0x16 is due in a context that belongs to no gang and waits for none (R230, R298). -/
theorem due16_of_gangless {e : Env} (g : e.x.gtrap = none) (l : e.x.ltrap = none)
    (h : e.s.gangOf e.k e.j = none) : due16 e = none := by
  simp [due16, g, l, gangClash, h]

/-- The first slot of a bundle, where it has no definition, gives the bundle its trap (R146). -/
theorem firstTrap_of_undefined (e : Env) {sl : Slot} {err : DecodeError} (h : sl.ins = .error err) (sls : List Slot) :
    firstTrap e (sl :: sls) = some (illegal sl.kind sl.raw e.hdr, sl.sem.fail e (illegal sl.kind sl.raw e.hdr)) := by
  simp [firstTrap, Slot.trap, h]

/-- What a context issues that has no partner, at a bundle at its program counter. -/
theorem State.issueDue_alone {s : State} {k j : Nat} {b : Bundle} (hp : s.pairOf k j = none)
    (hf : (s.core k).fetch s.free j = .bundle (s.ctx k j).pc b) :
    s.issueDue k j = issueBundle (s.envAt k j (s.ctx k j).pc b) (Bundle.toSlots b) s := by
  simp [State.issueDue, hf, hp, State.atAddr]

/-- A bundle whose one slot has no definition traps, and nothing of it happens. -/
theorem State.issueDue_undefined {s : State} {k j : Nat} {b : Bundle} {w : SlotWord} {err : DecodeError}
    (hc : s.CanHandle k j) (gtrap : (s.ctx k j).gtrap = none) (ltrap : (s.ctx k j).ltrap = none)
    (again : (s.ctx k j).again = none) (hf : (s.core k).fetch s.free j = .bundle (s.ctx k j).pc b)
    (hb : b.slots = [w]) (hw : w.ins = .error err) :
    s.issueDue k j = s.takeTrap k j (illegal w.kind w.raw b.header) (s.ctx k j).pc := by
  obtain ⟨-, -, hg, hp⟩ := hc
  have hslots : Bundle.toSlots b = [{ kind := w.kind, raw := w.raw, ins := .error err, sem := {} }] := by
    simp [Bundle.toSlots, hb, hw]
  rw [State.issueDue_alone hp hf, hslots,
    issueBundle_whole (e := s.envAt k j (s.ctx k j).pc b) again]
  unfold issueWhole
  rw [due16_of_gangless (e := s.envAt k j (s.ctx k j).pc b) gtrap ltrap hg, firstTrap_of_undefined _ rfl]
  rfl

theorem State.undefined_of_error {s : State} {k j a : Nat} {b : Bundle} {w : SlotWord} {err : DecodeError}
    (hf : (s.core k).fetch s.free j = .bundle a b) (hb : w ∈ b.slots) (hw : w.ins = .error err) :
    s.undefined k j = true := by
  simp only [State.undefined, hf, List.any_eq_true]
  exact ⟨w, hb, by rw [hw]⟩

theorem exec_illegalEncoding {s : State} {k j : Nat} (hr : s.readyOn k = some j) (hu : s.undefined k j = true) :
    exec (.illegalEncoding k) s = .next (s.issueDue k j) := by
  show execIllegalEncoding k s = _
  simp [execIllegalEncoding, hr, happen, hu]

/-! ## Soft errors (R293) -/

theorem flipBit_eq (f : Flip) (fs : List Flip) :
    flipBit f fs = if f ∈ fs then fs.filter (· != f) else fs ++ [f] := by
  simp [flipBit]

theorem toggle_eq (n : Nat) (l : List Nat) :
    toggle n l = if n ∈ l then l.filter (· != n) else l ++ [n] := by
  simp [toggle]

/-- A soft error strikes a stored bit that it can strike. -/
theorem exec_softError {s : State} {f : FlipAt} (he : FlipAt.exists_ f = true) (hs : s.canFlip f = true) :
    exec (.softError f) s = .next (s.flip f) := by
  show execSoftError f s = _
  simp [execSoftError, happen, he, hs]

/-- Where an operand register or latch has its rows. -/
theorem operRow_register (j r : Nat) (h : r < 34) : operRow j (768 + r) = (64 * j + r) * 16 := by
  have : 768 + r < 1024 := by omega
  simp only [operRow, if_pos this]
  omega

/-- Where a hold register has its rows (R129). -/
theorem operRow_hold (j r : Nat) : operRow j (1024 + r) = (64 * j + 33 + r) * 16 := by
  simp only [operRow, if_neg (show ¬ 1024 + r < 1024 by omega)]
  omega

section
variable {s : State} {k j n b : Nat}

/-- A bit of word `n` of an operand register, latch or hold register. -/
theorem flip_voper (u : VUnit) (code : Nat) (hb : b < 64) :
    s.flip (.voper k j u code (64 * n + b)) = s.flipRow k ⟨operArray u, operRow j code + n, b⟩ := by
  have hq : (64 * n + b) / 64 = n := by omega
  have hr : (64 * n + b) % 64 = b := by omega
  simp only [State.flip, hq, hr]

/-- A bit of word `n` of an edge latch. -/
theorem flip_edge (side : Bool) (hb : b < 64) : s.flip (.edge k j side (64 * n + b)) =
    s.flipRow k ⟨11, j * 32 + (if side then 16 else 0) + n, b⟩ := by
  have hq : (64 * n + b) / 64 = n := by omega
  have hr : (64 * n + b) % 64 = b := by omega
  simp only [State.flip, hq, hr]

theorem softError_register (hk : k < 1024) (hb : b < 64) (u : VUnit) {r : Nat} (hj : j < 4) (hr : r < 34)
    (hn : n < 16) : exec (.softError (.voper k j u (768 + r) (64 * n + b))) s =
      .next (s.flipRow k ⟨operArray u, (64 * j + r) * 16 + n, b⟩) := by
  rw [exec_softError (by simp [FlipAt.exists_]; omega) rfl, flip_voper u _ hb, operRow_register j r hr]

theorem softError_hold (hk : k < 1024) (hb : b < 64) (u : VUnit) {r : Nat} (hj : j < 4) (hr : 1 ≤ r) (hr' : r < 4)
    (hn : n < 16) : exec (.softError (.voper k j u (1024 + r) (64 * n + b))) s =
      .next (s.flipRow k ⟨operArray u, (64 * j + 33 + r) * 16 + n, b⟩) := by
  rw [exec_softError (by simp [FlipAt.exists_]; omega) rfl, flip_voper u _ hb, operRow_hold]

theorem softError_edge (hk : k < 1024) (hb : b < 64) (side : Bool) (hj : j < 4) (hn : n < 16) :
    exec (.softError (.edge k j side (64 * n + b))) s =
      .next (s.flipRow k ⟨11, j * 32 + (if side then 16 else 0) + n, b⟩) := by
  rw [exec_softError (by simp [FlipAt.exists_]; omega) rfl, flip_edge side hb]

/-- A beat leaves a wrong cell in an unchecked bank: the cell has one bit flipped (R231). -/
theorem softError_accum {i c : Nat} (hk : k < 1024) (hn : n < 4) (hi : i < 32) (hc : c < 32) (hb : b < 32)
    (hu : (AMap.get (s.core k).accs n {}).checked = false) :
    ∃ t, exec (.softError (.accum k n i c b)) s = .next t ∧
      (AMap.get (t.core k).accs n {}).cells.get (32 * i + c) 0 =
        (AMap.get (s.core k).accs n {}).cells.get (32 * i + c) 0 ^^^ (1#32 <<< b) := by
  refine ⟨_, exec_softError (by simp [FlipAt.exists_, *]) (by simp [State.canFlip, hu]), ?_⟩
  simp only [State.flip, State.core_modCore_self, AMap.upd, AMap.get_set_self, AccBank.flip,
    BitVec.natCast_eq_ofNat]
  rfl

/-- A trade in flight loses its transit buffer (R301). -/
theorem softError_transit {m : Cmd} {t : Trade} (hk : k < 1024) (hj : j < 4) (hm : (s.ctx k j).cmds = [m])
    (hs : m.status = .flight t) : ∃ u, exec (.softError (.transit k j m.seq)) s = .next u ∧
      (u.ctx k j).cmds = [{ m with status := .flight { t with bad := true } }] := by
  refine ⟨_, exec_softError (by simp [FlipAt.exists_, *]) rfl, ?_⟩
  simp [State.flip, hm, hs]

end

end Sys2Proof.Machine

namespace Sys2Proof.Claims

open Sys2Proof Sys2Proof.Machine

theorem afterPowerOn : AfterPowerOn := by
  refine ⟨rfl, rfl, fun k => ?_, fun k sl => ?_, fun _ _ => rfl, fun _ _ => rfl, ?_, fun d hd => ?_, ?_,
    fun v hv => ?_, fun _ => ⟨rfl, rfl, rfl, rfl, rfl⟩⟩
  · rw [State.reset_core]
    exact ⟨rfl, rfl, fun j => by rw [State.ctx, State.reset_core]; rfl⟩
  · rw [State.reset_core]; rfl
  · rw [State.reset_dom]; rfl
  · rw [State.reset_dom, if_neg hd]
  · rw [State.reset_vi]; rfl
  · rw [State.reset_vi, if_neg hv]

theorem resets : Resets := by
  intro s
  obtain ⟨now, hmem, pmem, psb, gangs, launches⟩ : s.powerOn.now = 0 ∧ s.powerOn.hmem = s.hmem ∧
      s.powerOn.pmem = [] ∧ s.powerOn.psb = [] ∧ s.powerOn.gangs = [] ∧ s.powerOn.launches = [] := by
    obtain ⟨ds, c, n, m, h⟩ := s.powerOn_eq
    rw [h]
    exact ⟨rfl, rfl, rfl, rfl, rfl, rfl⟩
  have vi := s.powerOn_interface
  refine ⟨s.powerOn, rfl, now, hmem, pmem, psb, ?_, ?_, fun d hd => ?_, (vi 0).2.2, fun v hv => ?_,
    fun v => ⟨(vi v).1, (vi v).2.1⟩, gangs, launches, ?_⟩
  · rw [s.powerOn_dom, State.reset_dom]; rfl
  · rw [s.powerOn_dom, State.reset_dom]; rfl
  · rw [s.powerOn_dom, State.reset_dom, if_neg hd]
  · rw [(vi v).2.2, if_neg hv]
  · split
    · rename_i verified
      exact s.powerOn_boots verified
    · rename_i failed
      exact s.powerOn_holds failed

theorem undefinedBundles : UndefinedBundles := by
  intro s k j b w e run ready frozen issueAt notB heldB hc gtrap ltrap faults guard again hf hb hw
  have hr := State.readyOn_eq run ready frozen issueAt notB heldB
  rw [exec_illegalEncoding hr (State.undefined_of_error hf (by simp [hb]) hw),
    State.issueDue_undefined hc gtrap ltrap again hf hb hw,
    takeTrap_handled hc _ _ (by simp [illegal]) (by simp [illegal])]
  unfold illegal
  rw [image_slot]

theorem softErrors : SoftErrors := by
  intro s k n b hk hb toggled turned
  have ht : toggled = s.flipRow k := funext fun f => by simp only [toggled, State.flipRow, flipBit_eq]
  have hu : turned = toggle := funext fun m => funext fun l => (toggle_eq m l).symm
  clear_value toggled turned
  subst ht hu
  refine ⟨fun hn => ?_, fun hn => ?_, fun hn => ?_, fun j hj hn => ?_, fun j hj h1 hn => ?_, fun hn => ⟨?_, ?_⟩,
    fun j u r hj hr hn => softError_register hk hb u hj hr hn,
    fun j r hj h1 hr hn u => softError_hold hk hb u hj h1 hr hn,
    fun i c hn hi hc hb' => ⟨?_, softError_accum hk hn hi hc hb'⟩,
    fun j side hj hn => softError_edge hk hb side hj hn, fun j hj h1 hn hb' => ⟨?_, ?_⟩, fun hn => ?_,
    fun d hd hn copy hc => ?_, fun j m t hj hm hs => softError_transit hk hj hm hs, ?_, ?_, ?_,
    fun cl hcl hn => ?_, fun hn => ⟨?_, ?_⟩⟩
  -- The other places are the fields of their own flip, so that only their bounds remain.
  all_goals exact exec_softError (by simp_all [FlipAt.exists_]) rfl

/-- Settles O54: the state after power-on table by table, a reset as that state with what outlives it, the trap of an
undefined slot, and one flipped bit for each kind of stored bit. -/
theorem resetsAndErrors : Obligations.ResetsAndErrors :=
  ⟨afterPowerOn, resets, undefinedBundles, softErrors⟩

end Sys2Proof.Claims
end
